-- ==== Sys2Proof/Word.lean ====
section
/-! DEFINITION. The word types of the Tillum W64: every multi-byte value is little-endian (R10). -/
namespace Sys2Proof

/-- A byte, the unit of memory. -/
abbrev Byte := BitVec 8
/-- An instruction word (R16). -/
abbrev W32 := BitVec 32
/-- A pc, restart point or code address: 48 bits (R173, R250). -/
abbrev Pc := BitVec 48
/-- A scalar register, an address, an 8-byte item (R171). -/
abbrev W64 := BitVec 64
/-- A name (R278). -/
abbrev W128 := BitVec 128
/-- A vector register or a one-word command (R27, R171). -/
abbrev W256 := BitVec 256
/-- A stitch, a line, a two-word command (R27, R250). -/
abbrev W512 := BitVec 512

end Sys2Proof
end

