-- ==== Sys2Proof/Syntax.lean ====
section
/-! DEFINITION. The steps of the Tillum W64: one constructor per row of the table of operations and events, first the
instruction words (R16 to R23), then the commands of the engines and the events of the other agents. An instruction's
fields are those it uses (R18); an event names the unit it happens at and, where the spec leaves the outcome to the
outside world, that outcome. -/
namespace Sys2Proof

/-- Element types, field `et` (R18, R140). -/
inductive Et where
  | i8 | i16 | i32 | u32 | fp16 | bf16 | fp32
  deriving DecidableEq, Repr

/-- Scope codes 0 to 5 (R18, R305). -/
inductive Scope where
  | none | core | cluster | die | device | system
  deriving DecidableEq, Repr

/-- Order codes (R18). -/
inductive Order where
  | relaxed | acquire | release | acqRel
  deriving DecidableEq, Repr

/-- The engines a CMDQ names (R18). -/
inductive Eng where
  | copy | matrix
  deriving DecidableEq, Repr

/-- One whole and indivisible step of the part. -/
inductive Instr where
  /-- NOP (R188). -/
  | nop
  /-- TRAP (R190). -/
  | trap (a : BitVec 5)
  /-- BRK (R190). -/
  | brk
  /-- HALT (R190). -/
  | halt (a : BitVec 5)
  /-- RDK (R189). -/
  | rdk (d : BitVec 5) (b : BitVec 5)
  /-- WRK (R189). -/
  | wrk (a : BitVec 5) (b : BitVec 5)
  /-- COMMIT (R92). -/
  | commit
  /-- YIELD (R263). -/
  | yield
  /-- END (R263). -/
  | endTask
  /-- ICINV (R191). -/
  | icinv
  /-- KSYNC (R191). -/
  | ksync (a : BitVec 5)
  /-- ADD (R180). -/
  | add (d : BitVec 5) (a : BitVec 5) (b : BitVec 5)
  /-- SUB (R180). -/
  | sub (d : BitVec 5) (a : BitVec 5) (b : BitVec 5)
  /-- AND (R180). -/
  | and (d : BitVec 5) (a : BitVec 5) (b : BitVec 5)
  /-- OR (R180). -/
  | or (d : BitVec 5) (a : BitVec 5) (b : BitVec 5)
  /-- XOR (R180). -/
  | xor (d : BitVec 5) (a : BitVec 5) (b : BitVec 5)
  /-- ANDN (R180). -/
  | andn (d : BitVec 5) (a : BitVec 5) (b : BitVec 5)
  /-- SHL (R180). -/
  | shl (d : BitVec 5) (a : BitVec 5) (b : BitVec 5)
  /-- SHR (R180). -/
  | shr (d : BitVec 5) (a : BitVec 5) (b : BitVec 5)
  /-- SRA (R180). -/
  | sra (d : BitVec 5) (a : BitVec 5) (b : BitVec 5)
  /-- ROL (R180). -/
  | rol (d : BitVec 5) (a : BitVec 5) (b : BitVec 5)
  /-- MUL (R180). -/
  | mul (d : BitVec 5) (a : BitVec 5) (b : BitVec 5)
  /-- MULH (R180). -/
  | mulh (d : BitVec 5) (a : BitVec 5) (b : BitVec 5)
  /-- MULHU (R180). -/
  | mulhu (d : BitVec 5) (a : BitVec 5) (b : BitVec 5)
  /-- DIV (R181). -/
  | div (d : BitVec 5) (a : BitVec 5) (b : BitVec 5)
  /-- DIVU (R181). -/
  | divu (d : BitVec 5) (a : BitVec 5) (b : BitVec 5)
  /-- REM (R181). -/
  | rem (d : BitVec 5) (a : BitVec 5) (b : BitVec 5)
  /-- REMU (R181). -/
  | remu (d : BitVec 5) (a : BitVec 5) (b : BitVec 5)
  /-- MIN (R180). -/
  | min (d : BitVec 5) (a : BitVec 5) (b : BitVec 5)
  /-- MAX (R180). -/
  | max (d : BitVec 5) (a : BitVec 5) (b : BitVec 5)
  /-- MINU (R180). -/
  | minu (d : BitVec 5) (a : BitVec 5) (b : BitVec 5)
  /-- MAXU (R180). -/
  | maxu (d : BitVec 5) (a : BitVec 5) (b : BitVec 5)
  /-- SLT (R180). -/
  | slt (d : BitVec 5) (a : BitVec 5) (b : BitVec 5)
  /-- SLTU (R180). -/
  | sltu (d : BitVec 5) (a : BitVec 5) (b : BitVec 5)
  /-- SEQ (R180). -/
  | seq (d : BitVec 5) (a : BitVec 5) (b : BitVec 5)
  /-- CLZ (R180). -/
  | clz (d : BitVec 5) (a : BitVec 5)
  /-- CTZ (R180). -/
  | ctz (d : BitVec 5) (a : BitVec 5)
  /-- POPC (R180). -/
  | popc (d : BitVec 5) (a : BitVec 5)
  /-- SEXTB (R180). -/
  | sextb (d : BitVec 5) (a : BitVec 5)
  /-- SEXTH (R180). -/
  | sexth (d : BitVec 5) (a : BitVec 5)
  /-- SEXTW (R180). -/
  | sextw (d : BitVec 5) (a : BitVec 5)
  /-- ZEXTW (R180). -/
  | zextw (d : BitVec 5) (a : BitVec 5)
  /-- LEA1 (R180). -/
  | lea1 (d : BitVec 5) (a : BitVec 5) (b : BitVec 5)
  /-- LEA2 (R180). -/
  | lea2 (d : BitVec 5) (a : BitVec 5) (b : BitVec 5)
  /-- LEA3 (R180). -/
  | lea3 (d : BitVec 5) (a : BitVec 5) (b : BitVec 5)
  /-- ADDI (R182). -/
  | addi (d : BitVec 5) (a : BitVec 5) (imm : BitVec 16)
  /-- ANDI (R182). -/
  | andi (d : BitVec 5) (a : BitVec 5) (imm : BitVec 16)
  /-- ORI (R182). -/
  | ori (d : BitVec 5) (a : BitVec 5) (imm : BitVec 16)
  /-- XORI (R182). -/
  | xori (d : BitVec 5) (a : BitVec 5) (imm : BitVec 16)
  /-- SLTI (R182). -/
  | slti (d : BitVec 5) (a : BitVec 5) (imm : BitVec 16)
  /-- SLTIU (R182). -/
  | sltiu (d : BitVec 5) (a : BitVec 5) (imm : BitVec 16)
  /-- SHLI (R182). -/
  | shli (d : BitVec 5) (a : BitVec 5) (amt : BitVec 6)
  /-- SHRI (R182). -/
  | shri (d : BitVec 5) (a : BitVec 5) (amt : BitVec 6)
  /-- SRAI (R182). -/
  | srai (d : BitVec 5) (a : BitVec 5) (amt : BitVec 6)
  /-- LIH (R183). -/
  | lih (d : BitVec 5) (pos : BitVec 2) (imm : BitVec 16)
  /-- LI (R183). -/
  | li (d : BitVec 5) (imm : BitVec 21)
  /-- VADDT (R200). -/
  | vaddt (d : BitVec 4) (a : BitVec 4) (b : BitVec 4) (et : Et) (mk : BitVec 2)
  /-- VSUBT (R200). -/
  | vsubt (d : BitVec 4) (a : BitVec 4) (b : BitVec 4) (et : Et) (mk : BitVec 2)
  /-- VMULT (R200). -/
  | vmult (d : BitVec 4) (a : BitVec 4) (b : BitVec 4) (et : Et) (mk : BitVec 2)
  /-- VMINT (R200). -/
  | vmint (d : BitVec 4) (a : BitVec 4) (b : BitVec 4) (et : Et) (mk : BitVec 2)
  /-- VMAXT (R200). -/
  | vmaxt (d : BitVec 4) (a : BitVec 4) (b : BitVec 4) (et : Et) (mk : BitVec 2)
  /-- VABS (R200). -/
  | vabs (d : BitVec 4) (a : BitVec 4) (et : Et) (mk : BitVec 2)
  /-- VNEG (R200). -/
  | vneg (d : BitVec 4) (a : BitVec 4) (et : Et) (mk : BitVec 2)
  /-- VSHLT (R200). -/
  | vshlt (d : BitVec 4) (a : BitVec 4) (b : BitVec 4) (et : Et) (mk : BitVec 2)
  /-- VSHRT (R200). -/
  | vshrt (d : BitVec 4) (a : BitVec 4) (b : BitVec 4) (et : Et) (mk : BitVec 2)
  /-- VSRAT (R200). -/
  | vsrat (d : BitVec 4) (a : BitVec 4) (b : BitVec 4) (et : Et) (mk : BitVec 2)
  /-- VADDS (R200). -/
  | vadds (d : BitVec 4) (a : BitVec 4) (b : BitVec 4) (et : Et) (mk : BitVec 2)
  /-- VSUBS (R200). -/
  | vsubs (d : BitVec 4) (a : BitVec 4) (b : BitVec 4) (et : Et) (mk : BitVec 2)
  /-- VFSUB (R201). -/
  | vfsub (d : BitVec 4) (a : BitVec 4) (b : BitVec 4) (et : Et) (mk : BitVec 2)
  /-- VFDIV (R201). -/
  | vfdiv (d : BitVec 4) (a : BitVec 4) (b : BitVec 4) (et : Et) (mk : BitVec 2)
  /-- VFSQRT (R201). -/
  | vfsqrt (d : BitVec 4) (a : BitVec 4) (et : Et) (mk : BitVec 2)
  /-- VFRCP (R201). -/
  | vfrcp (d : BitVec 4) (a : BitVec 4) (et : Et) (mk : BitVec 2)
  /-- VFMINT (R201). -/
  | vfmint (d : BitVec 4) (a : BitVec 4) (b : BitVec 4) (et : Et) (mk : BitVec 2)
  /-- VFMAXT (R201). -/
  | vfmaxt (d : BitVec 4) (a : BitVec 4) (b : BitVec 4) (et : Et) (mk : BitVec 2)
  /-- VFABS (R201). -/
  | vfabs (d : BitVec 4) (a : BitVec 4) (et : Et) (mk : BitVec 2)
  /-- VFNEG (R201). -/
  | vfneg (d : BitVec 4) (a : BitVec 4) (et : Et) (mk : BitVec 2)
  /-- VFMAT (R201). -/
  | vfmat (d : BitVec 4) (a : BitVec 4) (b : BitVec 4) (et : Et) (mk : BitVec 2)
  /-- VCMP (R202). -/
  | vcmp (d : BitVec 4) (a : BitVec 4) (cond : BitVec 4) (et : Et) (mk : BitVec 2)
  /-- MAND (R203). -/
  | mand (md : BitVec 3) (ma : BitVec 3) (mb : BitVec 3) (et : Et)
  /-- MOR (R203). -/
  | mor (md : BitVec 3) (ma : BitVec 3) (mb : BitVec 3) (et : Et)
  /-- MXOR (R203). -/
  | mxor (md : BitVec 3) (ma : BitVec 3) (mb : BitVec 3) (et : Et)
  /-- MNOT (R203). -/
  | mnot (md : BitVec 3) (ma : BitVec 3) (et : Et)
  /-- MPOPC (R203). -/
  | mpopc (sd : BitVec 4) (ma : BitVec 3) (et : Et)
  /-- MFIRST (R203). -/
  | mfirst (sd : BitVec 4) (ma : BitVec 3) (et : Et)
  /-- VCVT (R204). -/
  | vcvt (d : BitVec 4) (a : BitVec 4) (dt : Et) (et : Et) (rm : BitVec 2)
  /-- VSPLAT (R205). -/
  | vsplat (d : BitVec 4) (sa : BitVec 4) (et : Et) (mk : BitVec 2)
  /-- VEXT (R205). -/
  | vext (sd : BitVec 4) (a : BitVec 4) (sb : BitVec 4) (et : Et)
  /-- VINS (R205). -/
  | vins (d : BitVec 4) (sa : BitVec 4) (sb : BitVec 4) (et : Et)
  /-- VREDADD (R206). -/
  | vredadd (sd : BitVec 4) (a : BitVec 4) (et : Et) (mk : BitVec 2)
  /-- VREDMIN (R206). -/
  | vredmin (sd : BitVec 4) (a : BitVec 4) (et : Et) (mk : BitVec 2)
  /-- VREDMAX (R206). -/
  | vredmax (sd : BitVec 4) (a : BitVec 4) (et : Et) (mk : BitVec 2)
  /-- VSCAN (R206). -/
  | vscan (d : BitVec 4) (a : BitVec 4) (et : Et) (mk : BitVec 2)
  /-- VPERM (R207). -/
  | vperm (d : BitVec 4) (a : BitVec 4) (b : BitVec 4) (et : Et) (mk : BitVec 2)
  /-- VCOMPRESS (R207). -/
  | vcompress (d : BitVec 4) (a : BitVec 4) (mb : BitVec 3) (et : Et) (mk : BitVec 2)
  /-- VLD (R208). -/
  | vld (d : BitVec 4) (sa : BitVec 4) (et : Et) (mk : BitVec 2)
  /-- VST (R208). -/
  | vst (d : BitVec 4) (sa : BitVec 4) (et : Et) (mk : BitVec 2)
  /-- VLDS (R208). -/
  | vlds (d : BitVec 4) (sa : BitVec 4) (sb : BitVec 4) (et : Et) (mk : BitVec 2)
  /-- VSTS (R208). -/
  | vsts (d : BitVec 4) (sa : BitVec 4) (sb : BitVec 4) (et : Et) (mk : BitVec 2)
  /-- VGATH (R208). -/
  | vgath (d : BitVec 4) (sa : BitVec 4) (b : BitVec 4) (et : Et) (mk : BitVec 2)
  /-- VSCAT (R208). -/
  | vscat (d : BitVec 4) (sa : BitVec 4) (b : BitVec 4) (et : Et) (mk : BitVec 2)
  /-- VSREAD (R211). -/
  | vsread (d : BitVec 4) (q : BitVec 2)
  /-- LDB (R88). -/
  | ldb (d : BitVec 5) (a : BitVec 5) (imm : BitVec 16)
  /-- LDBS (R88). -/
  | ldbs (d : BitVec 5) (a : BitVec 5) (imm : BitVec 16)
  /-- LDH (R88). -/
  | ldh (d : BitVec 5) (a : BitVec 5) (imm : BitVec 16)
  /-- LDHS (R88). -/
  | ldhs (d : BitVec 5) (a : BitVec 5) (imm : BitVec 16)
  /-- LDW (R88). -/
  | ldw (d : BitVec 5) (a : BitVec 5) (imm : BitVec 16)
  /-- LDWS (R88). -/
  | ldws (d : BitVec 5) (a : BitVec 5) (imm : BitVec 16)
  /-- LDD (R89). -/
  | ldd (d : BitVec 5) (a : BitVec 5) (imm : BitVec 16)
  /-- STB (R90). -/
  | stb (d : BitVec 5) (a : BitVec 5) (imm : BitVec 16)
  /-- STH (R90). -/
  | sth (d : BitVec 5) (a : BitVec 5) (imm : BitVec 16)
  /-- STW (R90). -/
  | stw (d : BitVec 5) (a : BitVec 5) (imm : BitVec 16)
  /-- STD (R90). -/
  | std (d : BitVec 5) (a : BitVec 5) (imm : BitVec 16)
  /-- LDA (R95). -/
  | lda (d : BitVec 5) (a : BitVec 5) (scope : Scope) (size : BitVec 2)
  /-- STL (R96). -/
  | stl (d : BitVec 5) (a : BitVec 5) (scope : Scope) (size : BitVec 2)
  /-- FST (R98). -/
  | fst (d : BitVec 5) (a : BitVec 5) (b : BitVec 5) (scope : Scope) (order : Order) (size : BitVec 2)
  /-- FENCE (R97). -/
  | fence (scope : Scope) (order : Order)
  /-- AMOADD (R292). -/
  | amoadd (d : BitVec 5) (a : BitVec 5) (b : BitVec 5) (scope : Scope) (order : Order) (size : BitVec 2)
  /-- AMOAND (R292). -/
  | amoand (d : BitVec 5) (a : BitVec 5) (b : BitVec 5) (scope : Scope) (order : Order) (size : BitVec 2)
  /-- AMOOR (R292). -/
  | amoor (d : BitVec 5) (a : BitVec 5) (b : BitVec 5) (scope : Scope) (order : Order) (size : BitVec 2)
  /-- AMOXOR (R292). -/
  | amoxor (d : BitVec 5) (a : BitVec 5) (b : BitVec 5) (scope : Scope) (order : Order) (size : BitVec 2)
  /-- AMOSMIN (R292). -/
  | amosmin (d : BitVec 5) (a : BitVec 5) (b : BitVec 5) (scope : Scope) (order : Order) (size : BitVec 2)
  /-- AMOSMAX (R292). -/
  | amosmax (d : BitVec 5) (a : BitVec 5) (b : BitVec 5) (scope : Scope) (order : Order) (size : BitVec 2)
  /-- AMOUMIN (R292). -/
  | amoumin (d : BitVec 5) (a : BitVec 5) (b : BitVec 5) (scope : Scope) (order : Order) (size : BitVec 2)
  /-- AMOUMAX (R292). -/
  | amoumax (d : BitVec 5) (a : BitVec 5) (b : BitVec 5) (scope : Scope) (order : Order) (size : BitVec 2)
  /-- AMOSWAP (R292). -/
  | amoswap (d : BitVec 5) (a : BitVec 5) (b : BitVec 5) (scope : Scope) (order : Order) (size : BitVec 2)
  /-- AMOCAS (R292). -/
  | amocas (d : BitVec 5) (a : BitVec 5) (b : BitVec 5) (scope : Scope) (order : Order) (size : BitVec 2)
  /-- AMOFADD (R292). -/
  | amofadd (d : BitVec 5) (a : BitVec 5) (b : BitVec 5) (scope : Scope) (order : Order)
  /-- AMOCAS128 (R292). -/
  | amocas128 (d : BitVec 5) (a : BitVec 5) (b : BitVec 5) (scope : Scope) (order : Order)
  /-- NNEW (R287). -/
  | nnew (d : BitVec 5) (a : BitVec 5) (b : BitVec 5) (scope : Scope) (order : Order)
  /-- NKILL (R288). -/
  | nkill (d : BitVec 5) (a : BitVec 5) (scope : Scope) (order : Order) (sync : BitVec 1)
  /-- NRES (R289). -/
  | nres (d : BitVec 5) (a : BitVec 5) (b : BitVec 5) (scope : Scope) (order : Order)
  /-- NCAS (R290). -/
  | ncas (d : BitVec 5) (a : BitVec 5) (b : BitVec 5) (scope : Scope) (order : Order) (live : BitVec 1)
  /-- NWAIT (R291). -/
  | nwait (d : BitVec 5) (a : BitVec 5) (scope : Scope)
  /-- WAITA (R295). -/
  | waita (d : BitVec 5) (a : BitVec 5) (b : BitVec 5) (scope : Scope)
  /-- WAKE (R296). -/
  | wake (d : BitVec 5) (a : BitVec 5) (b : BitVec 5) (scope : Scope) (order : Order)
  /-- BARA (R300). -/
  | bara (d : BitVec 5) (a : BitVec 5)
  /-- BARW (R301). -/
  | barw (d : BitVec 5) (a : BitVec 5) (b : BitVec 5)
  /-- BEQ (R184). -/
  | beq (a : BitVec 5) (b : BitVec 5) (off : BitVec 16)
  /-- BNE (R184). -/
  | bne (a : BitVec 5) (b : BitVec 5) (off : BitVec 16)
  /-- BLT (R184). -/
  | blt (a : BitVec 5) (b : BitVec 5) (off : BitVec 16)
  /-- BGE (R184). -/
  | bge (a : BitVec 5) (b : BitVec 5) (off : BitVec 16)
  /-- BLTU (R184). -/
  | bltu (a : BitVec 5) (b : BitVec 5) (off : BitVec 16)
  /-- BGEU (R184). -/
  | bgeu (a : BitVec 5) (b : BitVec 5) (off : BitVec 16)
  /-- JMP (R184). -/
  | jmp (off : BitVec 26)
  /-- CALL (R175). -/
  | call (fsz : BitVec 3) (off : BitVec 23)
  /-- JR (R185). -/
  | jr (a : BitVec 5)
  /-- JALR (R176). -/
  | jalr (a : BitVec 5)
  /-- RET (R177). -/
  | ret
  /-- LOOP (R184). -/
  | loop (a : BitVec 5) (off : BitVec 16)
  /-- SPAWN (R264). -/
  | spawn (d : BitVec 5) (a : BitVec 5) (b : BitVec 5)
  /-- SEND (R268). -/
  | send (d : BitVec 5) (a : BitVec 5) (b : BitVec 5)
  /-- RECV (R268). -/
  | recv (d : BitVec 5) (a : BitVec 5)
  /-- SETPRIO (R266). -/
  | setprio (d : BitVec 5) (a : BitVec 5)
  /-- TASKNAME (R265). -/
  | taskname (d : BitVec 5) (a : BitVec 5)
  /-- SREAD (R187). -/
  | sread (d : BitVec 5) (q : BitVec 2)
  /-- SPEEK (R187). -/
  | speek (d : BitVec 5) (q : BitVec 2)
  /-- SSTAT (R187). -/
  | sstat (d : BitVec 5) (q : BitVec 2)
  /-- SDROP (R187). -/
  | sdrop (q : BitVec 2)
  /-- CHLD (R112). -/
  | chld (vs : BitVec 4)
  /-- CMDQ (R27). -/
  | cmdq (vs : BitVec 4) (eng : Eng) (n : BitVec 1) (chk : BitVec 1)
  /-- TOKACQ (R103). -/
  | tokacq (d : BitVec 5) (a : BitVec 5)
  /-- TOKREL (R104). -/
  | tokrel (d : BitVec 5) (a : BitVec 5)
  /-- VADD (R197). -/
  | vadd (d : BitVec 4) (a : BitVec 4) (b : BitVec 4) (twist : BitVec 12) (mk : BitVec 2)
  /-- VSUB (R197). -/
  | vsub (d : BitVec 4) (a : BitVec 4) (b : BitVec 4) (twist : BitVec 12) (mk : BitVec 2)
  /-- VMUL (R197). -/
  | vmul (d : BitVec 4) (a : BitVec 4) (b : BitVec 4) (twist : BitVec 12) (mk : BitVec 2)
  /-- VMAC (R197). -/
  | vmac (d : BitVec 4) (a : BitVec 4) (b : BitVec 4) (twist : BitVec 12) (mk : BitVec 2)
  /-- VAND (R197). -/
  | vand (d : BitVec 4) (a : BitVec 4) (b : BitVec 4) (twist : BitVec 12) (mk : BitVec 2)
  /-- VOR (R197). -/
  | vor (d : BitVec 4) (a : BitVec 4) (b : BitVec 4) (twist : BitVec 12) (mk : BitVec 2)
  /-- VXOR (R197). -/
  | vxor (d : BitVec 4) (a : BitVec 4) (b : BitVec 4) (twist : BitVec 12) (mk : BitVec 2)
  /-- VSHL (R197). -/
  | vshl (d : BitVec 4) (a : BitVec 4) (b : BitVec 4) (twist : BitVec 12) (mk : BitVec 2)
  /-- VSHR (R197). -/
  | vshr (d : BitVec 4) (a : BitVec 4) (b : BitVec 4) (twist : BitVec 12) (mk : BitVec 2)
  /-- VMIN (R197). -/
  | vmin (d : BitVec 4) (a : BitVec 4) (b : BitVec 4) (twist : BitVec 12) (mk : BitVec 2)
  /-- VMAX (R197). -/
  | vmax (d : BitVec 4) (a : BitVec 4) (b : BitVec 4) (twist : BitVec 12) (mk : BitVec 2)
  /-- VFADD (R197). -/
  | vfadd (d : BitVec 4) (a : BitVec 4) (b : BitVec 4) (twist : BitVec 12) (mk : BitVec 2)
  /-- VFMUL (R197). -/
  | vfmul (d : BitVec 4) (a : BitVec 4) (b : BitVec 4) (twist : BitVec 12) (mk : BitVec 2)
  /-- VFMA (R197). -/
  | vfma (d : BitVec 4) (a : BitVec 4) (b : BitVec 4) (twist : BitVec 12) (mk : BitVec 2)
  /-- VSEL (R197). -/
  | vsel (d : BitVec 4) (a : BitVec 4) (b : BitVec 4) (twist : BitVec 12) (mk : BitVec 2)
  /-- VMOV (R197). -/
  | vmov (d : BitVec 4) (b : BitVec 4) (twist : BitVec 12) (mk : BitVec 2)
  /-- CPY (R159). -/
  | cpy (c : Nat)
  /-- CPYS (R160). -/
  | cpys (c : Nat)
  /-- PACK (R163). -/
  | pack (c : Nat)
  /-- GATH (R162). -/
  | gath (c : Nat)
  /-- SCAT (R162). -/
  | scat (c : Nat)
  /-- FILL (R164). -/
  | fill (c : Nat)
  /-- WLOAD (R164). -/
  | wload (c : Nat)
  /-- CSEQ (R164). -/
  | cseq (c : Nat)
  /-- COPY_COMMAND_COMPLETE (R151). -/
  | copyCommandComplete (c : Nat)
  /-- STAGE_COPY_BEGIN (R166). -/
  | stageCopyBegin (c : Nat)
  /-- CPYS_ITEM (R160). -/
  | cpysItem (c : Nat)
  /-- CPERR_CLEAR (R170). -/
  | cperrClear (g : Nat)
  /-- MCTX (R216). -/
  | mctx (c : Nat)
  /-- MSTG (R218). -/
  | mstg (c : Nat)
  /-- MPASS (R220). -/
  | mpass (c : Nat)
  /-- TNEW (R242). -/
  | tnew (c : Nat)
  /-- TFWD (R243). -/
  | tfwd (c : Nat)
  /-- TREAD (R244). -/
  | tread (c : Nat)
  /-- TABANDON (R245). -/
  | tabandon (c : Nat)
  /-- TSTAT (R245). -/
  | tstat (c : Nat)
  /-- ARRAY_GRANT (R227). -/
  | arrayGrant (cl : Nat) (residueOk : Bool)
  /-- CONTRIBUTION_ARRIVAL (R235). -/
  | contributionArrival (n : Nat)
  /-- TFWD_STATUS_RETURN (R243). -/
  | tfwdStatusReturn (n : Nat)
  /-- ARRAY_IDLE (R228). -/
  | arrayIdle (cl : Nat)
  /-- START_PERMIT_GRANT (R273). -/
  | startPermitGrant (die : Nat)
  /-- MPASS_REPLAY (R229). -/
  | mpassReplay (c : Nat)
  /-- MXERR_CLEAR (R226). -/
  | mxerrClear (g : Nat)
  /-- CMDQ_PUSH (R32). -/
  | cmdqPush (c : Nat) (eng : Eng)
  /-- WEIGHT_STORE_REQUEST (R134). -/
  | weightStoreRequest (n : Nat)
  /-- WS_STATE_CHANGE (R134). -/
  | wsStateChange (die : Nat)
  /-- PREEMPT_SAVE (R330). -/
  | preemptSave (g : Nat)
  /-- FAULT_PACKET_RELEASE (R322). -/
  | faultPacketRelease (die : Nat)
  /-- COMPLETION_RECORD_RELEASE (R357). -/
  | completionRecordRelease (port : Nat)
  /-- MIGRATION_COPY_DONE (R86). -/
  | migrationCopyDone (die : Nat) (n : Nat)
  /-- TCINV_DONE (R77). -/
  | tcinvDone (die : Nat)
  /-- HAND_OVER_COMPLETE (R80). -/
  | handOverComplete (die : Nat)
  /-- RETIRE_COMPLETE (R83). -/
  | retireComplete (die : Nat)
  /-- GRAPH_NODE_SPAWN (R275). -/
  | graphNodeSpawn (n : Nat)
  /-- TMWAKE (R303). -/
  | tmwake (die : Nat)
  /-- LOAD_RETURN (R193). -/
  | loadReturn (n : Nat)
  /-- HOME_REQUEST (R75). -/
  | homeRequest (n : Nat) (peer : BitVec 8)
  /-- HOME_CORRECTION (R82). -/
  | homeCorrection (n : Nat)
  /-- LOCAL_MEMORY_REQUEST (R129). -/
  | localMemoryRequest (n : Nat)
  /-- GUARD_NOTE (R131). -/
  | guardNote (n : Nat)
  /-- COMMIT_COMPLETE (R92). -/
  | commitComplete (g : Nat)
  /-- COMMIT_REFUSAL (R93). -/
  | commitRefusal (g : Nat)
  /-- ATOMIC_AT_NSE (R293). -/
  | atomicAtNse (n : Nat) (peer : BitVec 8)
  /-- ATOMIC_RETURN (R292). -/
  | atomicReturn (g : Nat)
  /-- TOKEN_RECALL (R102). -/
  | tokenRecall (n : Nat)
  /-- CHAIN_STEP (R114). -/
  | chainStep (n : Nat) (peer : BitVec 8)
  /-- CHAIN_RETURN (R116). -/
  | chainReturn (n : Nat)
  /-- NAME_OP_AT_SLICE (R283). -/
  | nameOpAtSlice (n : Nat)
  /-- NAME_OP_RETURN (R286). -/
  | nameOpReturn (g : Nat)
  /-- SHOOT_DOWN (R284). -/
  | shootDown (n : Nat)
  /-- SHOOT_DOWN_ACK (R288). -/
  | shootDownAck (n : Nat)
  /-- SERIAL_BLOCK_RESERVE (R281). -/
  | serialBlockReserve (ok : Bool)
  /-- PARK (R297). -/
  | park (n : Nat)
  /-- SPAWN_APPEND (R264). -/
  | spawnAppend (n : Nat)
  /-- SEND_DELIVERY (R268). -/
  | sendDelivery (n : Nat)
  /-- SEND_STATUS (R268). -/
  | sendStatus (g : Nat)
  /-- KSYNC_COMPLETE (R191). -/
  | ksyncComplete (g : Nat)
  /-- ICINV_COMPLETE (R191). -/
  | icinvComplete (g : Nat)
  /-- DISPATCH (R270). -/
  | dispatch (g : Nat)
  /-- HOLD_LIMIT (R255). -/
  | holdLimit (g : Nat)
  /-- RXRING (R267). -/
  | rxring (g : Nat) (w : Nat) (v : BitVec 64)
  /-- GRREPLAY (R275). -/
  | grreplay (g : Nat) (v : BitVec 64)
  /-- DEADLOCK_TRAP (R302). -/
  | deadlockTrap
  /-- TCINV (R77). -/
  | tcinv (die : Nat) (v : BitVec 64)
  /-- RHREQ_HAND_OVER (R80). -/
  | rhreqHandOver (die : Nat) (v : BitVec 64)
  /-- RHREQ_RETIRE (R83). -/
  | rhreqRetire (die : Nat) (v : BitVec 64)
  /-- MIGREQ (R86). -/
  | migreq (die : Nat) (v : BitVec 64)
  /-- SMPCTL (R84). -/
  | smpctl (die : Nat) (v : BitVec 64)
  /-- SYSTAB (R361). -/
  | systab (die : Nat) (v : BitVec 64)
  /-- WSRIGHTS_READ (R134). -/
  | wsrightsRead (die : Nat) (v : BitVec 64)
  /-- WSRIGHTS_LOAD (R134). -/
  | wsrightsLoad (die : Nat) (v : BitVec 64)
  /-- WS_REFRESH_START (R135). -/
  | wsRefreshStart (die : Nat)
  /-- WS_REFRESH_END (R135). -/
  | wsRefreshEnd (die : Nat)
  /-- RESUME (R325). -/
  | resume (g : Nat)
  /-- RESTART (R325). -/
  | restart (g : Nat)
  /-- KILL (R327). -/
  | kill (g : Nat)
  /-- PRE_EMPT (R330). -/
  | preEmpt (g : Nat)
  /-- STEP (R335). -/
  | step (g : Nat)
  /-- SLOT_VIEW (R326). -/
  | slotView (g : Nat) (off : Nat) (v : BitVec 64) (n : Nat)
  /-- DHALT_SET (R336). -/
  | dhaltSet (die : Nat)
  /-- DHALT_CLEAR (R336). -/
  | dhaltClear (die : Nat)
  /-- CTXKILL (R328). -/
  | ctxkill (v : BitVec 64)
  /-- CTXKILL_COMPLETE (R328). -/
  | ctxkillComplete
  /-- TRSTAT_CLEAR (R338). -/
  | trstatClear (c : Nat)
  /-- HCKPT (R359). -/
  | hckpt (port : Nat) (v : BitVec 64)
  /-- CHECKPOINT_START (R345). -/
  | checkpointStart (die : Nat)
  /-- CHECKPOINT_MARKER (R345). -/
  | checkpointMarker (die : Nat) (input : Nat)
  /-- CHECKPOINT_STREAM_DONE (R346). -/
  | checkpointStreamDone (ok : Bool)
  /-- RECOVERY (R347). -/
  | recovery (round : Nat)
  /-- RAIL_MONITOR_WINDOW (R348). -/
  | railMonitorWindow (die : Nat)
  /-- RMFREEZE (R348). -/
  | rmfreeze (die : Nat)
  /-- LINK_RETRAIN (R349). -/
  | linkRetrain (l : Nat) (ok : Bool)
  /-- LINK_FLIT (R107). -/
  | linkFlit (l : Nat) (good : Bool)
  /-- GOVERNOR_WINDOW (R350). -/
  | governorWindow (die : Nat)
  /-- THROTTLE_ENTRY (R350). -/
  | throttleEntry (die : Nat)
  /-- THROTTLE_EXIT (R350). -/
  | throttleExit (die : Nat)
  /-- GVEXEMPT (R351). -/
  | gvexempt (die : Nat) (v : BitVec 64)
  /-- REGISTER_WRITE (R79). -/
  | registerWrite (addr : BitVec 64) (v : BitVec 64)
  /-- HOST_APERTURE (R355). -/
  | hostAperture (port : Nat) (off : Nat) (size : Nat) (wr : Bool) (v : BitVec 4096)
  /-- HQPUSH (R356). -/
  | hqpush (w : Nat) (off : Nat) (v : BitVec 64)
  /-- HLCREQ (R363). -/
  | hlcreq (port : Nat) (v : BitVec 64)
  /-- HATTEST (R366). -/
  | hattest (port : Nat) (v : BitVec 64)
  /-- HLCGO (R367). -/
  | hlcgo (port : Nat) (v : BitVec 64)
  /-- LOAD_IMAGE (R63). -/
  | loadImage (port : Nat) (ctx : BitVec 16) (img : BitVec 64) (len : Nat)
  /-- MODULE_RESET (R367). -/
  | moduleReset
  /-- LINK_LOST (R106). -/
  | linkLost (l : Nat)
  /-- POWER_LOSS (R364). -/
  | powerLoss
  /-- CHECKPOINT_RANGE_STREAMED (R346). -/
  | checkpointRangeStreamed (r : Nat)
  deriving DecidableEq, Repr

end Sys2Proof
end

