-- ==== Sys2Proof/WellFormed.lean ====
section
/-! DEFINITION. Which instructions are well formed: the value checks of steps 3 and 5 of R24 that a field's width does
not already make. Events carry no encoding and are always well formed. -/
namespace Sys2Proof

/-- A floating element type (R140). -/
def Et.isFloat : Et → Bool
  | .fp16 | .bf16 | .fp32 => true
  | _ => false

/-- The checks of this file by name; an ill-formed instruction is refused with the first that fails. -/
inductive WfCheck where
  /-- class, seg and dist outside the table of R20 -/
  | twist
  /-- fsz 0, 1 or 7 (R24) -/
  | fsz
  /-- a two-word CMDQ from v15 (R24) -/
  | commandPair
  /-- an element type the instruction does not accept (R195) -/
  | et
  /-- a reserved condition, or one the element type does not accept (R202) -/
  | cond
  /-- a scope the instruction excludes (R94, R286, R292, R294) -/
  | scope
  /-- an order the instruction excludes (R94, R286, R294) -/
  | order
  /-- a status register that must not be s0 (R286) -/
  | status
  /-- a result register outside s0 and s8 to s11 (R286, R294) -/
  | parkReg
  deriving DecidableEq, Repr

/-- The twists of R20: class[11:10], seg[9:7], dist[6:0]. -/
def twistOk (t : BitVec 12) : Bool :=
  let cls := (t.extractLsb' 10 2).toNat
  let seg := (t.extractLsb' 7 3).toNat
  let dist := (t.extractLsb' 0 7).toNat
  let len := if seg = 0 then 8 else 2 ^ seg
  if cls = 0 then seg == 0 && dist == 0
  else if cls = 2 then seg ≤ 3 && (dist == 1 || dist == 2 || dist == 4) && dist < len
  else seg ≤ 3 && dist < len

/-- The conditions each element type accepts (R202). -/
def condOk (c : BitVec 4) (et : Et) : Bool :=
  c.toNat ≤ 5 || (c.toNat == 6 && et.isFloat) || (8 ≤ c.toNat && c.toNat ≤ 11 && !et.isFloat)

/-- Scope 0 with order relaxed and 1 to 5 otherwise (R286, R292, R294). -/
def orderScope (o : Order) (sc : Scope) : Bool :=
  decide (o = .relaxed ↔ sc = .none)

/-- A register a park may deliver its result to: s0 or s8 to s11. -/
def parkReg (d : BitVec 5) : Bool := d.toNat == 0 || (8 ≤ d.toNat && d.toNat ≤ 11)

/-- The first check that fails, with the checks given in order. -/
def firstFail : List (WfCheck × Bool) → Option WfCheck
  | [] => none
  | (c, ok) :: rest => if ok then firstFail rest else some c

/-- The checks of each constructor. -/
def Instr.wfCheck : Instr → Option WfCheck
  | .nop => none
  | .trap _ => none
  | .brk => none
  | .halt _ => none
  | .rdk _ _ => none
  | .wrk _ _ => none
  | .commit => none
  | .yield => none
  | .endTask => none
  | .icinv => none
  | .ksync _ => none
  | .add _ _ _ => none
  | .sub _ _ _ => none
  | .and _ _ _ => none
  | .or _ _ _ => none
  | .xor _ _ _ => none
  | .andn _ _ _ => none
  | .shl _ _ _ => none
  | .shr _ _ _ => none
  | .sra _ _ _ => none
  | .rol _ _ _ => none
  | .mul _ _ _ => none
  | .mulh _ _ _ => none
  | .mulhu _ _ _ => none
  | .div _ _ _ => none
  | .divu _ _ _ => none
  | .rem _ _ _ => none
  | .remu _ _ _ => none
  | .min _ _ _ => none
  | .max _ _ _ => none
  | .minu _ _ _ => none
  | .maxu _ _ _ => none
  | .slt _ _ _ => none
  | .sltu _ _ _ => none
  | .seq _ _ _ => none
  | .clz _ _ => none
  | .ctz _ _ => none
  | .popc _ _ => none
  | .sextb _ _ => none
  | .sexth _ _ => none
  | .sextw _ _ => none
  | .zextw _ _ => none
  | .lea1 _ _ _ => none
  | .lea2 _ _ _ => none
  | .lea3 _ _ _ => none
  | .addi _ _ _ => none
  | .andi _ _ _ => none
  | .ori _ _ _ => none
  | .xori _ _ _ => none
  | .slti _ _ _ => none
  | .sltiu _ _ _ => none
  | .shli _ _ _ => none
  | .shri _ _ _ => none
  | .srai _ _ _ => none
  | .lih _ _ _ => none
  | .li _ _ => none
  | .vaddt _ _ _ et _ => firstFail [(.et, !et.isFloat)]
  | .vsubt _ _ _ et _ => firstFail [(.et, !et.isFloat)]
  | .vmult _ _ _ et _ => firstFail [(.et, !et.isFloat)]
  | .vmint _ _ _ et _ => firstFail [(.et, !et.isFloat)]
  | .vmaxt _ _ _ et _ => firstFail [(.et, !et.isFloat)]
  | .vabs _ _ et _ => firstFail [(.et, decide (et = .i8 ∨ et = .i16 ∨ et = .i32))]
  | .vneg _ _ et _ => firstFail [(.et, !et.isFloat)]
  | .vshlt _ _ _ et _ => firstFail [(.et, !et.isFloat)]
  | .vshrt _ _ _ et _ => firstFail [(.et, !et.isFloat)]
  | .vsrat _ _ _ et _ => firstFail [(.et, decide (et = .i8 ∨ et = .i16 ∨ et = .i32))]
  | .vadds _ _ _ et _ => firstFail [(.et, !et.isFloat)]
  | .vsubs _ _ _ et _ => firstFail [(.et, !et.isFloat)]
  | .vfsub _ _ _ et _ => firstFail [(.et, et.isFloat)]
  | .vfdiv _ _ _ et _ => firstFail [(.et, et.isFloat)]
  | .vfsqrt _ _ et _ => firstFail [(.et, et.isFloat)]
  | .vfrcp _ _ et _ => firstFail [(.et, et.isFloat)]
  | .vfmint _ _ _ et _ => firstFail [(.et, et.isFloat)]
  | .vfmaxt _ _ _ et _ => firstFail [(.et, et.isFloat)]
  | .vfabs _ _ et _ => firstFail [(.et, et.isFloat)]
  | .vfneg _ _ et _ => firstFail [(.et, et.isFloat)]
  | .vfmat _ _ _ et _ => firstFail [(.et, et.isFloat)]
  | .vcmp _ _ cond et _ => firstFail [(.cond, condOk cond et)]
  | .mand _ _ _ et => firstFail [(.et, decide (et = .i8 ∨ et = .i16 ∨ et = .i32))]
  | .mor _ _ _ et => firstFail [(.et, decide (et = .i8 ∨ et = .i16 ∨ et = .i32))]
  | .mxor _ _ _ et => firstFail [(.et, decide (et = .i8 ∨ et = .i16 ∨ et = .i32))]
  | .mnot _ _ et => firstFail [(.et, decide (et = .i8 ∨ et = .i16 ∨ et = .i32))]
  | .mpopc _ _ et => firstFail [(.et, decide (et = .i8 ∨ et = .i16 ∨ et = .i32))]
  | .mfirst _ _ et => firstFail [(.et, decide (et = .i8 ∨ et = .i16 ∨ et = .i32))]
  | .vcvt _ _ _ _ _ => none
  | .vsplat _ _ _ _ => none
  | .vext _ _ _ _ => none
  | .vins _ _ _ _ => none
  | .vredadd _ _ _ _ => none
  | .vredmin _ _ _ _ => none
  | .vredmax _ _ _ _ => none
  | .vscan _ _ _ _ => none
  | .vperm _ _ _ _ _ => none
  | .vcompress _ _ _ _ _ => none
  | .vld _ _ _ _ => none
  | .vst _ _ _ _ => none
  | .vlds _ _ _ _ _ => none
  | .vsts _ _ _ _ _ => none
  | .vgath _ _ _ et _ => firstFail [(.et, decide (et = .i32 ∨ et = .u32 ∨ et = .fp32))]
  | .vscat _ _ _ et _ => firstFail [(.et, decide (et = .i32 ∨ et = .u32 ∨ et = .fp32))]
  | .vsread _ _ => none
  | .ldb _ _ _ => none
  | .ldbs _ _ _ => none
  | .ldh _ _ _ => none
  | .ldhs _ _ _ => none
  | .ldw _ _ _ => none
  | .ldws _ _ _ => none
  | .ldd _ _ _ => none
  | .stb _ _ _ => none
  | .sth _ _ _ => none
  | .stw _ _ _ => none
  | .std _ _ _ => none
  | .lda _ _ scope _ => firstFail [(.scope, decide (scope ≠ .none))]
  | .stl _ _ scope _ => firstFail [(.scope, decide (scope ≠ .none))]
  | .fst _ _ _ scope order _ => firstFail [(.scope, decide (scope ≠ .none)), (.order, decide (order = .relaxed ∨ order = .release))]
  | .fence scope order => firstFail [(.scope, decide (scope ≠ .none)), (.order, decide (order ≠ .relaxed))]
  | .amoadd _ _ _ scope order _ => firstFail [(.scope, orderScope order scope)]
  | .amoand _ _ _ scope order _ => firstFail [(.scope, orderScope order scope)]
  | .amoor _ _ _ scope order _ => firstFail [(.scope, orderScope order scope)]
  | .amoxor _ _ _ scope order _ => firstFail [(.scope, orderScope order scope)]
  | .amosmin _ _ _ scope order _ => firstFail [(.scope, orderScope order scope)]
  | .amosmax _ _ _ scope order _ => firstFail [(.scope, orderScope order scope)]
  | .amoumin _ _ _ scope order _ => firstFail [(.scope, orderScope order scope)]
  | .amoumax _ _ _ scope order _ => firstFail [(.scope, orderScope order scope)]
  | .amoswap _ _ _ scope order _ => firstFail [(.scope, orderScope order scope)]
  | .amocas _ _ _ scope order _ => firstFail [(.scope, orderScope order scope)]
  | .amofadd _ _ _ scope order => firstFail [(.scope, orderScope order scope)]
  | .amocas128 _ _ _ scope order => firstFail [(.scope, orderScope order scope)]
  | .nnew d _ _ scope order => firstFail [(.scope, orderScope order scope), (.order, decide (order = .relaxed ∨ order = .release)), (.status, decide (d ≠ 0))]
  | .nkill _ _ scope order _ => firstFail [(.scope, orderScope order scope), (.order, decide (order = .relaxed ∨ order = .release))]
  | .nres d _ _ scope order => firstFail [(.scope, orderScope order scope), (.order, decide (order = .relaxed ∨ order = .acquire)), (.status, decide (d ≠ 0))]
  | .ncas d _ _ scope order _ => firstFail [(.scope, orderScope order scope), (.status, decide (d ≠ 0))]
  | .nwait d _ scope => firstFail [(.scope, decide (scope ≠ .none)), (.parkReg, parkReg d)]
  | .waita d _ _ scope => firstFail [(.scope, decide (scope ≠ .none)), (.parkReg, parkReg d)]
  | .wake _ _ _ scope order => firstFail [(.scope, orderScope order scope), (.order, decide (order = .relaxed ∨ order = .release))]
  | .bara _ _ => none
  | .barw d _ _ => firstFail [(.parkReg, parkReg d)]
  | .beq _ _ _ => none
  | .bne _ _ _ => none
  | .blt _ _ _ => none
  | .bge _ _ _ => none
  | .bltu _ _ _ => none
  | .bgeu _ _ _ => none
  | .jmp _ => none
  | .call fsz _ => firstFail [(.fsz, decide (2 ≤ fsz.toNat ∧ fsz.toNat ≤ 6))]
  | .jr _ => none
  | .jalr _ => none
  | .ret => none
  | .loop _ _ => none
  | .spawn _ _ _ => none
  | .send _ _ _ => none
  | .recv _ _ => none
  | .setprio _ _ => none
  | .taskname _ _ => none
  | .sread _ _ => none
  | .speek _ _ => none
  | .sstat _ _ => none
  | .sdrop _ => none
  | .chld _ => none
  | .cmdq vs _ n _ => firstFail [(.commandPair, decide (¬ (n = 1 ∧ vs = 15)))]
  | .tokacq _ _ => none
  | .tokrel _ _ => none
  | .vadd _ _ _ twist _ => firstFail [(.twist, twistOk twist)]
  | .vsub _ _ _ twist _ => firstFail [(.twist, twistOk twist)]
  | .vmul _ _ _ twist _ => firstFail [(.twist, twistOk twist)]
  | .vmac _ _ _ twist _ => firstFail [(.twist, twistOk twist)]
  | .vand _ _ _ twist _ => firstFail [(.twist, twistOk twist)]
  | .vor _ _ _ twist _ => firstFail [(.twist, twistOk twist)]
  | .vxor _ _ _ twist _ => firstFail [(.twist, twistOk twist)]
  | .vshl _ _ _ twist _ => firstFail [(.twist, twistOk twist)]
  | .vshr _ _ _ twist _ => firstFail [(.twist, twistOk twist)]
  | .vmin _ _ _ twist _ => firstFail [(.twist, twistOk twist)]
  | .vmax _ _ _ twist _ => firstFail [(.twist, twistOk twist)]
  | .vfadd _ _ _ twist _ => firstFail [(.twist, twistOk twist)]
  | .vfmul _ _ _ twist _ => firstFail [(.twist, twistOk twist)]
  | .vfma _ _ _ twist _ => firstFail [(.twist, twistOk twist)]
  | .vsel _ _ _ twist _ => firstFail [(.twist, twistOk twist)]
  | .vmov _ _ twist _ => firstFail [(.twist, twistOk twist)]
  | .cpy _ => none
  | .cpys _ => none
  | .pack _ => none
  | .gath _ => none
  | .scat _ => none
  | .fill _ => none
  | .wload _ => none
  | .cseq _ => none
  | .copyCommandComplete _ => none
  | .stageCopyBegin _ => none
  | .cpysItem _ => none
  | .cperrClear _ => none
  | .mctx _ => none
  | .mstg _ => none
  | .mpass _ => none
  | .tnew _ => none
  | .tfwd _ => none
  | .tread _ => none
  | .tabandon _ => none
  | .tstat _ => none
  | .arrayGrant _ _ => none
  | .contributionArrival _ => none
  | .tfwdStatusReturn _ => none
  | .arrayIdle _ => none
  | .startPermitGrant _ => none
  | .mpassReplay _ => none
  | .mxerrClear _ => none
  | .cmdqPush _ _ => none
  | .loadReturn _ => none
  | .homeRequest _ _ => none
  | .homeCorrection _ => none
  | .localMemoryRequest _ => none
  | .guardNote _ => none
  | .commitComplete _ => none
  | .commitRefusal _ => none
  | .atomicAtNse _ _ => none
  | .atomicReturn _ => none
  | .tokenRecall _ => none
  | .chainStep _ _ => none
  | .chainReturn _ => none
  | .nameOpAtSlice _ => none
  | .nameOpReturn _ => none
  | .shootDown _ => none
  | .shootDownAck _ => none
  | .serialBlockReserve _ => none
  | .park _ => none
  | .spawnAppend _ => none
  | .sendDelivery _ => none
  | .sendStatus _ => none
  | .ksyncComplete _ => none
  | .icinvComplete _ => none
  | .dispatch _ => none
  | .holdLimit _ => none
  | .rxring _ _ _ => none
  | .grreplay _ _ => none
  | .graphNodeSpawn _ => none
  | .deadlockTrap => none
  | .tmwake _ => none
  | .tcinv _ _ => none
  | .tcinvDone _ => none
  | .rhreqHandOver _ _ => none
  | .handOverComplete _ => none
  | .rhreqRetire _ _ => none
  | .retireComplete _ => none
  | .migreq _ _ => none
  | .migrationCopyDone _ _ => none
  | .smpctl _ _ => none
  | .systab _ _ => none
  | .wsrightsRead _ _ => none
  | .wsrightsLoad _ _ => none
  | .wsStateChange _ => none
  | .wsRefreshStart _ => none
  | .wsRefreshEnd _ => none
  | .resume _ => none
  | .restart _ => none
  | .kill _ => none
  | .preEmpt _ => none
  | .preemptSave _ => none
  | .step _ => none
  | .slotView _ _ _ _ => none
  | .faultPacketRelease _ => none
  | .dhaltSet _ => none
  | .dhaltClear _ => none
  | .ctxkill _ => none
  | .ctxkillComplete => none
  | .trstatClear _ => none
  | .hckpt _ _ => none
  | .checkpointStart _ => none
  | .checkpointMarker _ _ => none
  | .checkpointStreamDone _ => none
  | .recovery _ => none
  | .railMonitorWindow _ => none
  | .rmfreeze _ => none
  | .linkRetrain _ _ => none
  | .linkFlit _ _ => none
  | .governorWindow _ => none
  | .throttleEntry _ => none
  | .throttleExit _ => none
  | .gvexempt _ _ => none
  | .registerWrite _ _ => none
  | .hostAperture _ _ _ _ _ => none
  | .hqpush _ _ _ => none
  | .completionRecordRelease _ => none
  | .hlcreq _ _ => none
  | .hattest _ _ => none
  | .hlcgo _ _ => none
  | .loadImage _ _ _ _ => none
  | .moduleReset => none
  | .weightStoreRequest _ => none
  | .linkLost _ => none
  | .powerLoss => none
  | .checkpointRangeStreamed _ => none

/-- A well-formed instruction passes every check. -/
def Instr.wellFormed (i : Instr) : Bool := i.wfCheck.isNone

end Sys2Proof
end

