-- ==== Sys2Proof/Decode.lean ====
section
/-! DEFINITION. The decoder of the 32-bit instruction words, total on any word and refusing by name (R16 to R24, steps 1
to 5), and after it the encoder, both written from the tables of R17, R18, R22 and R23. -/
namespace Sys2Proof

/-- Why a word is no instruction: the check of R24 that fails first. -/
inductive DecodeError where
  /-- step 1: major 0x17 or 0x2F -/
  | reservedMajor
  /-- step 2: a function code or SHI selector not assigned in R23 -/
  | reservedFunction
  /-- step 3: a reserved field or value -/
  | reservedField
  /-- step 4: a register field the instruction does not use is non-zero -/
  | unusedField
  /-- step 5: a field outside the range the instruction accepts -/
  | fieldRange
  /-- steps 3 and 5, for the values `Instr.wfCheck` names -/
  | illFormed (c : WfCheck)
  deriving DecidableEq, Repr

/-- A step 3 check before `k`. -/
def reservedZero (c : Prop) [Decidable c] (k : Except DecodeError Instr) : Except DecodeError Instr :=
  if c then k else .error .reservedField
/-- A step 4 check before `k`. -/
def unusedZero (c : Prop) [Decidable c] (k : Except DecodeError Instr) : Except DecodeError Instr :=
  if c then k else .error .unusedField
/-- A step 5 check before `k`. -/
def inRange (c : Prop) [Decidable c] (k : Except DecodeError Instr) : Except DecodeError Instr :=
  if c then k else .error .fieldRange

/-- The codes of `et` (R18); 7 is reserved. -/
def Et.ofCode (c : BitVec 3) : Option Et :=
  match c.toNat with
  | 0 => some .i8 | 1 => some .i16 | 2 => some .i32 | 3 => some .u32 | 4 => some .fp16 | 5 => some .bf16
  | 6 => some .fp32 | _ => none
/-- The code of an element type. -/
def Et.code : Et → BitVec 3
  | .i8 => 0 | .i16 => 1 | .i32 => 2 | .u32 => 3 | .fp16 => 4 | .bf16 => 5 | .fp32 => 6
/-- The codes of `scope` (R18); 6 and 7 are reserved. -/
def Scope.ofCode (c : BitVec 3) : Option Scope :=
  match c.toNat with
  | 0 => some .none | 1 => some .core | 2 => some .cluster | 3 => some .die | 4 => some .device | 5 => some .system
  | _ => Option.none
/-- The code of a scope. -/
def Scope.code : Scope → BitVec 3
  | .none => 0 | .core => 1 | .cluster => 2 | .die => 3 | .device => 4 | .system => 5
/-- The codes of `order` (R18). -/
def Order.ofCode (c : BitVec 2) : Order :=
  match c.toNat with
  | 0 => .relaxed | 1 => .acquire | 2 => .release | _ => .acqRel
/-- The code of an order. -/
def Order.code : Order → BitVec 2
  | .relaxed => 0 | .acquire => 1 | .release => 2 | .acqRel => 3
/-- The codes of `eng` (R18); 2 to 7 are reserved. -/
def Eng.ofCode (c : BitVec 3) : Option Eng :=
  match c.toNat with
  | 0 => some .copy | 1 => some .matrix | _ => none
/-- The code of an engine. -/
def Eng.code : Eng → BitVec 3
  | .copy => 0 | .matrix => 1

/-- Field [25:21]: sd of A, I and S, sa of B (R17). -/
def fD (w : W32) : BitVec 5 := w.extractLsb' 21 5
/-- Field [20:16]: sa of A, I and S, sb of B. -/
def fA (w : W32) : BitVec 5 := w.extractLsb' 16 5
/-- Field [15:11]: sb of A and S. -/
def fB (w : W32) : BitVec 5 := w.extractLsb' 11 5
/-- Field [15:0]: imm of I, off of B. -/
def fImm (w : W32) : BitVec 16 := w.extractLsb' 0 16
/-- vd of V and VX, field [25:22]. -/
def vD (w : W32) : BitVec 4 := w.extractLsb' 22 4
/-- va of V and VX, field [21:18]. -/
def vA (w : W32) : BitVec 4 := w.extractLsb' 18 4
/-- vb of V and VX, field [17:14]. -/
def vB (w : W32) : BitVec 4 := w.extractLsb' 14 4
/-- twist of V, field [13:2]. -/
def vTw (w : W32) : BitVec 12 := w.extractLsb' 2 12
/-- mk of V, field [1:0]. -/
def vMk (w : W32) : BitVec 2 := w.extractLsb' 0 2

/-- Major 0x00, SYS (R23). -/
def decSys (f : Nat) (d a b : BitVec 5) : Except DecodeError Instr :=
  match f with
  | 0 => unusedZero (d = 0 ∧ a = 0 ∧ b = 0) (.ok (.nop))
  | 1 => unusedZero (d = 0 ∧ b = 0) (.ok (.trap a))
  | 2 => unusedZero (d = 0 ∧ a = 0 ∧ b = 0) (.ok (.brk))
  | 3 => unusedZero (d = 0 ∧ b = 0) (.ok (.halt a))
  | 4 => unusedZero (a = 0) (.ok (.rdk d b))
  | 5 => unusedZero (d = 0) (.ok (.wrk a b))
  | 6 => unusedZero (d = 0 ∧ a = 0 ∧ b = 0) (.ok (.commit))
  | 7 => unusedZero (d = 0 ∧ a = 0 ∧ b = 0) (.ok (.yield))
  | 8 => unusedZero (d = 0 ∧ a = 0 ∧ b = 0) (.ok (.endTask))
  | 9 => unusedZero (d = 0 ∧ a = 0 ∧ b = 0) (.ok (.icinv))
  | 10 => unusedZero (d = 0 ∧ b = 0) (.ok (.ksync a))
  | _ => .error .reservedFunction

/-- Major 0x01, ALU (R23). -/
def decAlu (f : Nat) (d a b : BitVec 5) : Except DecodeError Instr :=
  match f with
  | 0 => .ok (.add d a b)
  | 1 => .ok (.sub d a b)
  | 2 => .ok (.and d a b)
  | 3 => .ok (.or d a b)
  | 4 => .ok (.xor d a b)
  | 5 => .ok (.andn d a b)
  | 6 => .ok (.shl d a b)
  | 7 => .ok (.shr d a b)
  | 8 => .ok (.sra d a b)
  | 9 => .ok (.rol d a b)
  | 10 => .ok (.mul d a b)
  | 11 => .ok (.mulh d a b)
  | 12 => .ok (.mulhu d a b)
  | 13 => .ok (.div d a b)
  | 14 => .ok (.divu d a b)
  | 15 => .ok (.rem d a b)
  | 16 => .ok (.remu d a b)
  | 17 => .ok (.min d a b)
  | 18 => .ok (.max d a b)
  | 19 => .ok (.minu d a b)
  | 20 => .ok (.maxu d a b)
  | 21 => .ok (.slt d a b)
  | 22 => .ok (.sltu d a b)
  | 23 => .ok (.seq d a b)
  | 24 => unusedZero (b = 0) (.ok (.clz d a))
  | 25 => unusedZero (b = 0) (.ok (.ctz d a))
  | 26 => unusedZero (b = 0) (.ok (.popc d a))
  | 27 => unusedZero (b = 0) (.ok (.sextb d a))
  | 28 => unusedZero (b = 0) (.ok (.sexth d a))
  | 29 => unusedZero (b = 0) (.ok (.sextw d a))
  | 30 => unusedZero (b = 0) (.ok (.zextw d a))
  | 31 => .ok (.lea1 d a b)
  | 32 => .ok (.lea2 d a b)
  | 33 => .ok (.lea3 d a b)
  | _ => .error .reservedFunction

/-- Major 0x28, the JR group (R23). -/
def decJr (f : Nat) (d a b : BitVec 5) : Except DecodeError Instr :=
  match f with
  | 0 => unusedZero (d = 0 ∧ b = 0) (.ok (.jr a))
  | 1 => unusedZero (d = 0 ∧ b = 0) (.ok (.jalr a))
  | 2 => unusedZero (d = 0 ∧ a = 0 ∧ b = 0) (.ok (.ret))
  | _ => .error .reservedFunction

/-- Major 0x2A, TASK (R23). -/
def decTask (f : Nat) (d a b : BitVec 5) : Except DecodeError Instr :=
  match f with
  | 0 => .ok (.spawn d a b)
  | 1 => .ok (.send d a b)
  | 2 => unusedZero (b = 0) (.ok (.recv d a))
  | 3 => unusedZero (b = 0) (.ok (.setprio d a))
  | 4 => unusedZero (b = 0) (.ok (.taskname d a))
  | _ => .error .reservedFunction

/-- Major 0x2B, STRM (R23). -/
def decStrm (f : Nat) (d a b : BitVec 5) : Except DecodeError Instr :=
  match f with
  | 0 => reservedZero (a.extractLsb' 2 3 = 0) (unusedZero (b = 0) (.ok (.sread d (a.extractLsb' 0 2))))
  | 1 => reservedZero (a.extractLsb' 2 3 = 0) (unusedZero (b = 0) (.ok (.speek d (a.extractLsb' 0 2))))
  | 2 => reservedZero (a.extractLsb' 2 3 = 0) (unusedZero (b = 0) (.ok (.sstat d (a.extractLsb' 0 2))))
  | 3 => reservedZero (a.extractLsb' 2 3 = 0) (unusedZero (d = 0 ∧ b = 0) (.ok (.sdrop (a.extractLsb' 0 2))))
  | _ => .error .reservedFunction

/-- Major 0x0B, VXI (R23). -/
def decVxi (f : Nat) (d a b : BitVec 4) (et : Et) (mk : BitVec 2) : Except DecodeError Instr :=
  match f with
  | 0 => .ok (.vaddt d a b et mk)
  | 1 => .ok (.vsubt d a b et mk)
  | 2 => .ok (.vmult d a b et mk)
  | 3 => .ok (.vmint d a b et mk)
  | 4 => .ok (.vmaxt d a b et mk)
  | 5 => unusedZero (b = 0) (.ok (.vabs d a et mk))
  | 6 => unusedZero (b = 0) (.ok (.vneg d a et mk))
  | 7 => .ok (.vshlt d a b et mk)
  | 8 => .ok (.vshrt d a b et mk)
  | 9 => .ok (.vsrat d a b et mk)
  | 10 => .ok (.vadds d a b et mk)
  | 11 => .ok (.vsubs d a b et mk)
  | _ => .error .reservedFunction

/-- Major 0x0C, VXF (R23). -/
def decVxf (f : Nat) (d a b : BitVec 4) (et : Et) (mk : BitVec 2) : Except DecodeError Instr :=
  match f with
  | 0 => .ok (.vfsub d a b et mk)
  | 1 => .ok (.vfdiv d a b et mk)
  | 2 => unusedZero (b = 0) (.ok (.vfsqrt d a et mk))
  | 3 => unusedZero (b = 0) (.ok (.vfrcp d a et mk))
  | 4 => .ok (.vfmint d a b et mk)
  | 5 => .ok (.vfmaxt d a b et mk)
  | 6 => unusedZero (b = 0) (.ok (.vfabs d a et mk))
  | 7 => unusedZero (b = 0) (.ok (.vfneg d a et mk))
  | 8 => .ok (.vfmat d a b et mk)
  | _ => .error .reservedFunction

/-- Major 0x0D, VXC (R23). -/
def decVxc (f : Nat) (d a b : BitVec 4) (et : Et) (mk : BitVec 2) : Except DecodeError Instr :=
  match f with
  | 0 => .ok (.vcmp d a b et mk)
  | 1 => reservedZero (d.extractLsb' 3 1 = 0) (reservedZero (a.extractLsb' 3 1 = 0) (reservedZero (b.extractLsb' 3 1 = 0) (unusedZero (mk = 0) (.ok (.mand (d.extractLsb' 0 3) (a.extractLsb' 0 3) (b.extractLsb' 0 3) et)))))
  | 2 => reservedZero (d.extractLsb' 3 1 = 0) (reservedZero (a.extractLsb' 3 1 = 0) (reservedZero (b.extractLsb' 3 1 = 0) (unusedZero (mk = 0) (.ok (.mor (d.extractLsb' 0 3) (a.extractLsb' 0 3) (b.extractLsb' 0 3) et)))))
  | 3 => reservedZero (d.extractLsb' 3 1 = 0) (reservedZero (a.extractLsb' 3 1 = 0) (reservedZero (b.extractLsb' 3 1 = 0) (unusedZero (mk = 0) (.ok (.mxor (d.extractLsb' 0 3) (a.extractLsb' 0 3) (b.extractLsb' 0 3) et)))))
  | 4 => reservedZero (d.extractLsb' 3 1 = 0) (reservedZero (a.extractLsb' 3 1 = 0) (unusedZero (b = 0 ∧ mk = 0) (.ok (.mnot (d.extractLsb' 0 3) (a.extractLsb' 0 3) et))))
  | 5 => reservedZero (a.extractLsb' 3 1 = 0) (unusedZero (b = 0 ∧ mk = 0) (.ok (.mpopc d (a.extractLsb' 0 3) et)))
  | 6 => reservedZero (a.extractLsb' 3 1 = 0) (unusedZero (b = 0 ∧ mk = 0) (.ok (.mfirst d (a.extractLsb' 0 3) et)))
  | _ => .error .reservedFunction

/-- Major 0x0E, VXM (R23). -/
def decVxm (f : Nat) (d a b : BitVec 4) (et : Et) (mk : BitVec 2) : Except DecodeError Instr :=
  match f with
  | 0 => reservedZero (b.extractLsb' 3 1 = 0) (match Et.ofCode (b.extractLsb' 0 3) with | some dt => .ok (.vcvt d a dt et mk) | none => .error .reservedField)
  | 1 => unusedZero (b = 0) (.ok (.vsplat d a et mk))
  | 2 => unusedZero (mk = 0) (.ok (.vext d a b et))
  | 3 => unusedZero (mk = 0) (.ok (.vins d a b et))
  | 4 => unusedZero (b = 0) (.ok (.vredadd d a et mk))
  | 5 => unusedZero (b = 0) (.ok (.vredmin d a et mk))
  | 6 => unusedZero (b = 0) (.ok (.vredmax d a et mk))
  | 7 => unusedZero (b = 0) (.ok (.vscan d a et mk))
  | 8 => .ok (.vperm d a b et mk)
  | 9 => reservedZero (b.extractLsb' 3 1 = 0) (.ok (.vcompress d a (b.extractLsb' 0 3) et mk))
  | _ => .error .reservedFunction

/-- Major 0x0F, VXL (R23). -/
def decVxl (f : Nat) (d a b : BitVec 4) (et : Et) (mk : BitVec 2) : Except DecodeError Instr :=
  match f with
  | 0 => unusedZero (b = 0) (.ok (.vld d a et mk))
  | 1 => unusedZero (b = 0) (.ok (.vst d a et mk))
  | 2 => .ok (.vlds d a b et mk)
  | 3 => .ok (.vsts d a b et mk)
  | 4 => .ok (.vgath d a b et mk)
  | 5 => .ok (.vscat d a b et mk)
  | 6 => reservedZero (a.extractLsb' 2 2 = 0) (unusedZero (b = 0 ∧ mk = 0) (if et = .i32 then .ok (.vsread d (a.extractLsb' 0 2)) else .error .fieldRange))
  | _ => .error .reservedFunction

/-- Major 0x1C, ORD (R23). -/
def decOrd (f : Nat) (d a b : BitVec 5) (scope : Scope) (order : Order) (size : BitVec 2) : Except DecodeError Instr :=
  match f with
  | 0 => unusedZero (b = 0) (inRange (order = .acquire) (.ok (.lda d a scope size)))
  | 1 => unusedZero (b = 0) (inRange (order = .release) (.ok (.stl d a scope size)))
  | 2 => .ok (.fst d a b scope order size)
  | 3 => unusedZero (d = 0 ∧ a = 0 ∧ b = 0) (inRange (size = 0) (.ok (.fence scope order)))
  | _ => .error .reservedFunction

/-- Major 0x1D, AMO (R23). -/
def decAmo (f : Nat) (d a b : BitVec 5) (scope : Scope) (order : Order) (size : BitVec 2) : Except DecodeError Instr :=
  match f with
  | 0 => .ok (.amoadd d a b scope order size)
  | 1 => .ok (.amoand d a b scope order size)
  | 2 => .ok (.amoor d a b scope order size)
  | 3 => .ok (.amoxor d a b scope order size)
  | 4 => .ok (.amosmin d a b scope order size)
  | 5 => .ok (.amosmax d a b scope order size)
  | 6 => .ok (.amoumin d a b scope order size)
  | 7 => .ok (.amoumax d a b scope order size)
  | 8 => .ok (.amoswap d a b scope order size)
  | 9 => .ok (.amocas d a b scope order size)
  | 10 => inRange (size = 2) (.ok (.amofadd d a b scope order))
  | 11 => inRange (size = 0) (.ok (.amocas128 d a b scope order))
  | _ => .error .reservedFunction

/-- Major 0x1E, NAME (R23). -/
def decName (f : Nat) (d a b : BitVec 5) (scope : Scope) (order : Order) (size : BitVec 2) : Except DecodeError Instr :=
  match f with
  | 0 => inRange (size = 0) (.ok (.nnew d a b scope order))
  | 1 => unusedZero (b = 0) (inRange (size.extractLsb' 1 1 = 0) (.ok (.nkill d a scope order (size.extractLsb' 0 1))))
  | 2 => inRange (size = 0) (.ok (.nres d a b scope order))
  | 3 => inRange (size.extractLsb' 1 1 = 0) (.ok (.ncas d a b scope order (size.extractLsb' 0 1)))
  | 4 => unusedZero (b = 0) (inRange (order = .acquire ∧ size = 0) (.ok (.nwait d a scope)))
  | _ => .error .reservedFunction

/-- Major 0x1F, SYNC (R23). -/
def decSync (f : Nat) (d a b : BitVec 5) (scope : Scope) (order : Order) (size : BitVec 2) : Except DecodeError Instr :=
  match f with
  | 0 => inRange (order = .acquire ∧ size = 3) (.ok (.waita d a b scope))
  | 1 => inRange (size = 0) (.ok (.wake d a b scope order))
  | 2 => unusedZero (b = 0) (inRange (scope = .none ∧ order = .relaxed ∧ size = 0) (.ok (.bara d a)))
  | 3 => inRange (scope = .none ∧ order = .relaxed ∧ size = 0) (.ok (.barw d a b))
  | _ => .error .reservedFunction

/-- Major 0x2E, PEER (R23). -/
def decPeer (f : Nat) (d a b : BitVec 5) (scope : Scope) (order : Order) (size : BitVec 2) : Except DecodeError Instr :=
  match f with
  | 0 => unusedZero (b = 0) (inRange (scope = .system ∧ order = .acquire ∧ size = 0) (.ok (.tokacq d a)))
  | 1 => unusedZero (b = 0) (inRange (scope = .system ∧ order = .release ∧ size = 0) (.ok (.tokrel d a)))
  | _ => .error .reservedFunction

/-- A word of the A format with its group's function table. -/
def decA (w : W32) (k : Nat → BitVec 5 → BitVec 5 → BitVec 5 → Except DecodeError Instr) : Except DecodeError Instr :=
  k (w.extractLsb' 0 11).toNat (fD w) (fA w) (fB w)

/-- A word of the VX format; `last` is the group's highest function code. -/
def decVX (w : W32) (last : Nat)
    (k : Nat → BitVec 4 → BitVec 4 → BitVec 4 → Et → BitVec 2 → Except DecodeError Instr) : Except DecodeError Instr :=
  if last < (w.extractLsb' 0 9).toNat then .error .reservedFunction else
  match Et.ofCode (w.extractLsb' 11 3) with
  | none => .error .reservedField
  | some et => k (w.extractLsb' 0 9).toNat (vD w) (vA w) (vB w) et (w.extractLsb' 9 2)

/-- A word of the S format; `last` is the group's highest function code. -/
def decS (w : W32) (last : Nat)
    (k : Nat → BitVec 5 → BitVec 5 → BitVec 5 → Scope → Order → BitVec 2 → Except DecodeError Instr) :
    Except DecodeError Instr :=
  if last < (w.extractLsb' 0 4).toNat then .error .reservedFunction else
  match Scope.ofCode (w.extractLsb' 8 3) with
  | none => .error .reservedField
  | some sc => k (w.extractLsb' 0 4).toNat (fD w) (fA w) (fB w) sc (Order.ofCode (w.extractLsb' 6 2)) (w.extractLsb' 4 2)

/-- Major 0x08: the selector imm[7:6], then imm[15:8] reserved (R22). -/
def decShi (w : W32) : Except DecodeError Instr :=
  match (w.extractLsb' 6 2).toNat with
  | 0 => reservedZero (w.extractLsb' 8 8 = 0) (.ok (.shli (fD w) (fA w) (w.extractLsb' 0 6)))
  | 1 => reservedZero (w.extractLsb' 8 8 = 0) (.ok (.shri (fD w) (fA w) (w.extractLsb' 0 6)))
  | 2 => reservedZero (w.extractLsb' 8 8 = 0) (.ok (.srai (fD w) (fA w) (w.extractLsb' 0 6)))
  | _ => .error .reservedFunction

/-- The major opcode map (R22), before the value checks of `Instr.wfCheck`. -/
def decodeFields (w : W32) : Except DecodeError Instr :=
  match (w.extractLsb' 26 6).toNat with
  | 0 => decA w decSys
  | 1 => decA w decAlu
  | 2 => .ok (.addi (fD w) (fA w) (fImm w))
  | 3 => .ok (.andi (fD w) (fA w) (fImm w))
  | 4 => .ok (.ori (fD w) (fA w) (fImm w))
  | 5 => .ok (.xori (fD w) (fA w) (fImm w))
  | 6 => .ok (.slti (fD w) (fA w) (fImm w))
  | 7 => .ok (.sltiu (fD w) (fA w) (fImm w))
  | 8 => decShi w
  | 9 => reservedZero ((fA w).extractLsb' 2 3 = 0) (.ok (.lih (fD w) ((fA w).extractLsb' 0 2) (fImm w)))
  | 10 => .ok (.li (fD w) (fA w ++ fImm w))
  | 11 => decVX w 11 decVxi
  | 12 => decVX w 8 decVxf
  | 13 => decVX w 6 decVxc
  | 14 => decVX w 9 decVxm
  | 15 => decVX w 6 decVxl
  | 16 => .ok (.ldb (fD w) (fA w) (fImm w))
  | 17 => .ok (.ldbs (fD w) (fA w) (fImm w))
  | 18 => .ok (.ldh (fD w) (fA w) (fImm w))
  | 19 => .ok (.ldhs (fD w) (fA w) (fImm w))
  | 20 => .ok (.ldw (fD w) (fA w) (fImm w))
  | 21 => .ok (.ldws (fD w) (fA w) (fImm w))
  | 22 => .ok (.ldd (fD w) (fA w) (fImm w))
  | 24 => .ok (.stb (fD w) (fA w) (fImm w))
  | 25 => .ok (.sth (fD w) (fA w) (fImm w))
  | 26 => .ok (.stw (fD w) (fA w) (fImm w))
  | 27 => .ok (.std (fD w) (fA w) (fImm w))
  | 28 => decS w 3 decOrd
  | 29 => decS w 11 decAmo
  | 30 => decS w 4 decName
  | 31 => decS w 3 decSync
  | 32 => .ok (.beq (fD w) (fA w) (fImm w))
  | 33 => .ok (.bne (fD w) (fA w) (fImm w))
  | 34 => .ok (.blt (fD w) (fA w) (fImm w))
  | 35 => .ok (.bge (fD w) (fA w) (fImm w))
  | 36 => .ok (.bltu (fD w) (fA w) (fImm w))
  | 37 => .ok (.bgeu (fD w) (fA w) (fImm w))
  | 38 => .ok (.jmp (w.extractLsb' 0 26))
  | 39 => reservedZero (2 ≤ (w.extractLsb' 23 3).toNat ∧ (w.extractLsb' 23 3).toNat ≤ 6) (.ok (.call (w.extractLsb' 23 3) (w.extractLsb' 0 23)))
  | 40 => decA w decJr
  | 41 => reservedZero (fA w = 0) (.ok (.loop (fD w) (fImm w)))
  | 42 => decA w decTask
  | 43 => decA w decStrm
  | 44 => reservedZero (w.extractLsb' 0 22 = 0) (.ok (.chld (w.extractLsb' 22 4)))
  | 45 => reservedZero (w.extractLsb' 0 17 = 0) (match Eng.ofCode (w.extractLsb' 19 3) with | some eng => .ok (.cmdq (w.extractLsb' 22 4) eng (w.extractLsb' 18 1) (w.extractLsb' 17 1)) | none => .error .reservedField)
  | 46 => decS w 1 decPeer
  | 48 => .ok (.vadd (vD w) (vA w) (vB w) (vTw w) (vMk w))
  | 49 => .ok (.vsub (vD w) (vA w) (vB w) (vTw w) (vMk w))
  | 50 => .ok (.vmul (vD w) (vA w) (vB w) (vTw w) (vMk w))
  | 51 => .ok (.vmac (vD w) (vA w) (vB w) (vTw w) (vMk w))
  | 52 => .ok (.vand (vD w) (vA w) (vB w) (vTw w) (vMk w))
  | 53 => .ok (.vor (vD w) (vA w) (vB w) (vTw w) (vMk w))
  | 54 => .ok (.vxor (vD w) (vA w) (vB w) (vTw w) (vMk w))
  | 55 => .ok (.vshl (vD w) (vA w) (vB w) (vTw w) (vMk w))
  | 56 => .ok (.vshr (vD w) (vA w) (vB w) (vTw w) (vMk w))
  | 57 => .ok (.vmin (vD w) (vA w) (vB w) (vTw w) (vMk w))
  | 58 => .ok (.vmax (vD w) (vA w) (vB w) (vTw w) (vMk w))
  | 59 => .ok (.vfadd (vD w) (vA w) (vB w) (vTw w) (vMk w))
  | 60 => .ok (.vfmul (vD w) (vA w) (vB w) (vTw w) (vMk w))
  | 61 => .ok (.vfma (vD w) (vA w) (vB w) (vTw w) (vMk w))
  | 62 => .ok (.vsel (vD w) (vA w) (vB w) (vTw w) (vMk w))
  | 63 => unusedZero (vA w = 0) (.ok (.vmov (vD w) (vB w) (vTw w) (vMk w)))
  | _ => .error .reservedMajor

/-- The decoder: the instruction a word is, or the check that refuses it. -/
def decode (w : W32) : Except DecodeError Instr :=
  match decodeFields w with
  | .error e => .error e
  | .ok i =>
    match i.wfCheck with
    | none => .ok i
    | some c => .error (.illFormed c)

/-- The four bytes of a word from its lowest address up (R10, R16). -/
def wordBytes (w : W32) : List Byte :=
  [w.extractLsb' 0 8, w.extractLsb' 8 8, w.extractLsb' 16 8, w.extractLsb' 24 8]

/-- Decoding from bytes: an instruction takes four and leaves the rest; fewer than four are no word. -/
def decodeBytes : List Byte → Option (Except DecodeError Instr × List Byte)
  | b0 :: b1 :: b2 :: b3 :: rest => some (decode (b3 ++ b2 ++ b1 ++ b0), rest)
  | _ => none

/-- The instruction the decoder reads from `nbits` bits `w`, numbered as the opcode table numbers them. -/
def decodeTableWord (nbits w : Nat) : Option Instr :=
  match decodeBytes (wordBytes (BitVec.ofNat 32 (w % 2 ^ nbits))) with
  | some (.ok i, _) => some i
  | _ => none

/-- Format A (R17). -/
def encA (maj : Nat) (d a b : BitVec 5) (f : Nat) : W32 :=
  BitVec.ofNat 6 maj ++ d ++ a ++ b ++ BitVec.ofNat 11 f
/-- Format I. -/
def encI (maj : Nat) (d a : BitVec 5) (imm : BitVec 16) : W32 := BitVec.ofNat 6 maj ++ d ++ a ++ imm
/-- Format S. -/
def encS (maj : Nat) (d a b : BitVec 5) (sc : Scope) (o : Order) (sz : BitVec 2) (f : Nat) : W32 :=
  BitVec.ofNat 6 maj ++ d ++ a ++ b ++ sc.code ++ o.code ++ sz ++ BitVec.ofNat 4 f
/-- Format B. -/
def encB (maj : Nat) (a b : BitVec 5) (off : BitVec 16) : W32 := BitVec.ofNat 6 maj ++ a ++ b ++ off
/-- Format J. -/
def encJ (maj : Nat) (off : BitVec 26) : W32 := BitVec.ofNat 6 maj ++ off
/-- Format C. -/
def encC (maj : Nat) (fsz : BitVec 3) (off : BitVec 23) : W32 := BitVec.ofNat 6 maj ++ fsz ++ off
/-- Format V. -/
def encV (maj : Nat) (d a b : BitVec 4) (tw : BitVec 12) (mk : BitVec 2) : W32 :=
  BitVec.ofNat 6 maj ++ d ++ a ++ b ++ tw ++ mk
/-- Format VX. -/
def encVX (maj : Nat) (d a b : BitVec 4) (et : BitVec 3) (mk : BitVec 2) (f : Nat) : W32 :=
  BitVec.ofNat 6 maj ++ d ++ a ++ b ++ et ++ mk ++ BitVec.ofNat 9 f
/-- Format Q. -/
def encQ (maj : Nat) (vs : BitVec 4) (eng : BitVec 3) (n chk : BitVec 1) : W32 :=
  BitVec.ofNat 6 maj ++ vs ++ eng ++ n ++ chk ++ (0 : BitVec 17)

/-- The encoder: the word of an instruction, `none` for the commands and events, which have no instruction word. -/
def encode : Instr → Option W32
  | .nop => some (encA 0 0 0 0 0)
  | .trap a => some (encA 0 0 a 0 1)
  | .brk => some (encA 0 0 0 0 2)
  | .halt a => some (encA 0 0 a 0 3)
  | .rdk d b => some (encA 0 d 0 b 4)
  | .wrk a b => some (encA 0 0 a b 5)
  | .commit => some (encA 0 0 0 0 6)
  | .yield => some (encA 0 0 0 0 7)
  | .endTask => some (encA 0 0 0 0 8)
  | .icinv => some (encA 0 0 0 0 9)
  | .ksync a => some (encA 0 0 a 0 10)
  | .add d a b => some (encA 1 d a b 0)
  | .sub d a b => some (encA 1 d a b 1)
  | .and d a b => some (encA 1 d a b 2)
  | .or d a b => some (encA 1 d a b 3)
  | .xor d a b => some (encA 1 d a b 4)
  | .andn d a b => some (encA 1 d a b 5)
  | .shl d a b => some (encA 1 d a b 6)
  | .shr d a b => some (encA 1 d a b 7)
  | .sra d a b => some (encA 1 d a b 8)
  | .rol d a b => some (encA 1 d a b 9)
  | .mul d a b => some (encA 1 d a b 10)
  | .mulh d a b => some (encA 1 d a b 11)
  | .mulhu d a b => some (encA 1 d a b 12)
  | .div d a b => some (encA 1 d a b 13)
  | .divu d a b => some (encA 1 d a b 14)
  | .rem d a b => some (encA 1 d a b 15)
  | .remu d a b => some (encA 1 d a b 16)
  | .min d a b => some (encA 1 d a b 17)
  | .max d a b => some (encA 1 d a b 18)
  | .minu d a b => some (encA 1 d a b 19)
  | .maxu d a b => some (encA 1 d a b 20)
  | .slt d a b => some (encA 1 d a b 21)
  | .sltu d a b => some (encA 1 d a b 22)
  | .seq d a b => some (encA 1 d a b 23)
  | .clz d a => some (encA 1 d a 0 24)
  | .ctz d a => some (encA 1 d a 0 25)
  | .popc d a => some (encA 1 d a 0 26)
  | .sextb d a => some (encA 1 d a 0 27)
  | .sexth d a => some (encA 1 d a 0 28)
  | .sextw d a => some (encA 1 d a 0 29)
  | .zextw d a => some (encA 1 d a 0 30)
  | .lea1 d a b => some (encA 1 d a b 31)
  | .lea2 d a b => some (encA 1 d a b 32)
  | .lea3 d a b => some (encA 1 d a b 33)
  | .addi d a imm => some (encI 2 d a imm)
  | .andi d a imm => some (encI 3 d a imm)
  | .ori d a imm => some (encI 4 d a imm)
  | .xori d a imm => some (encI 5 d a imm)
  | .slti d a imm => some (encI 6 d a imm)
  | .sltiu d a imm => some (encI 7 d a imm)
  | .shli d a amt => some (encI 8 d a ((0 : BitVec 8) ++ (BitVec.ofNat 2 0) ++ amt))
  | .shri d a amt => some (encI 8 d a ((0 : BitVec 8) ++ (BitVec.ofNat 2 1) ++ amt))
  | .srai d a amt => some (encI 8 d a ((0 : BitVec 8) ++ (BitVec.ofNat 2 2) ++ amt))
  | .lih d pos imm => some (encI 9 d ((0 : BitVec 3) ++ pos) imm)
  | .li d imm => some (encI 10 d (imm.extractLsb' 16 5) (imm.extractLsb' 0 16))
  | .vaddt d a b et mk => some (encVX 11 d a b et.code mk 0)
  | .vsubt d a b et mk => some (encVX 11 d a b et.code mk 1)
  | .vmult d a b et mk => some (encVX 11 d a b et.code mk 2)
  | .vmint d a b et mk => some (encVX 11 d a b et.code mk 3)
  | .vmaxt d a b et mk => some (encVX 11 d a b et.code mk 4)
  | .vabs d a et mk => some (encVX 11 d a 0 et.code mk 5)
  | .vneg d a et mk => some (encVX 11 d a 0 et.code mk 6)
  | .vshlt d a b et mk => some (encVX 11 d a b et.code mk 7)
  | .vshrt d a b et mk => some (encVX 11 d a b et.code mk 8)
  | .vsrat d a b et mk => some (encVX 11 d a b et.code mk 9)
  | .vadds d a b et mk => some (encVX 11 d a b et.code mk 10)
  | .vsubs d a b et mk => some (encVX 11 d a b et.code mk 11)
  | .vfsub d a b et mk => some (encVX 12 d a b et.code mk 0)
  | .vfdiv d a b et mk => some (encVX 12 d a b et.code mk 1)
  | .vfsqrt d a et mk => some (encVX 12 d a 0 et.code mk 2)
  | .vfrcp d a et mk => some (encVX 12 d a 0 et.code mk 3)
  | .vfmint d a b et mk => some (encVX 12 d a b et.code mk 4)
  | .vfmaxt d a b et mk => some (encVX 12 d a b et.code mk 5)
  | .vfabs d a et mk => some (encVX 12 d a 0 et.code mk 6)
  | .vfneg d a et mk => some (encVX 12 d a 0 et.code mk 7)
  | .vfmat d a b et mk => some (encVX 12 d a b et.code mk 8)
  | .vcmp d a cond et mk => some (encVX 13 d a cond et.code mk 0)
  | .mand md ma mb et => some (encVX 13 ((0 : BitVec 1) ++ md) ((0 : BitVec 1) ++ ma) ((0 : BitVec 1) ++ mb) et.code 0 1)
  | .mor md ma mb et => some (encVX 13 ((0 : BitVec 1) ++ md) ((0 : BitVec 1) ++ ma) ((0 : BitVec 1) ++ mb) et.code 0 2)
  | .mxor md ma mb et => some (encVX 13 ((0 : BitVec 1) ++ md) ((0 : BitVec 1) ++ ma) ((0 : BitVec 1) ++ mb) et.code 0 3)
  | .mnot md ma et => some (encVX 13 ((0 : BitVec 1) ++ md) ((0 : BitVec 1) ++ ma) 0 et.code 0 4)
  | .mpopc sd ma et => some (encVX 13 sd ((0 : BitVec 1) ++ ma) 0 et.code 0 5)
  | .mfirst sd ma et => some (encVX 13 sd ((0 : BitVec 1) ++ ma) 0 et.code 0 6)
  | .vcvt d a dt et rm => some (encVX 0x0E d a ((0 : BitVec 1) ++ dt.code) et.code rm 0)
  | .vsplat d sa et mk => some (encVX 14 d sa 0 et.code mk 1)
  | .vext sd a sb et => some (encVX 14 sd a sb et.code 0 2)
  | .vins d sa sb et => some (encVX 14 d sa sb et.code 0 3)
  | .vredadd sd a et mk => some (encVX 14 sd a 0 et.code mk 4)
  | .vredmin sd a et mk => some (encVX 14 sd a 0 et.code mk 5)
  | .vredmax sd a et mk => some (encVX 14 sd a 0 et.code mk 6)
  | .vscan d a et mk => some (encVX 14 d a 0 et.code mk 7)
  | .vperm d a b et mk => some (encVX 14 d a b et.code mk 8)
  | .vcompress d a mb et mk => some (encVX 14 d a ((0 : BitVec 1) ++ mb) et.code mk 9)
  | .vld d sa et mk => some (encVX 15 d sa 0 et.code mk 0)
  | .vst d sa et mk => some (encVX 15 d sa 0 et.code mk 1)
  | .vlds d sa sb et mk => some (encVX 15 d sa sb et.code mk 2)
  | .vsts d sa sb et mk => some (encVX 15 d sa sb et.code mk 3)
  | .vgath d sa b et mk => some (encVX 15 d sa b et.code mk 4)
  | .vscat d sa b et mk => some (encVX 15 d sa b et.code mk 5)
  | .vsread d q => some (encVX 0x0F d ((0 : BitVec 2) ++ q) 0 2 0 6)
  | .ldb d a imm => some (encI 16 d a imm)
  | .ldbs d a imm => some (encI 17 d a imm)
  | .ldh d a imm => some (encI 18 d a imm)
  | .ldhs d a imm => some (encI 19 d a imm)
  | .ldw d a imm => some (encI 20 d a imm)
  | .ldws d a imm => some (encI 21 d a imm)
  | .ldd d a imm => some (encI 22 d a imm)
  | .stb d a imm => some (encI 24 d a imm)
  | .sth d a imm => some (encI 25 d a imm)
  | .stw d a imm => some (encI 26 d a imm)
  | .std d a imm => some (encI 27 d a imm)
  | .lda d a scope size => some (encS 28 d a 0 scope .acquire size 0)
  | .stl d a scope size => some (encS 28 d a 0 scope .release size 1)
  | .fst d a b scope order size => some (encS 28 d a b scope order size 2)
  | .fence scope order => some (encS 28 0 0 0 scope order 0 3)
  | .amoadd d a b scope order size => some (encS 29 d a b scope order size 0)
  | .amoand d a b scope order size => some (encS 29 d a b scope order size 1)
  | .amoor d a b scope order size => some (encS 29 d a b scope order size 2)
  | .amoxor d a b scope order size => some (encS 29 d a b scope order size 3)
  | .amosmin d a b scope order size => some (encS 29 d a b scope order size 4)
  | .amosmax d a b scope order size => some (encS 29 d a b scope order size 5)
  | .amoumin d a b scope order size => some (encS 29 d a b scope order size 6)
  | .amoumax d a b scope order size => some (encS 29 d a b scope order size 7)
  | .amoswap d a b scope order size => some (encS 29 d a b scope order size 8)
  | .amocas d a b scope order size => some (encS 29 d a b scope order size 9)
  | .amofadd d a b scope order => some (encS 29 d a b scope order 2 10)
  | .amocas128 d a b scope order => some (encS 29 d a b scope order 0 11)
  | .nnew d a b scope order => some (encS 30 d a b scope order 0 0)
  | .nkill d a scope order sync => some (encS 30 d a 0 scope order ((0 : BitVec 1) ++ sync) 1)
  | .nres d a b scope order => some (encS 30 d a b scope order 0 2)
  | .ncas d a b scope order live => some (encS 30 d a b scope order ((0 : BitVec 1) ++ live) 3)
  | .nwait d a scope => some (encS 30 d a 0 scope .acquire 0 4)
  | .waita d a b scope => some (encS 31 d a b scope .acquire 3 0)
  | .wake d a b scope order => some (encS 31 d a b scope order 0 1)
  | .bara d a => some (encS 31 d a 0 .none .relaxed 0 2)
  | .barw d a b => some (encS 31 d a b .none .relaxed 0 3)
  | .beq a b off => some (encB 32 a b off)
  | .bne a b off => some (encB 33 a b off)
  | .blt a b off => some (encB 34 a b off)
  | .bge a b off => some (encB 35 a b off)
  | .bltu a b off => some (encB 36 a b off)
  | .bgeu a b off => some (encB 37 a b off)
  | .jmp off => some (encJ 0x26 off)
  | .call fsz off => some (encC 0x27 fsz off)
  | .jr a => some (encA 40 0 a 0 0)
  | .jalr a => some (encA 40 0 a 0 1)
  | .ret => some (encA 40 0 0 0 2)
  | .loop a off => some (encB 0x29 a 0 off)
  | .spawn d a b => some (encA 42 d a b 0)
  | .send d a b => some (encA 42 d a b 1)
  | .recv d a => some (encA 42 d a 0 2)
  | .setprio d a => some (encA 42 d a 0 3)
  | .taskname d a => some (encA 42 d a 0 4)
  | .sread d q => some (encA 0x2B d ((0 : BitVec 3) ++ q) 0 0)
  | .speek d q => some (encA 0x2B d ((0 : BitVec 3) ++ q) 0 1)
  | .sstat d q => some (encA 0x2B d ((0 : BitVec 3) ++ q) 0 2)
  | .sdrop q => some (encA 0x2B 0 ((0 : BitVec 3) ++ q) 0 3)
  | .chld vs => some (encQ 0x2C vs 0 0 0)
  | .cmdq vs eng n chk => some (encQ 0x2D vs eng.code n chk)
  | .tokacq d a => some (encS 46 d a 0 .system .acquire 0 0)
  | .tokrel d a => some (encS 46 d a 0 .system .release 0 1)
  | .vadd d a b twist mk => some (encV 48 d a b twist mk)
  | .vsub d a b twist mk => some (encV 49 d a b twist mk)
  | .vmul d a b twist mk => some (encV 50 d a b twist mk)
  | .vmac d a b twist mk => some (encV 51 d a b twist mk)
  | .vand d a b twist mk => some (encV 52 d a b twist mk)
  | .vor d a b twist mk => some (encV 53 d a b twist mk)
  | .vxor d a b twist mk => some (encV 54 d a b twist mk)
  | .vshl d a b twist mk => some (encV 55 d a b twist mk)
  | .vshr d a b twist mk => some (encV 56 d a b twist mk)
  | .vmin d a b twist mk => some (encV 57 d a b twist mk)
  | .vmax d a b twist mk => some (encV 58 d a b twist mk)
  | .vfadd d a b twist mk => some (encV 59 d a b twist mk)
  | .vfmul d a b twist mk => some (encV 60 d a b twist mk)
  | .vfma d a b twist mk => some (encV 61 d a b twist mk)
  | .vsel d a b twist mk => some (encV 62 d a b twist mk)
  | .vmov d b twist mk => some (encV 0x3F d 0 b twist mk)
  | .cpy _ => none
  | .cpys _ => none
  | .pack _ => none
  | .gath _ => none
  | .scat _ => none
  | .fill _ => none
  | .wload _ => none
  | .cseq _ => none
  | .copyCommandComplete _ => none
  | .stageCopyBegin _ => none
  | .cpysItem _ => none
  | .cperrClear _ => none
  | .mctx _ => none
  | .mstg _ => none
  | .mpass _ => none
  | .tnew _ => none
  | .tfwd _ => none
  | .tread _ => none
  | .tabandon _ => none
  | .tstat _ => none
  | .arrayGrant _ _ => none
  | .contributionArrival _ => none
  | .tfwdStatusReturn _ => none
  | .arrayIdle _ => none
  | .startPermitGrant _ => none
  | .mpassReplay _ => none
  | .mxerrClear _ => none
  | .cmdqPush _ _ => none
  | .loadReturn _ => none
  | .homeRequest _ _ => none
  | .homeCorrection _ => none
  | .localMemoryRequest _ => none
  | .guardNote _ => none
  | .commitComplete _ => none
  | .commitRefusal _ => none
  | .atomicAtNse _ _ => none
  | .atomicReturn _ => none
  | .tokenRecall _ => none
  | .chainStep _ _ => none
  | .chainReturn _ => none
  | .nameOpAtSlice _ => none
  | .nameOpReturn _ => none
  | .shootDown _ => none
  | .shootDownAck _ => none
  | .serialBlockReserve _ => none
  | .park _ => none
  | .spawnAppend _ => none
  | .sendDelivery _ => none
  | .sendStatus _ => none
  | .ksyncComplete _ => none
  | .icinvComplete _ => none
  | .dispatch _ => none
  | .holdLimit _ => none
  | .rxring _ _ _ => none
  | .grreplay _ _ => none
  | .graphNodeSpawn _ => none
  | .deadlockTrap => none
  | .tmwake _ => none
  | .tcinv _ _ => none
  | .tcinvDone _ => none
  | .rhreqHandOver _ _ => none
  | .handOverComplete _ => none
  | .rhreqRetire _ _ => none
  | .retireComplete _ => none
  | .migreq _ _ => none
  | .migrationCopyDone _ _ => none
  | .smpctl _ _ => none
  | .systab _ _ => none
  | .wsrightsRead _ _ => none
  | .wsrightsLoad _ _ => none
  | .wsStateChange _ => none
  | .wsRefreshStart _ => none
  | .wsRefreshEnd _ => none
  | .resume _ => none
  | .restart _ => none
  | .kill _ => none
  | .preEmpt _ => none
  | .preemptSave _ => none
  | .step _ => none
  | .slotView _ _ _ _ => none
  | .faultPacketRelease _ => none
  | .dhaltSet _ => none
  | .dhaltClear _ => none
  | .ctxkill _ => none
  | .ctxkillComplete => none
  | .trstatClear _ => none
  | .hckpt _ _ => none
  | .checkpointStart _ => none
  | .checkpointMarker _ _ => none
  | .checkpointStreamDone _ => none
  | .recovery _ => none
  | .railMonitorWindow _ => none
  | .rmfreeze _ => none
  | .linkRetrain _ _ => none
  | .linkFlit _ _ => none
  | .governorWindow _ => none
  | .throttleEntry _ => none
  | .throttleExit _ => none
  | .gvexempt _ _ => none
  | .registerWrite _ _ => none
  | .hostAperture _ _ _ _ _ => none
  | .hqpush _ _ _ => none
  | .completionRecordRelease _ => none
  | .hlcreq _ _ => none
  | .hattest _ _ => none
  | .hlcgo _ _ => none
  | .loadImage _ _ _ _ => none
  | .moduleReset => none
  | .weightStoreRequest _ => none
  | .linkLost _ => none
  | .powerLoss => none
  | .checkpointRangeStreamed _ => none

end Sys2Proof
end

