-- ==== Sys2Proof/Config.lean ====
section
/-! DEFINITION. What the part fixes (R1, R3, R6) and the free values: opaque constants no proof can see into, where the
spec leaves a value open. -/
namespace Sys2Proof.Config

/-- Clusters of the module (R1). -/
def clusters : Nat := 2048
/-- Cores of the module that programs run on (R1); supervisor core of die `d` is numbered `cores + d`. -/
def cores : Nat := 65536
/-- Die scopes (R1). -/
def dies : Nat := 64
/-- Supervisor cores, one a die, not counted as cores (R1). -/
def allCores : Nat := cores + dies
/-- Slots, four to a core, the supervisor cores' included (R1). -/
def slots : Nat := 4 * allCores
/-- Host ports (R1). -/
def hostPorts : Nat := 4
/-- Module fabric ports (R1). -/
def fabricPorts : Nat := 32

/-- FREE VALUE. A value the spec leaves open, applied to the counter `State.fresh` the step advances. -/
opaque freeWord : Nat → BitVec 64
/-- FREE VALUE. What core `c` reads of CYCLE beyond the module count, at its `n`-th open value: two cores differ by at
most 8 cycles (R173). -/
opaque cycleSkew : Nat → Nat → Fin 9
/-- FREE VALUE. The keyed hash of a name's bits [127:24] (R280): key, bits. -/
opaque checkCode : Nat → BitVec 104 → BitVec 24
/-- FREE VALUE. The name-table slice of a serial (R282), a fixed hash programs cannot see. -/
opaque sliceOf : BitVec 64 → Fin 64
/-- FREE VALUE. The die that holds the binding of (ctx, module, region) (R102). -/
opaque bindingDie : Nat → Fin 64
/-- FREE VALUE. Hops between two routers of the wafer, 1 to 94, fixed for each pair (R370). -/
opaque route : Nat → Nat → Fin 94
/-- FREE VALUE. The home die, at its module, of a peer region, by (ctx, module, region) (R72, R100). -/
opaque peerHome : Nat → Fin 64
/-- FREE VALUE. Module links less one that a route between routers of two modules crosses, fixed for each pair (R106, R370). -/
opaque peerLinks : Nat → Nat → Fin 255
/-- FREE VALUE. Hops less one of such a route on the `i`-th wafer that it passes, fixed for each pair (R106, R370). -/
opaque peerLeg : Nat → Nat → Nat → Fin 94
/-- FREE VALUE. The stack of rim memory whose frames hold the tables the loader software writes (R63). -/
opaque loaderStack : Fin 32
/-- FREE VALUE. A signature of an identity key, by its generation: its `n`-th byte from the index and what is signed (R364). -/
opaque signByte : Nat → Nat → List (BitVec 8) → Nat → BitVec 8
/-- FREE VALUE. The digest of firmware images of some security versions (R366; log entry 89). -/
opaque firmwareDigest : List Nat → BitVec 256
/-- FREE VALUE. The die whose port carries a rim stack (R2). -/
opaque stackDie : Fin 32 → Fin 64
/-- FREE VALUE. Energy, current, temperature and error counts that activity and silicon give a die's monitor. -/
opaque sensor : Nat → Nat → BitVec 32

end Sys2Proof.Config
end

