-- ==== Sys2Proof/Machine/Table.lean ====
section
/-! DEFINITION. Sparse tables in one canonical form: keys strictly rising, no entry equal to the default an unlisted key
reads as. Memory is such a table of bytes; register files and the tables of units are such tables too. -/
namespace Sys2Proof.Machine

/-- A sparse table of values by key. -/
abbrev Tab (α : Type) := List (Nat × α)

/-- What key `k` holds; an unlisted key reads as `d`. -/
def Tab.get {α : Type} (d : α) : Tab α → Nat → α
  | [], _ => d
  | (k', v) :: t, k => if k = k' then v else Tab.get d t k

/-- The table without key `k`. -/
def Tab.drop {α : Type} : Tab α → Nat → Tab α
  | [], _ => []
  | (k', v') :: t, k => if k = k' then Tab.drop t k else (k', v') :: Tab.drop t k

/-- The table with key `k` holding `v`; writing the default removes the entry. -/
def Tab.set {α : Type} [DecidableEq α] (d : α) : Tab α → Nat → α → Tab α
  | [], k, v => if v = d then [] else [(k, v)]
  | (k', v') :: t, k, v =>
    if k' < k then (k', v') :: Tab.set d t k v
    else if v = d then Tab.drop ((k', v') :: t) k
    else (k, v) :: (if k = k' then t else (k', v') :: t)

/-- The last `n` of a list: a cache of `n` entries drops its oldest. -/
def keepLast {α : Type} (n : Nat) (l : List α) : List α := l.drop (l.length - n)

/-- Keys strictly rising, all above `lo` where it is given, and no default listed. -/
def Tab.wfFrom {α : Type} [DecidableEq α] (d : α) : Option Nat → Tab α → Bool
  | _, [] => true
  | lo, (k, v) :: t => (match lo with | none => true | some l => decide (l < k)) && decide (v ≠ d) && Tab.wfFrom d (some k) t

/-- The canonical form. -/
def Tab.wf {α : Type} [DecidableEq α] (d : α) (t : Tab α) : Bool := Tab.wfFrom d none t

end Sys2Proof.Machine
end

