-- ==== Sys2Proof/Machine/State.lean ====
section
/-! DEFINITION. Everything the spec gives the machine, as plain data: the slots and their cores, clusters and dies, the
memories, what is in flight between them, the names and their objects, the host side and what survives a reset. Units
are sparse tables by number; an unlisted unit stands as it does after reset. -/
namespace Sys2Proof.Machine

/-- Why a run of the model stops. -/
inductive Fault where
  /-- `step`: the turn names a slot beyond the module's 262,144 and the 64 supervisor cores'. The part has no such
  slot, so no run of the part is left out: safe. -/
  | noSuchSlot (g : Nat)
  deriving DecidableEq, Repr

/-- Why an instruction has no meaning in the model. -/
inductive Refusal where
  /-- An arm of `exec` that has no meaning yet raises it: safe, no claim can be proved of such an instruction. -/
  | notModelled (mnemonic : String)
  deriving DecidableEq, Repr

/-- The five states of a slot (R252). -/
inductive SlotState where
  | empty | running | held | frozen | preempted
  deriving DecidableEq, Repr

/-- What a write carries for those who read it (R308, R312, R314): at scope `none` the writes that happen-before it, else
what a release at that scope by an agent of core `core` carries: every write its agent had observed. -/
structure RelInfo where
  obs : List Nat
  scope : Scope
  core : Nat
  deriving DecidableEq, Repr

/-- What a parked stitch waits on (R297). -/
inductive WaitOn where
  /-- the word at a flat address, until it is at least the threshold -/
  | word (key : Nat) (thr : W64)
  /-- a barrier by serial, until its phase differs -/
  | barrier (serial : W64) (phase : BitVec 31)
  /-- the death of a name -/
  | name (serial : W64)
  deriving DecidableEq, Repr

/-- A park on its way to its NSE, and once there its place on the wait list (R297): the stitch, result register,
scope, the cluster and core where the task parked, and what its next accesses are ordered after (R97, R314). -/
structure Parked where
  id : Nat
  g : Nat
  on : WaitOn
  st : W512
  d : BitVec 5
  scope : Scope
  cluster : Nat
  core : Nat
  addr : W64
  obs : List Nat
  seen : List RelInfo
  fence : List RelInfo
  deriving DecidableEq, Repr

/-- What a HELD slot waits for (R252); `none` when it is not HELD. -/
inductive Hold where
  | none
  /-- SREAD, SPEEK or VSREAD with fewer than `n` items (R187, R211) -/
  | stream (q n : Nat)
  /-- RECV with an empty ring (R268) -/
  | recv
  /-- WAITA on the local word at this flat address until it is at least the threshold; the result register, the scope
  of the acquire, its place in the order of arrival, and the value that released it (R295, R296) -/
  | waita (key : Nat) (thr : W64) (d : BitVec 5) (scope : Scope) (arrived : Nat) (got : Option W64)
  /-- CMDQ without room (R27) -/
  | room (eng : Eng)
  /-- a ninth chain (R112) or a suspension waiting for chains (R119): until fewer than `below` are outstanding, or for 0
  until none of an earlier segment is -/
  | chains (below : Nat)
  /-- a park whose wait list has no room: the stitch is saved and joins as soon as it has (R297) -/
  | listFull (p : Parked)
  deriving DecidableEq, Repr

/-- What a RUNNING slot's instruction has sent and waits for. -/
inductive Await where
  | none
  /-- a blocking load, by its group -/
  | load (grp : Nat)
  /-- an atomic, name operation, spawn, message, invalidation or park, by its number -/
  | reply (n : Nat)
  deriving DecidableEq, Repr

/-- What the handover of a segment's entries is for (R89, R92, R256, R260). -/
inductive CommitMode where
  | none
  /-- a drain: the restart point stays -/
  | drain
  /-- a commit whose instruction moves the restart point when it completes -/
  | ordinary
  /-- a commit of a word that stays its own restart point until it completes -/
  | self
  /-- the commit of a pre-empt command, at an instruction boundary -/
  | preempt
  /-- a store in write-through mode -/
  | through
  deriving DecidableEq, Repr

/-- A fault to report: cause code (R321), address and detail of the packet. -/
structure FaultInfo where
  cause : BitVec 8
  addr : W64
  detail : W64
  deriving DecidableEq, Repr

/-- What a segment-buffer entry does when it is performed. -/
inductive EntryKind where
  /-- a buffered store -/
  | store
  /-- a relaxed no-return atomic: function, size code (4 for 16 bytes), operand, expected value, operand block of AMOCAS128 (R256) -/
  | amo (f size : Nat) (b expect : W128) (blk : W64)
  /-- a flagged store: flag address, whether it releases, scope (R98) -/
  | fst (flag : W64) (rel : Bool) (scope : Scope)
  deriving DecidableEq, Repr

/-- A segment-buffer entry (R91): its 64-byte line as the store's tag names it, data and byte mask, the accesses merged
into it (offset in the line, bytes), and the instruction that created it. -/
structure Entry where
  line : W64
  data : W512
  mask : BitVec 64
  accs : List (Nat × Nat)
  kind : EntryKind
  ipc : Pc
  deriving DecidableEq, Repr

/-- An entry in its cluster's outbound queue (R92): its number (a flagged store's increment has the next one), slot (a number at or above `Config.slots` is the host),
cluster, context, home die and whether forwarded once (R81), whether the data of a flagged store has been performed, the
scope of its release (none if relaxed) and the writes that release carries, the writes that happen-before it, whether it
is the own store of an STL or releasing FST, which the restart point passes when it is performed (R96, R98), what each FENCE with
release before it covers (R97), and the refusal a target returned (R93). -/
structure OutEntry where
  id : Nat
  g : Nat
  cluster : Nat
  ctx : BitVec 16
  home : Nat
  forwarded : Bool
  half : Bool
  scope : Scope
  obs : List Nat
  pre : List Nat
  word : Bool
  fence : List RelInfo
  refused : Option FaultInfo
  e : Entry
  deriving DecidableEq, Repr

/-- Where a load's value goes. -/
inductive LoadDst where
  /-- scalar register `d`, zero-extended from its bytes or sign-extended -/
  | scalar (d : BitVec 5) (signed : Bool)
  /-- element `k` of width `w` bits of vector register `d` -/
  | vector (d : BitVec 4) (k w : Nat)
  /-- the elements of width `w` bits of vector register `d` that the mask governs, in one access (R123) -/
  | whole (d : BitVec 4) (w : Nat) (mask : W32)
  deriving DecidableEq, Repr

/-- What a target returned. -/
inductive Reply where
  | data (v : W256)
  | fault (i : FaultInfo)
  deriving DecidableEq, Repr

/-- A load or load element in flight (R89, R193, R209): bytes already taken from the segment buffer are `known` under
`kmask`. -/
structure LoadReq where
  id : Nat
  grp : Nat
  g : Nat
  cluster : Nat
  ctx : BitVec 16
  addr : W64
  n : Nat
  known : W256
  kmask : BitVec 32
  dst : LoadDst
  home : Nat
  forwarded : Bool
  acq : Scope
  ipc : Pc
  held : Bool
  reply : Option Reply
  deriving DecidableEq, Repr

/-- What an NSE returned for an atomic: the old value and the status (NCAS, AMOCAS128: whether it swapped), or a fault. -/
inductive AmoReply where
  | old (v : W128) (status : W64)
  | fault (i : FaultInfo)
  deriving DecidableEq, Repr

/-- An atomic in flight to its NSE (R292, R293): function, size code (4 for 16 bytes), operand, expected value. -/
structure AmoReq where
  id : Nat
  g : Nat
  cluster : Nat
  ctx : BitVec 16
  addr : W64
  f : Nat
  size : Nat
  b : W128
  expect : W128
  d : BitVec 5
  blk : W64
  check : Bool
  order : Order
  scope : Scope
  home : Nat
  forwarded : Bool
  ipc : Pc
  obs : List Nat
  pre : List Nat
  reply : Option AmoReply
  deriving DecidableEq, Repr

/-- A chained load (R109, R113): the requester, the descriptor, the step it stands at and its pointer, hops taken, the
router it stands at, the name of a NAME128 step before, the result once it is found (header and items), the writes it has read
from, those its acquires have taken over, and what releases left where it read. -/
structure Chain where
  id : Nat
  g : Nat
  core : Nat
  ctx : BitVec 16
  seg : Nat
  desc : W256
  k : Nat
  base : W64
  hops : Nat
  place : Nat
  prevName : Option W128
  result : Option (BitVec 128 × List W64)
  obs : List Nat
  hb : List Nat
  seen : List RelInfo
  deriving DecidableEq, Repr

/-- The NAME functions and the name operations of other words (R286, R265, R263). -/
inductive NameFn where
  | nnew (blk : BitVec 1024)
  | nkill (sync : Bool)
  | nres
  /-- the death of a named task's name at its END or kill, as under a synchronous NKILL (R263, R327) -/
  | death
  deriving DecidableEq, Repr

/-- A name operation in flight (R283): `nm` is its name, for NNEW the address of the descriptor; the acknowledgements a
synchronous kill still waits for, the writes that its slot had observed and those that happen-before it, and its status. -/
structure NameOp where
  id : Nat
  g : Nat
  cluster : Nat
  core : Nat
  ctx : BitVec 16
  fn : NameFn
  nm : W128
  sb : W64
  d : BitVec 5
  order : Order
  scope : Scope
  moved : Bool
  acks : List Nat
  obs : List Nat
  pre : List Nat
  status : Option W64
  deriving DecidableEq, Repr

/-- A shoot-down on its way to a die, or its acknowledgement on its way back (R284, R288). -/
structure Shoot where
  id : Nat
  die : Nat
  serial : W64
  op : Option Nat
  ack : Bool
  deriving DecidableEq, Repr

/-- A spawn on its way to its skein's home (R264): the slot that waits for its status in register `d`, or a host queue window
by its number above `Config.slots` (R356); what its release carries, what of it happens-before it, and the graph replay it is of, by
context, status word and number (R274, R275). -/
structure SpawnReq where
  id : Nat
  g : Nat
  d : BitVec 5
  core : Nat
  cluster : Nat
  ctx : BitVec 16
  st : W512
  nm : W128
  obs : List Nat
  pre : List Nat
  rep : Option (BitVec 16 × W64 × Nat)
  deriving DecidableEq, Repr

/-- A message on its way to a receive ring (R268), with what its sender had observed and what of it happens-before the SEND. -/
structure SendReq where
  id : Nat
  g : Nat
  d : BitVec 5
  target : Nat
  ctx : BitVec 16
  msg : W256
  sender : W64
  obs : List Nat
  pre : List Nat
  status : Option (BitVec 8)
  deriving DecidableEq, Repr

/-- A guard note on its way to a slot (R131): address in tag 0x2 form and kind. -/
structure Note where
  id : Nat
  g : Nat
  addr : W64
  kind : BitVec 2
  deriving DecidableEq, Repr

/-- A stitch on a ready list (R263, R297): the core where it was suspended, since when it is listed and since when it stands at
the head, and what its next accesses are ordered after (R97, R314). -/
structure Ready where
  st : W512
  core : Nat
  born : Nat
  since : Nat
  obs : List Nat
  seen : List RelInfo
  fence : List RelInfo
  deriving DecidableEq, Repr

/-- The producer of a stream register (R187). -/
inductive StreamSrc where
  | chain (id : Nat)
  | cpys (seq : W64)
  deriving DecidableEq, Repr

/-- A stream register (R171, R187): `last` once its producer has delivered its last item; the segment that bound it (R119). -/
structure Stream where
  src : Option StreamSrc
  items : List W64
  last : Bool
  fail : Bool
  seg : Nat
  deriving DecidableEq, Repr

/-- An unbound stream register without items. -/
def Stream.reset : Stream := ⟨none, [], false, false, 0⟩

/-- The guard record of a slot (R131): the first note and the count of later ones. -/
structure GuardRec where
  addr : W64
  kind : BitVec 2
  count : BitVec 8
  deriving DecidableEq, Repr

/-- The signature check of the block a slot is in (R342): start offset, words left, fold so far, expected signature, whether
its predecessor was not listed, whether its latest word is a JR. -/
structure SigRun where
  ctx : BitVec 16
  start : Nat
  left : Nat
  fold : W32
  want : W32
  bad : Bool
  jr : Bool
  deriving DecidableEq, Repr

/-- One hardware slot: the task state of R171 to R174 and what the slot keeps beside it. -/
structure Slot where
  state : SlotState
  hold : Hold
  heldSince : Nat
  await : Await
  mode : CommitMode
  pc : Pc
  rstpc : Pc
  /-- s1 to s7 (R171) -/
  low : Tab W64
  /-- the physical window file P0 to P127 (R174) -/
  win : Tab W64
  /-- window base (R174) -/
  wb : BitVec 7
  /-- resident count (R174) -/
  res : BitVec 7
  v : Tab W256
  m : Tab W32
  q : Tab Stream
  /-- MODEL'S OWN: the number under which the task was bound to its slot, by which engine commands know it -/
  task : Nat
  taskid : W64
  name : W128
  named : Bool
  prio : BitVec 4
  ctx : BitVec 16
  feat : W32
  eclass : BitVec 4
  place : BitVec 12
  holdlim : W64
  fsp : W64
  fslim : W64
  /-- write-through mode (R260) -/
  through : Bool
  /-- segment number: chains belong to the segment that issued them (R119) -/
  seg : Nat
  /-- the segment buffer, oldest first (R91) -/
  buf : List Entry
  /-- writes of others this slot has observed and that may still stand in an outbound queue (R314) -/
  obs : List Nat
  /-- those of them that happen-before its next access (R313, R314) -/
  hb : List Nat
  /-- what releases left where its loads have read, for a later FENCE (R97) -/
  seen : List RelInfo
  /-- what each FENCE with release covers, for every later store (R97) -/
  fence : List RelInfo
  /-- the eight loaded descriptors (R129) -/
  descs : Tab (BitVec 128)
  guard : Option GuardRec
  prest : BitVec 2
  paddr : W64
  /-- a POISON has come since the last commit (R340) -/
  psince : Bool
  /-- the last numbers of the copy and matrix sequence series (R152, R214) -/
  cpNum : W64
  mxNum : W64
  /-- slot control (R324) -/
  spillbase : W64
  lastCause : BitVec 8
  cmdStatus : BitVec 3
  busy : Bool
  npre : Bool
  faults : W64
  stepSeq : W64
  /-- the slot froze at a HALT (R190) or on a quarantined core (R344) -/
  inspect : Bool
  /-- a step command runs (R335) -/
  stepping : Bool
  /-- the word at pc has begun: issue stops only after it (R327, R330, R336) -/
  begun : Bool
  /-- entries its commit has handed over; the commit is done and the restart point at the word (R92, R256) -/
  sent : Nat
  stamped : Bool
  /-- that word, as it was fetched (R16) -/
  word : W32
  /-- that word has waited HELD for stream items, past its test for a binding, or its first elements are buffered (R209, R211) -/
  woken : Bool
  /-- the stepped instruction has completed; what its STEP packet reports (R335) -/
  stepDone : Bool
  stepRep : BitVec 16 × W64
  /-- a dispatch restore has not completed (R254) -/
  restoring : Bool
  /-- the stream items lie in the spill buffer (R332) -/
  spilled : Bool
  /-- the flat key of the spill buffer, as the pre-empt command found it (R330) -/
  spillAt : Option Nat
  /-- a pre-empt command waits for its commit (R330) -/
  preempting : Bool
  /-- the packet a slot keeps while the die's holding queue is full (R322) -/
  packet : Option W256
  sig : Option SigRun
  /-- the block whose last word the slot has left (R342) -/
  prevBlock : Option Nat
  /-- both as they stood before the word at pc began (R191, R342) -/
  sigWas : Option SigRun × Option Nat
  deriving DecidableEq, Repr

/-- A slot after reset: EMPTY, every register zero, no stream bound (R172, R352); HOLDLIM and FSLIM at their dispatch
values (R173), DESIGN CHOICE log entry 4. -/
def Slot.reset : Slot :=
  { state := .empty, hold := .none, heldSince := 0, await := .none, mode := .none, pc := 0, rstpc := 0, low := [],
    win := [], wb := 0, res := 0, v := [], m := [], q := [], task := 0, taskid := 0, name := 0, named := false, prio := 0,
    ctx := 0, feat := 0, eclass := 0, place := 0, holdlim := 16384, fsp := 0, fslim := 0xFFFFFFFFFFFFFFFF,
    through := false, seg := 0, buf := [], obs := [], hb := [], seen := [], fence := [], descs := [], guard := none, prest := 0, paddr := 0, psince := false, cpNum := 0,
    mxNum := 0, spillbase := 0, lastCause := 0, cmdStatus := 0, busy := false, npre := false, faults := 0,
    stepSeq := 0, inspect := false, stepping := false,
    begun := false, sent := 0, stamped := false, word := 0, woken := false, stepDone := false, stepRep := (0, 0), restoring := false, spilled := false, spillAt := none, preempting := false, packet := none,
    sig := none, prevBlock := none, sigWas := (none, none) }

/-- The partial sums of an MPASS in the array (R221 to R224, R229): the next block, the number of blocks, operand
block origins, FP32 partials or exact integer sums by 128·row + column, whether any input was poisoned, and the
skip-list state with the items consumed for a replay: whether its binding has been met, and whether that has ended. -/
structure MpRun where
  t : Nat
  nt : Nat
  fp : Tab W32
  int : Tab Int
  poisoned : Bool
  skipLeft : Nat
  runLeft : Nat
  bound : Bool
  ended : Bool
  kept : List W64
  replay : List W64
  replayed : Bool
  /-- a pass has been made; it completes although its slot is PREEMPTED (R229) -/
  begun : Bool
  grace : Bool
  deriving DecidableEq, Repr

/-- An accumulator tile (R231, R233): its name, ctx, shape, fragments, counts, elements by 128·row + column and the
elements an uncorrectable error poisoned. -/
structure Tile where
  name : W128
  ctx : BitVec 16
  m : Nat
  n : Nat
  k : Nat
  int : Bool
  frags : List (Nat × Nat)
  accepted : W32
  refused : W32
  elems : Tab W32
  bad : List Nat
  /-- what its accepted contributions released (R246) -/
  obs : List Nat
  deriving DecidableEq, Repr

/-- How far the command at the head of a queue has come. -/
inductive Phase where
  | fresh
  /-- a stage copy waiting for inuse = 0 (R166) -/
  | staging
  /-- a CPYS bound to its stream register: row and item within the row to read next (R160) -/
  | feeding (row item : Nat)
  /-- a copy body under way: the row, element or block, and the byte within it, to move next (R159 to R164) -/
  | moving (i off : Nat)
  /-- the body is done, with its error word or none (R151) -/
  | ran (err : Option W64)
  /-- the error word is written and the queue stopped (R169, R226) -/
  | stopped
  /-- an MPASS past step 6 of R220 -/
  | passing (r : MpRun)
  /-- an MPASS held for replay (R229) -/
  | replay (r : MpRun)
  /-- a TFWD whose contribution is under way, by its number (R243) -/
  | forwarding (n : Nat)
  /-- a tile command that waits for the death of its tile, by the number of the kill; the tile and the status it reports (R243 to
  R245, R288) -/
  | dying (op : Nat) (t : Tile) (st : Nat)
  deriving DecidableEq, Repr

/-- A command in a queue (R151, R213): words, pushing slot, sequence number and ctx, whether a context kill retires it
(R153), how far it has come, what its push released (R165, R314), and the task that pushed it. -/
structure Cmd where
  w : W512
  two : Bool
  g : Nat
  seq : W64
  ctx : BitVec 16
  retire : Bool
  phase : Phase
  obs : List Nat
  task : Nat
  deriving DecidableEq, Repr

/-- One engine queue of a core (R27, R32): commands, and the slots that wait for room, in the order they began: slot, command
words, command; what its agent, the queue, has observed, and what of it happens-before its next access (R212, R314, R318). -/
structure Queue where
  cmds : List Cmd
  waiters : List (Nat × Nat × W512)
  obs : List Nat
  hb : List Nat
  deriving DecidableEq, Repr

/-- A registered stage (R166, R218). -/
structure Stage where
  reg : Bool
  opb : Bool
  base : W64
  nb : Nat
  planes : Nat
  sidx : W32
  gen : BitVec 16
  ctx : BitVec 16
  inuse : Nat
  filling : Bool
  kill : Bool
  deriving DecidableEq, Repr

/-- An index with no stage registered. -/
def Stage.reset : Stage := ⟨false, false, 0, 0, 0, 0, 0, 0, 0, false, false⟩

/-- The format context of a core (R216, R217): the block's address, the block, the ctx of the MCTX, and whether a KSYNC
asks for a reread. -/
structure FmtCtx where
  addr : W64
  blk : W512
  ctx : BitVec 16
  g : Nat
  stale : Bool
  deriving DecidableEq, Repr

/-- An entry of a core's local wait list (R255): the number under which its chains run, the slot left, its context, and
since when. -/
structure WaitEntry where
  id : Nat
  k : Nat
  slot : Slot
  since : Nat
  deriving DecidableEq, Repr

/-- The trace of a core (R337, R338). -/
structure Trace where
  ctl : W64
  cmp : W64
  idx : BitVec 7
  wrapped : Bool
  triggered : Bool
  frozen : Bool
  after : Nat
  recs : Tab W256
  deriving DecidableEq, Repr

/-- What each core holds beside its slots. -/
structure Core where
  /-- feature mask (R26), log entry 5 -/
  feat : W32
  quarantined : Bool
  copyQ : Queue
  mxQ : Queue
  stages : Tab Stage
  fmt : Option FmtCtx
  waitList : List WaitEntry
  /-- the guard bitmap (R130) -/
  guardMap : BitVec 2560
  trace : Trace
  /-- MXSHARE and the virtual time of the core at the array (R215, R227) -/
  share : BitVec 8
  vt : Rat
  eligible : Bool
  deriving DecidableEq, Repr

/-- A core after reset (R352): MXSHARE 16 (R215), the guard bitmap zero (R130). -/
def Core.reset : Core :=
  { feat := 0x7F, quarantined := false, copyQ := ⟨[], [], [], []⟩, mxQ := ⟨[], [], [], []⟩, stages := [], fmt := none, waitList := [],
    guardMap := 0, trace := ⟨0, 0, 0, false, false, false, 0, []⟩, share := 16, vt := 0, eligible := false }

/-- A region home known to a cluster (R73). -/
structure RhEntry where
  ctx : BitVec 16
  region : Nat
  home : Nat
  deriving DecidableEq, Repr

/-- An entry of a cluster name cache (R284). -/
structure NcEntry where
  serial : W64
  cls : BitVec 6
  ctx : BitVec 16
  home : Nat
  value : W64
  deriving DecidableEq, Repr

/-- A word in a cluster's instruction cache (R191). -/
structure IcEntry where
  ctx : BitVec 16
  pc : Pc
  word : W32
  deriving DecidableEq, Repr

/-- What each cluster holds. -/
structure Cluster where
  fenced : Bool
  /-- protection table: by 32·set + register word, 0 PTCTX, 2+2i and 3+2i the halves of descriptor i (R128) -/
  prot : Tab W64
  icache : List IcEntry
  icFlush : List Nat
  ncache : List NcEntry
  rhcache : List RhEntry
  corrections : List (Nat × RhEntry)
  /-- corrections received, each with the number of the first request after it (R82) -/
  fixes : List (RhEntry × Nat)
  tiles : List Tile
  ready : List Ready
  exempt : BitVec 4
  cap : BitVec 4
  dispatched : W64
  deferred : W64
  copyLines : W64
  copyStall : W64
  passes : W64
  permitWait : W64
  arrayIdle : Bool
  permitAsked : Bool
  permitSince : Nat
  rampStart : Nat
  lastPass : Nat
  /-- the block in the array: its core, since when, its passes, whether under the throttle -/
  passing : Option (Nat × Nat × Nat × Bool)
  rot : Nat
  matrixQuarantined : Bool
  deriving DecidableEq, Repr

/-- A cluster after reset: DPEXEMPT and DPCAP 15 (R271), the array idle (R228). -/
def Cluster.reset : Cluster :=
  { fenced := false, prot := [], icache := [], icFlush := [], ncache := [], rhcache := [], corrections := [], fixes := [], tiles := [],
    ready := [], exempt := 15, cap := 15, dispatched := 0, deferred := 0, copyLines := 0, copyStall := 0, passes := 0,
    permitWait := 0, arrayIdle := true, permitAsked := false, permitSince := 0, rampStart := 0, lastPass := 0, passing := none, rot := 0,
    matrixQuarantined := false }

/-- A leaf held in a home's translation cache (R77). -/
structure TcEntry where
  ctx : BitVec 16
  va : Nat
  size : Nat
  pa : Nat
  w : Bool
  x : Bool
  dirty : Bool
  deriving DecidableEq, Repr

/-- A forwarding entry (R80, R81); `succ` none is "no home". -/
structure Fwd where
  ctx : BitVec 16
  region : Nat
  succ : Option Nat
  deriving DecidableEq, Repr

/-- A migration under way (R86). -/
structure Mig where
  id : Nat
  ctx : BitVec 16
  va : Nat
  big : Bool
  src : Nat
  dst : Nat
  record : Nat
  entryAt : Nat
  entry : W64
  deriving DecidableEq, Repr

/-- The power governor, monitor and telemetry of a die (R351). -/
structure Governor where
  cap : W64
  didt : W64
  step : W64
  ramp : W64
  exempt : BitVec 4
  throttled : Bool
  permits : W64
  throttles : W64
  quota : Tab W64
  used : Tab W64
  tlbase : W64
  tlctl : W64
  tlhead : W32
  tltail : W32
  tldrop : W64
  volt : Nat
  rmctl : W64
  frozen : Bool
  ce : W64
  ue : W64
  sgwin : Tab W64
  /-- windows of the governor and of the rail monitor that have ended -/
  window : Nat
  railWindow : Nat
  /-- corrected and uncorrectable errors, throttle entries and permits when the window began -/
  begun : W64 × W64 × W64 × W64
  /-- energy of the die in the window, in µJ, and corrected errors of its arrays in the rail monitor's window (R348, R350) -/
  energy : Nat
  counts : Tab Nat
  lastPermit : Option Nat
  asking : List Nat
  deriving DecidableEq, Repr

/-- The governor after reset (R351). -/
def Governor.reset : Governor :=
  { cap := 350, didt := 32, step := 10, ramp := 16384, exempt := 15, throttled := false, permits := 0, throttles := 0,
    quota := [], used := [], tlbase := 0, tlctl := 0, tlhead := 0, tltail := 0, tldrop := 0, volt := 450, rmctl := 0,
    frozen := false, ce := 0, ue := 0, sgwin := [], window := 0, railWindow := 0, begun := (0, 0, 0, 0), energy := 0, counts := [], lastPermit := none, asking := [] }

/-- What each die holds: home interface (R78), weight store (R133), NSE (R303), debug (R328), governor (R351), fault
queue (R322), the token bindings of R102 and its part of a checkpoint (R345). -/
structure Die where
  ctxtab : W64
  tcva : W64
  tcinv : Option W64
  rhreq : Option W64
  rhstat : BitVec 8
  rhdone : Bool
  smpctl : W64
  smpbase : W64
  smphead : W32
  smptail : W32
  smpdrop : W64
  smpcount : Nat
  fwdcnt : W64
  walkcnt : W64
  systab : W64
  modules : List (BitVec 16)
  /-- the tables of earlier writes, each with the number of the first access that does not use it (R361) -/
  oldTables : List (Nat × List (BitVec 16))
  tc : List TcEntry
  fwd : List Fwd
  migs : List Mig
  wsRead : Bool
  wsCtx : BitVec 16
  wsWant : Option W64
  wsAhead : List (Nat × W64)
  wsStalls : W64
  wsStallCyc : W64
  wsBase : Nat
  wsOpen : Option Nat
  /-- accesses held by a refresh window in arrival order: who, bank group, since when (R135) -/
  wsHeld : List (Nat × Nat × Nat)
  ovfbase : W64
  ovfsize : W64
  badname : W64
  tmwake : W64
  serials : Nat × Nat
  halt : Bool
  haltSince : Nat
  gov : Governor
  fqbase : W64
  fqctl : W64
  fqheld : List (Nat × W256)
  fqsent : W64
  ckround : W32
  ckcut : Bool
  ckstream : Bool
  ckmarked : List Nat
  deriving DecidableEq, Repr

/-- A die after reset (R352). -/
def Die.reset : Die :=
  { ctxtab := 0, tcva := 0, tcinv := none, rhreq := none, rhstat := 0, rhdone := false, smpctl := 0, smpbase := 0,
    smphead := 0, smptail := 0, smpdrop := 0, smpcount := 0, fwdcnt := 0, walkcnt := 0, systab := 0, modules := [], oldTables := [],
    tc := [], fwd := [], migs := [], wsRead := false, wsCtx := 0, wsWant := none, wsAhead := [], wsStalls := 0,
    wsStallCyc := 0, wsBase := 0, wsOpen := none, wsHeld := [], ovfbase := 0, ovfsize := 0, badname := 0, tmwake := 0,
    serials := (0, 0), halt := false, haltSince := 0, gov := Governor.reset, fqbase := 0, fqctl := 0, fqheld := [],
    fqsent := 0, ckround := 0, ckcut := false, ckstream := false, ckmarked := [] }

/-- An entry of the name table (R282). -/
structure NameEntry where
  name : W128
  cls : BitVec 6
  dying : Bool
  ctx : BitVec 16
  home : Nat
  value : W64
  sharers : BitVec 64
  deriving DecidableEq, Repr

/-- A barrier (R299): its line, translated when it was made, or in the overflow area when `line` is 0. -/
structure Barrier where
  name : W128
  ctx : BitVec 16
  line : W64
  key : Nat
  count : W32
  phase : BitVec 31
  arrived : W32
  scope : Scope
  /-- what the arrivals of the phases that ended, and of the current one, released (R300, R301) -/
  obs : List RelInfo
  now : List RelInfo
  deriving DecidableEq, Repr

/-- A stitch in a skein: what its spawn released and what of it happens-before that, since when it is there, the graph replay it is of (R270, R274, R275). -/
structure Queued where
  st : W512
  obs : List Nat
  pre : List Nat
  since : Nat
  rep : Option (BitVec 16 × W64 × Nat)
  deriving DecidableEq, Repr

/-- A skein (R269, R270): descriptor, its address for KSYNC, home hint, the core that made it, stitches in arrival
order, virtual time and since when it has waited. -/
structure Skein where
  name : W128
  ctx : BitVec 16
  desc : W512
  descAt : W64
  stale : Bool
  cluster : Nat
  maker : Nat
  items : List Queued
  vt : Rat
  since : Nat
  /-- the level at which it stands among the eligible skeins -/
  level : Option Nat
  appended : Nat
  deriving DecidableEq, Repr

/-- A binding of a peer region (R102): `held` or lost; dirty lines of its cache by va. -/
structure Binding where
  ctx : BitVec 16
  module : BitVec 16
  region : Nat
  held : Bool
  lines : List Nat
  dirty : List Nat
  deriving DecidableEq, Repr

/-- A contribution on its way to a tile's unit (R235, R243): the queue that forwards it, the target's name, the
interval, the shape and values, and the status once decided. -/
structure Contrib where
  id : Nat
  core : Nat
  nm : W128
  ctx : BitVec 16
  lo : Nat
  hi : Nat
  m : Nat
  n : Nat
  int : Bool
  vals : Tab W32
  poisoned : Bool
  obs : List Nat
  status : Option (BitVec 8)
  deriving DecidableEq, Repr

/-- A graph node that waits for its flag, with what the replay had observed (R275, R304). -/
structure GraphNode where
  id : Nat
  g : Nat
  obs : List Nat
  ctx : BitVec 16
  nm : W128
  st : W512
  key : Nat
  thr : W64
  stat : W64
  /-- a write has satisfied it (R295) -/
  due : Bool
  rep : Option (BitVec 16 × W64 × Nat)
  deriving DecidableEq, Repr

/-- A host port's registers and queued records (R355, R357). -/
structure Port where
  crbase : W64
  crctl : W64
  crhead : W32
  crtail : W32
  apbase : W64
  cktier : W64
  queue : List W256
  msix : Nat
  aer : Nat
  deriving DecidableEq, Repr

/-- A host port after reset (R355). -/
def Port.reset : Port := ⟨0, 0, 0, 0, 0, 0, [], 0, 0⟩

/-- A host queue window (R356). -/
structure HostQueue where
  name : W128
  ctl : W64
  status : BitVec 8
  accepted : W32
  staging : W512
  deriving DecidableEq, Repr

/-- A module fabric port (R107, R349, R361, R362): peer id, up, width and frequency, a second change waiting, the
retransmission window's next flit to send and to receive. -/
structure Link where
  peer : BitVec 16
  up : Bool
  width : Nat
  freq : Nat
  want : Option (Nat × Nat)
  sendNext : Nat
  recvNext : Nat
  /-- requests to peers that were on their way when the link was lost (R106) -/
  oldRoute : List Nat
  /-- down because its peer is not listed (R361, R362) -/
  barred : Bool
  deriving DecidableEq, Repr

/-- A fabric port before training: down, nothing sent. -/
def Link.reset : Link := ⟨0, false, 0, 0, none, 0, 0, [], false⟩

/-- The five life-cycle states (R363). -/
inductive Life where
  | blank | provisioned | operational | rma | decommissioned
  deriving DecidableEq, Repr

/-- What survives every reset and the life-cycle controller's own registers (R281, R352, R363). -/
structure Durable where
  serialCounter : Nat
  identityIndex : Nat
  identity : Bool
  /-- identity keys generated so far (R363) -/
  identityGen : Nat
  ownerKey : Bool
  nameKey : Nat
  module : BitVec 16
  life : Life
  /-- minimum security version of each firmware image: supervisor, handler, link (R365) -/
  minVersion : Tab Nat
  /-- kind 4 records still owed to the host, by port -/
  owed : List (Nat × W256)
  status : BitVec 8
  pending : List (Nat × W64)
  /-- clusters found defective and not replaced by their field's spare (R4) -/
  fenced : List Nat
  deriving DecidableEq, Repr

/-- Which agent moves next: the next instruction of a slot, or an event. -/
inductive Act where
  | slot (g : Nat)
  | event (i : Instr)
  deriving DecidableEq, Repr

/-- One turn of the schedule: cycles elapsed before it, the lines in which an uncorrectable error is found then (R339), the corrected
errors found then, each by die and array (R348), whether cached copies the part may have replaced count as replaced in it, and who
moves. -/
structure Turn where
  cycles : Nat
  errors : List Nat
  corrected : List (Nat × Nat)
  miss : Bool
  act : Act
  deriving DecidableEq, Repr

/-- A checkpoint round: its number, the port that wrote HCKPT, and the tier that the start named: the address of its descriptor and, once
the round has begun, its targets (R346, R359). -/
structure CkRound where
  round : Nat
  port : Nat
  tier : Nat
  targets : Option (List Nat)
  deriving DecidableEq, Repr

/-- The module: clock, agents, memories and everything in flight. -/
structure Mach where
  /-- the module cycle count (R173) -/
  cycle : Nat
  /-- MODEL'S OWN: counts the free values used so far (log entry 1) -/
  fresh : Nat
  /-- MODEL'S OWN: in this turn, cached copies the part may have replaced count as replaced (log entry 2) -/
  miss : Bool
  /-- MODEL'S OWN: the slot whose instruction `exec` runs -/
  cur : Nat
  /-- MODEL'S OWN: the next number of a thing in flight -/
  nextId : Nat
  /-- every byte of every memory by flat key (R6, R70, R122, R132) -/
  mem : Tab Byte
  /-- poison marks by 64-byte line of the flat keys: 4 for the mark, 1 and 2 for the rewritten halves (R339) -/
  poison : Tab (BitVec 3)
  slots : Tab Slot
  cores : Tab Core
  clusters : Tab Cluster
  dies : Tab Die
  ports : Tab Port
  links : Tab Link
  hostQueues : Tab HostQueue
  /-- in flight -/
  loads : List LoadReq
  out : List OutEntry
  amos : List AmoReq
  chains : List Chain
  nameOps : List NameOp
  shoots : List Shoot
  spawns : List SpawnReq
  sends : List SendReq
  notes : List Note
  parks : List Parked
  contribs : List Contrib
  /-- the NSEs' wait lists, in arrival order (R297) -/
  parked : List Parked
  graph : List GraphNode
  /-- MODEL'S OWN: the writes that the graph replay under way has observed (R275, R304) -/
  grSeen : List Nat
  /-- a deadlock trap was taken and no slot has run since (R302) -/
  trapped : Bool
  names : List NameEntry
  /-- what the creation and the death of a name released while its writes are on their way (R287, R291) -/
  births : List (W64 × RelInfo)
  deaths : List (W64 × RelInfo)
  /-- the records of deadlock traps written to the host (R302) -/
  hostOut : List W256
  /-- what the last host read returned (R354, R355) -/
  hostRead : BitVec 4096
  barriers : List Barrier
  skeins : List Skein
  bindings : List Binding
  /-- what releases left at locations, by byte of the flat keys (R306, R308) -/
  rel : Tab (List RelInfo)
  /-- KSYNC invalidations under way: slot and block address (R191) -/
  ksyncs : List (Nat × W64)
  /-- the context kill under way and the ctx of the last one (R328) -/
  killing : Option (BitVec 16 × Nat × W64)
  killWaits : List (BitVec 16 × Nat × W64)
  lastKill : BitVec 16
  /-- the current block of serials: next and end (R281) -/
  serialNext : Nat
  serialEnd : Nat
  /-- the last non-volatile write for a block failed (R281) -/
  serialFail : Bool
  durable : Durable
  /-- bring-up: the steps of R367 completed; 9 is ready -/
  bringUp : Nat
  /-- the loader software's next free page-table and frame address (R63) -/
  loaderNext : Nat
  /-- checkpoint round: the round under way, one that waits for it, the ranges of 2 MiB streamed, those that a write has waited for, and
  the last completed round (R345, R346, R351, R359) -/
  ckRound : Option CkRound
  ckWaiting : Option CkRound
  ckRanges : List Nat
  ckWants : List Nat
  ckDone : Nat
  deriving DecidableEq, Repr

/-- A cut that the safe tier holds: its round, the targets that hold its parts, and what the parts hold (R346, R347, R360). -/
structure TierCut where
  round : Nat
  targets : List Nat
  cut : Mach
  deriving DecidableEq, Repr

/-- The whole state: the module, the schedule of turns (MODEL'S OWN, log entry 2), the cut a checkpoint round is
recording and the cuts the safe tier holds, by round (R346, R347). -/
structure State extends Mach where
  sched : List Turn
  cut : Option Mach
  tier : List TierCut
  deriving DecidableEq, Repr

/-- Durable state of a part that is not provisioned: BLANK, no keys, module id 0, the serial counter at 1 (R281, R363;
log entry 6). -/
def Durable.reset : Durable :=
  { serialCounter := 1, identityIndex := 0, identity := false, identityGen := 0, ownerKey := false, nameKey := 0, module := 0,
    life := .blank, minVersion := [], owed := [], status := 0, pending := [], fenced := [] }

/-- The module after reset: every memory zero and every register at its reset value (R352), nothing in flight. -/
def Mach.reset : Mach :=
  { cycle := 0, fresh := 0, miss := false, cur := 0, nextId := 1, mem := [], poison := [], slots := [], cores := [],
    clusters := [], dies := [], ports := [], links := [], hostQueues := [], loads := [], out := [], amos := [],
    chains := [], nameOps := [], shoots := [], spawns := [], sends := [], notes := [], parks := [], contribs := [],
    parked := [], graph := [], grSeen := [], trapped := false, names := [], births := [], deaths := [], hostOut := [], hostRead := 0, barriers := [], skeins := [], bindings := [], rel := [], ksyncs := [],
    killing := none, killWaits := [], lastKill := 0, serialNext := 0, serialEnd := 0, serialFail := false, durable := Durable.reset,
    bringUp := 0, loaderNext := 0x100000, ckRound := none, ckWaiting := none, ckRanges := [], ckWants := [], ckDone := 0 }

/-- The machine right after reset. -/
def State.reset : State := { Mach.reset with sched := [], cut := none, tier := [] }

end Sys2Proof.Machine
end

