-- ==== Sys2Proof/Machine/Units.lean ====
section
/-! DEFINITION. The units of the module by number, and the registers of a slot: every read and write of them goes through
these accessors. -/
namespace Sys2Proof.Machine

/-- What a step of the model answers. -/
abbrev Ans := Host.Outcome State Fault Refusal

/-- Bits [lo + n − 1 : lo] of a number (R10). -/
def fld (x lo n : Nat) : Nat := x / 2 ^ lo % 2 ^ n
/-- Bit `k` of a number. -/
def bit (x k : Nat) : Bool := fld x k 1 == 1
/-- 1 for true, 0 for false. -/
def b2n (b : Bool) : Nat := if b then 1 else 0
/-- `x` with bits [lo + n − 1 : lo] replaced by the low `n` bits of `v`. -/
def putFld (x lo n v : Nat) : Nat := x - fld x lo n * 2 ^ lo + v % 2 ^ n * 2 ^ lo
/-- The tag of an address (R66). -/
def tagOf (ea : W64) : Nat := fld ea.toNat 60 4
/-- An address with a tag and the bits below it. -/
def mkAddr (tag low : Nat) : W64 := BitVec.ofNat 64 (tag * 2 ^ 60 + low)
/-- The value as a 64-bit word. -/
def w64 (n : Nat) : W64 := BitVec.ofNat 64 n
/-- `v` sign-extended from `n` bits, as a 64-bit word. -/
def sx (n v : Nat) : W64 := w64 (if bit v (n - 1) then v + 2 ^ 64 - 2 ^ n else v)

/-! Numbers of units (R1, R3) -/

/-- The core of a slot. -/
def coreOf (g : Nat) : Nat := g / 4
/-- The cluster of a core; a supervisor core counts with the lowest cluster of its die. -/
def clusterOf (c : Nat) : Nat := if c < Config.cores then c / 32 else 32 * (c - Config.cores)
/-- The die of a core (R2). -/
def dieOf (c : Nat) : Nat := clusterOf c / 32
/-- Whether a core is a supervisor core (R3). -/
def isSup (c : Nat) : Bool := decide (Config.cores ≤ c)
/-- SLOTID of a slot (R173). -/
def slotId (g : Nat) : Nat := if isSup (coreOf g) then g % 4 + clusterOf (coreOf g) * 128 else g

def State.slot (s : State) (g : Nat) : Slot := s.slots.get Slot.reset g
def State.setSlot (s : State) (g : Nat) (x : Slot) : State := { s with slots := s.slots.set Slot.reset g x }
def State.modSlot (s : State) (g : Nat) (f : Slot → Slot) : State := s.setSlot g (f (s.slot g))
/-- The slot whose instruction runs. -/
def State.me (s : State) : Slot := s.slot s.cur
def State.modMe (s : State) (f : Slot → Slot) : State := s.modSlot s.cur f
def State.core (s : State) (c : Nat) : Core := s.cores.get Core.reset c
def State.modCore (s : State) (c : Nat) (f : Core → Core) : State := { s with cores := s.cores.set Core.reset c (f (s.core c)) }
def State.cluster (s : State) (k : Nat) : Cluster := s.clusters.get Cluster.reset k
def State.modCluster (s : State) (k : Nat) (f : Cluster → Cluster) : State :=
  { s with clusters := s.clusters.set Cluster.reset k (f (s.cluster k)) }
def State.die (s : State) (d : Nat) : Die := s.dies.get Die.reset d
def State.modDie (s : State) (d : Nat) (f : Die → Die) : State := { s with dies := s.dies.set Die.reset d (f (s.die d)) }
/-- The die of core `c` brings its cores to a boundary for a checkpoint (R345). -/
def State.cutting (s : State) (c : Nat) : Bool := (s.die (dieOf c)).ckcut
/-- The die of core `c` issues nothing: halted, or bringing its units to a boundary (R336, R345). -/
def State.paused (s : State) (c : Nat) : Bool := (s.die (dieOf c)).halt || s.cutting c
def State.port (s : State) (p : Nat) : Port := s.ports.get Port.reset p
def State.modPort (s : State) (p : Nat) (f : Port → Port) : State := { s with ports := s.ports.set Port.reset p (f (s.port p)) }
def State.link (s : State) (l : Nat) : Link := s.links.get Link.reset l
def State.modLink (s : State) (l : Nat) (f : Link → Link) : State := { s with links := s.links.set Link.reset l (f (s.link l)) }

/-- The next free value and the state with it used up (log entry 1). -/
def State.free (s : State) : W64 × State := (Config.freeWord s.fresh, { s with fresh := s.fresh + 1 })

/-! Scalar registers (R171, R174) -/

/-- The entry of the window file that register `r`, 8 to 31, names: P[(wb + r − 8) mod 128] (R174). -/
def Slot.phys (x : Slot) (r : Nat) : Nat := (x.wb.toNat + r + 120) % 128

/-- Scalar register `r`; s0 reads as zero (R171). -/
def Slot.s (x : Slot) (r : BitVec 5) : W64 :=
  if r.toNat = 0 then 0 else if r.toNat < 8 then x.low.get 0 r.toNat else x.win.get 0 (x.phys r.toNat)

/-- Scalar register `r` written; s0 ignores writes (R171). -/
def Slot.setS (x : Slot) (r : BitVec 5) (v : W64) : Slot :=
  if r.toNat = 0 then x
  else if r.toNat < 8 then { x with low := x.low.set 0 r.toNat v }
  else { x with win := x.win.set 0 (x.phys r.toNat) v }

/-- Register s(16 + n) of a VX field of kind S (R195). -/
def sHi (n : BitVec 4) : BitVec 5 := BitVec.ofNat 5 (16 + n.toNat)

def Slot.vr (x : Slot) (r : BitVec 4) : W256 := x.v.get 0 r.toNat
def Slot.setV (x : Slot) (r : BitVec 4) (v : W256) : Slot := { x with v := x.v.set 0 r.toNat v }
/-- Mask register `r`, 0 to 7. -/
def Slot.mr (x : Slot) (r : Nat) : W32 := x.m.get 0 r
def Slot.setM (x : Slot) (r : Nat) (v : W32) : Slot := { x with m := x.m.set 0 r v }
/-- Stream register `k`. -/
def Slot.st (x : Slot) (k : Nat) : Stream := x.q.get Stream.reset k
def Slot.setSt (x : Slot) (k : Nat) (v : Stream) : Slot := { x with q := x.q.set Stream.reset k v }
def Slot.modSt (x : Slot) (k : Nat) (f : Stream → Stream) : Slot := x.setSt k (f (x.st k))

/-- On to `p`: the instruction is done, which a step command waits for (R335). -/
def Slot.goto (x : Slot) (p : Pc) : Slot := { x with pc := p, begun := false, stamped := false, stepDone := x.stepping }
/-- On to the next instruction. -/
def Slot.next (x : Slot) : Slot := x.goto (x.pc + 4)

/-! The trace of a core (R337, R338) -/

/-- The trigger matches: triggered, and frozen at once if no further record is asked for. -/
def Trace.trigger (t : Trace) : Trace :=
  if t.triggered then t else { t with triggered := true, after := fld t.ctl.toNat 16 7, frozen := fld t.ctl.toNat 16 7 == 0 }

/-- A record written; each one after the trigger counts. -/
def Trace.record (t : Trace) (r : W256) : Trace :=
  let idx := t.idx.toNat
  let t' := { t with recs := t.recs.set 0 idx r, idx := t.idx + 1, wrapped := t.wrapped || idx == 127 }
  if t.triggered then { t' with after := t.after - 1, frozen := t.after ≤ 1 } else t'

/-- One non-speculative event of a slot: recorded under the slot and kind masks, with the triggers on addresses and faults
(R338). -/
def Trace.event (t : Trace) (cycle k kind : Nat) (pc : Pc) (aux : Nat) (data value : W64) : Trace :=
  let c := t.ctl.toNat
  if ¬ bit c 0 || t.frozen then t else
  let hit := (fld c 13 3 == 3 && kind == 7) || (fld c 13 3 == 2 && 3 ≤ kind && kind ≤ 5 && data == t.cmp)
  let t := if bit c (1 + k) && bit c (4 + kind) then
    t.record (BitVec.ofNat 256 (cycle % 2 ^ 32 + k * 2 ^ 32 + kind * 2 ^ 34 + pc.toNat * 2 ^ 40 + aux % 256 * 2 ^ 88 + data.toNat * 2 ^ 96 +
      value.toNat * 2 ^ 160)) else t
  if hit then t.trigger else t

/-- An event of slot `g` into its core's trace. -/
def State.trace (s : State) (g kind : Nat) (pc : Pc) (aux : Nat) (data value : W64) : State :=
  s.modCore (coreOf g) fun c => { c with trace := c.trace.event s.cycle (g % 4) kind pc aux data value }

/-! An instruction's last act -/

/-- The running slot goes on to its next instruction. -/
def State.pass (s : State) : State := s.modMe Slot.next
/-- `v` into scalar register `d` of the running slot, which goes on. -/
def State.passS (s : State) (d : BitVec 5) (v : W64) : State := s.modMe fun x => (x.setS d v).next
/-- `v` into vector register `d` of the running slot, which goes on. -/
def State.passV (s : State) (d : BitVec 4) (v : W256) : State := s.modMe fun x => (x.setV d v).next
/-- `v` into mask register `d` of the running slot, which goes on. -/
def State.passM (s : State) (d : Nat) (v : W32) : State :=
  (s.trace s.cur 2 s.me.pc d (BitVec.zeroExtend 64 v) 0).modMe fun x => (x.setM d v).next
/-- The running slot goes on at `p`, a branch or jump taken. -/
def State.jump (s : State) (p : Pc) : State := (s.trace s.cur 1 s.me.pc 0 (BitVec.zeroExtend 64 p) 0).modMe fun x => x.goto p

/-- The cores of the scope around core `c` contain core `c'` (R305). -/
def scopeHas (sc : Scope) (c c' : Nat) : Bool :=
  match sc with
  | .none => false
  | .core => c == c'
  | .cluster => clusterOf c == clusterOf c' && isSup c == isSup c'
  | .die => dieOf c == dieOf c'
  | .device | .system => true

/-- Whether a release at this scope waits for writes that are still in an outbound queue (R309, R315). -/
def scopeWide (sc : Scope) : Bool :=
  match sc with
  | .die | .device | .system => true
  | _ => false

/-- The narrowest scope that encloses both cores (R274). -/
def narrowest (c c' : Nat) : Scope :=
  if c = c' then .core else if scopeHas .cluster c c' then .cluster else if dieOf c = dieOf c' then .die else .device

/-- The code of a scope (R18). -/
def scopeCode : Scope → Nat
  | .none => 0 | .core => 1 | .cluster => 2 | .die => 3 | .device => 4 | .system => 5
/-- The scope of a code. -/
def scopeOf : Nat → Scope
  | 1 => .core | 2 => .cluster | 3 => .die | 4 => .device | 5 => .system | _ => .none

/-- Whether an order includes release; whether it includes acquire (R18). -/
def ordRel : Order → Bool
  | .release | .acqRel => true
  | _ => false
def ordAcq : Order → Bool
  | .acquire | .acqRel => true
  | _ => false

/-- `l` with the members of `k` that it lacks. -/
def union (l k : List Nat) : List Nat := l ++ k.filter (fun n => !l.contains n)
/-- The same for what writes carry. -/
def union' (l k : List RelInfo) : List RelInfo := l ++ k.filter (fun r => !l.contains r)

end Sys2Proof.Machine
end

