-- ==== Sys2Proof/Machine/Memory.lean ====
section
/-! DEFINITION. Memory: one sparse table of bytes for every memory of the module, keyed by flat numbers; what a write
carries along (poison marks, what a release left, the waiters it satisfies); the translation of global addresses and the
way to a region's home. -/
namespace Sys2Proof.Machine

/-! Flat keys: local memory below 2^48, rim memory, weight stores, host memory, NSE lines, the peer cache (R6, R66, R70) -/

def localKey (c off : Nat) : Nat := c * 2 ^ 18 + off
def rimKey (pa : Nat) : Nat := 2 ^ 48 + pa
def wsKey (d off : Nat) : Nat := 2 ^ 50 + d * 2 ^ 29 + off
def hostKey (a : Nat) : Nat := 2 ^ 66 + a
def nseKey (serial : Nat) : Nat := 2 ^ 80 + 64 * serial
def peerKey (ctx module va : Nat) : Nat := 2 ^ 160 + ((ctx * 2 ^ 16 + module) * 2 ^ 44 + va)

/-- The `n` bytes at `k`, little-endian (R10); a byte nothing has written reads 0 (R352). -/
def memNat (m : Tab Byte) (k : Nat) : Nat → Nat
  | 0 => 0
  | n + 1 => (m.get 0 k).toNat + 256 * memNat m (k + 1) n

/-- The low `n` bytes of `v` at `k`. -/
def memPut (m : Tab Byte) (k : Nat) : Nat → Nat → Tab Byte
  | 0, _ => m
  | n + 1, v => memPut (m.set 0 k (BitVec.ofNat 8 v)) (k + 1) n (v / 256)

/-- Those of the `n` bytes of `v` whose mask bit is 1, at `k`. -/
def memPutMask (m : Tab Byte) (k : Nat) : Nat → Nat → Nat → Tab Byte
  | 0, _, _ => m
  | n + 1, v, mk => memPutMask (if mk % 2 = 1 then m.set 0 k (BitVec.ofNat 8 v) else m) (k + 1) n (v / 256) (mk / 2)

/-- The canonical form of memory: addresses strictly rising, no byte listed that is 0, as an unlisted one reads. -/
def Memory.wf (m : Tab Byte) : Bool := Tab.wf 0 m

def State.nat (s : State) (k n : Nat) : Nat := memNat s.mem k n
/-- Bytes placed without the marks and waiters of a write. -/
def State.put (s : State) (k n v : Nat) : State := { s with mem := memPut s.mem k n v }

/-- Whether any of the `n` bytes at `k` lies in a poisoned line (R339). -/
def State.poisoned (s : State) (k n : Nat) : Bool :=
  (List.range ((k + n - 1) / 64 - k / 64 + 1)).any fun i => bit (s.poison.get 0 (k / 64 + i)).toNat 2
/-- The line of `k` is marked poisoned, its rewritten bits clear (R339). -/
def State.mark (s : State) (k : Nat) : State := { s with poison := s.poison.set 0 (k / 64) 4 }

/-- The mark of a line after one write that covers its halves as said (R339). -/
def markAfter (p : BitVec 3) (lo hi : Bool) : BitVec 3 :=
  if bit p.toNat 2 then
    let q := p ||| (if lo then 1 else 0) ||| (if hi then 2 else 0)
    if q = 7 then 0 else q
  else 0

/-- The marks after a write of the `n` bytes at `k`, each line as one write. -/
def State.cover (s : State) (k n : Nat) : State :=
  let lines := (List.range ((k + n - 1) / 64 - k / 64 + 1)).map (k / 64 + ·)
  let one := fun (p : Tab (BitVec 3)) l =>
    p.set 0 l (markAfter (p.get 0 l) (decide (k ≤ 64 * l ∧ 64 * l + 32 ≤ k + n)) (decide (k ≤ 64 * l + 32 ∧ 64 * l + 64 ≤ k + n)))
  { s with poison := lines.foldl one s.poison }

/-- The numbers of the writes of an entry that are still to be performed: its own, until a flagged store's data is in place, and the
next one for that store's increment (R92, R98). -/
def OutEntry.writes (o : OutEntry) : List Nat :=
  (if o.half then [] else [o.id]) ++ match o.e.kind with | .fst .. => [o.id + 1] | _ => []
/-- Those of the writes `l` that still stand in an outbound queue. -/
def State.live (s : State) (l : List Nat) : List Nat := l.filter fun i => s.out.any fun o => o.writes.contains i
/-- What a write of these carries now, nothing that is empty. -/
def State.carry (s : State) (ri : List RelInfo) : List RelInfo :=
  (ri.map fun r => { r with obs := s.live r.obs }).filter fun r => ! r.obs.isEmpty

/-- What stands carried after a write at [k, k + n): a plain store ends the release sequences of its bytes, an atomic
joins them; the write adds its own. A location is one byte (R306, R308). -/
def State.relWrite (s : State) (k n : Nat) (atomic : Bool) (ri : List RelInfo) : State :=
  let ri := s.carry ri
  let one := fun (r : Tab (List RelInfo)) (w : Nat) => r.set [] w (union' (if atomic then r.get [] w else []) ri)
  { s with rel := (List.range n).foldl (fun r i => one r (k + i)) s.rel }

/-- What the writes that now stand in [k, k + n) carry. -/
def State.carried (s : State) (k n : Nat) : List RelInfo :=
  (List.range n).foldl (fun l i => union' l (s.rel.get [] (k + i))) []
/-- The writes among them that happen-before what stands there: whoever reads it observes them (R314). -/
def preOf (l : List RelInfo) : List Nat := (l.filter fun x => x.scope == .none).flatMap (·.obs)
/-- The writes that an acquire at scope `sc` on core `c` takes over (R312). -/
def acqOf (l : List RelInfo) (c : Nat) (sc : Scope) : List Nat :=
  l.flatMap fun x => if scopeHas x.scope x.core c && scopeHas sc c x.core then x.obs else []
/-- The writes that an acquire at scope `sc` on core `c` that reads the word at `k` takes over. -/
def State.acquired (s : State) (k c : Nat) (sc : Scope) : List Nat := acqOf (s.carried k 8) c sc
/-- All that reading the word at `k` as an acquire lets a waiter on core `c` observe: what is taken over, and the writes that
happen-before what stands there (R314). -/
def State.observed (s : State) (k c : Nat) (sc : Scope) : List Nat := union (s.acquired k c sc) (preOf (s.carried k 8))
/-- What a slot on core `c` knows after reading what carries `l`, from writes `ids` still in the outbound queue, as an
acquire at scope `sc` (none for a plain read); all that the release covers happens-before what follows (R312, R314; log entry 81). -/
def Slot.saw (x : Slot) (c : Nat) (sc : Scope) (l : List RelInfo) (ids : List Nat) : Slot :=
  let got := acqOf l c sc
  { x with obs := union x.obs (ids ++ preOf l ++ got), hb := union x.hb got, seen := union' x.seen (l.filter fun r => r.scope != .none) }

/-! Stitches (R250) and the ready lists -/

def stPc (st : W512) : Nat := fld st.toNat 0 48
def stState (st : W512) : Nat := fld st.toNat 48 4
def stPrio (st : W512) : Nat := fld st.toNat 52 4
def stNamed (st : W512) : Bool := bit st.toNat 56
def stFrame (st : W512) : W64 := w64 (fld st.toNat 64 64)
def stFeat (st : W512) : Nat := fld st.toNat 128 32
def stCtx (st : W512) : BitVec 16 := BitVec.ofNat 16 (fld st.toNat 160 16)
def stEclass (st : W512) : Nat := fld st.toNat 176 4
def stPlace (st : W512) : Nat := fld st.toNat 180 12
def stScope (st : W512) : Nat := fld st.toNat 180 3
def stPcore (st : W512) : Nat := fld st.toNat 183 5
def stSpread (st : W512) : Bool := bit st.toNat 191
/-- Live value L0 to L3. -/
def stLive (st : W512) (i : Nat) : W64 := w64 (fld st.toNat (256 + 64 * i) 64)
/-- The stitch with bits [lo + n − 1 : lo] replaced. -/
def stPut (st : W512) (lo n v : Nat) : W512 := BitVec.ofNat 512 (putFld st.toNat lo n v)

/-- A stitch joins the tail of a cluster's ready list at its prio; its time at the head begins when none of its prio stands before it
(R263, R269, R297). -/
def State.ready (s : State) (cl : Nat) (st : W512) (core : Nat) (obs : List Nat) (seen fence : List RelInfo) : State :=
  s.modCluster cl fun k => { k with ready := k.ready ++ [⟨st, core, s.cycle, s.cycle, obs, seen, fence⟩] }

/-- The stitches of a ready list that `gone` names taken out; one that comes to the head of its prio stands there from now (R269). -/
def leaveReady (cycle : Nat) (gone : Nat → Ready → Bool) (l : List Ready) : List Ready :=
  let head := fun (l : List (Ready × Nat)) (p : Nat) => ((l.find? fun r => stPrio r.1.st == p).map (·.2) : Option Nat)
  let rest := l.zipIdx.filter fun r => ! gone r.2 r.1
  rest.map fun r =>
    let p := stPrio r.1.st
    if head rest p == some r.2 && head l.zipIdx p != some r.2 then { r.1 with since := cycle } else r.1

/-- Whether a slot is HELD for stream items. -/
def Slot.streamHeld (x : Slot) : Bool := x.state == .held && match x.hold with
  | .stream .. => true
  | _ => false
/-- A slot becomes RUNNING; the deadlock trap is armed again (R302). -/
def State.run (s : State) (g : Nat) : State :=
  { s.modSlot g (fun x => { x with woken := x.streamHeld, state := .running, hold := .none }) with trapped := false }

/-- The restart point moves to where the slot stands: a new segment begins (R256). -/
def Slot.moved (x : Slot) : Slot := { x with rstpc := x.pc, seg := x.seg + 1 }

/-- The result of a released park: into its live value, pc past the word, READY, onto the ready list (R297). -/
def State.unpark (s : State) (p : Parked) (v : W64) (obs : List Nat) : State :=
  let st := stPut (stPut p.st 0 48 (stPc p.st + 4)) 48 4 0
  let st := if p.d.toNat < 8 then st else stPut st (256 + 64 * (p.d.toNat - 8)) 64 v.toNat
  { s with parked := s.parked.filter (fun q => q.id != p.id) }.ready p.cluster st p.core (union p.obs obs) p.seen p.fence

/-- A parked stitch whose word lies in a poisoned line goes back to its word, where it meets the poison: DESIGN CHOICE, R339 delivers the
line to the NSE as a reader, and R295 gives a waiter no value for it (log entry 79). -/
def State.again (s : State) (p : Parked) : State :=
  { s with parked := s.parked.filter fun q => q.id != p.id }.ready p.cluster (stPut p.st 48 4 0) p.core p.obs p.seen p.fence

/-- A HELD local WAITA takes its value and goes on, having observed the writes `obs` and taken over `got` (R295, R314). -/
def State.wakeHeld (s : State) (g : Nat) (d : BitVec 5) (v : W64) (obs got : List Nat) : State :=
  (s.modSlot g fun x => { ((x.setS d v).next).moved with obs := union x.obs obs, hb := union x.hb got }).run g

/-- Whether [k, k + n) touches the 8-byte word at `w`. -/
def touches (k n w : Nat) : Bool := decide (k < w + 8 ∧ w < k + n)

/-- The waiters of the words in [k, k + n) tested again after a write, each released if its condition holds (R295): HELD slots, wait-list
entries, parked stitches and graph nodes. Those of a poisoned word go back to their words (R339; log entry 79). -/
def State.wake (s : State) (k n : Nat) : State :=
  let hurt := fun (s : State) (w : Nat) => touches k n w && s.poisoned w 8
  let s := s.slots.foldl (fun s e => match (s.slot e.1).state, (s.slot e.1).hold with
    | .held, .waita w thr d sc _ none =>
      if hurt s w then s.run e.1 else if touches k n w && decide (thr.toNat ≤ s.nat w 8) then s.wakeHeld e.1 d (w64 (s.nat w 8)) (s.observed w (coreOf e.1) sc) (s.acquired w (coreOf e.1) sc) else s
    | _, _ => s) s
  let s := s.cores.foldl (fun s e =>
    if e.2.waitList.isEmpty then s else
    s.modCore e.1 fun c => { c with waitList := c.waitList.map fun w => match w.slot.hold with
      | .waita a thr d sc n none =>
        if hurt s a then { w with slot := { w.slot with hold := .none } } else if touches k n a && decide (thr.toNat ≤ s.nat a 8)
        then { w with slot := { w.slot with hold := .waita a thr d sc n (some (w64 (s.nat a 8))), obs := union w.slot.obs (s.observed a e.1 sc), hb := union w.slot.hb (s.acquired a e.1 sc) } }
        else w
      | _ => w }) s
  let s := s.parked.foldl (fun s p => match p.on with
    | .word w thr =>
      if hurt s w then s.again p else if touches k n w && decide (thr.toNat ≤ s.nat w 8) then s.unpark p (w64 (s.nat w 8)) (s.observed w p.core p.scope) else s
    | _ => s) s
  { s with graph := s.graph.map fun x => if touches k n x.key && ! s.poisoned x.key 8 && decide (x.thr.toNat ≤ s.nat x.key 8) then { x with due := true } else x }

/-- One write of the low `n` bytes of `v` at `k`. -/
def State.write (s : State) (k n v : Nat) (ri : List RelInfo := []) : State :=
  if n = 0 then s else ((((s.put k n v).cover k n).relWrite k n false ri).wake k n)

/-- One write by an atomic at `k` (R293). -/
def State.writeAtomic (s : State) (k n v : Nat) (ri : List RelInfo) : State :=
  ((((s.put k n v).cover k n).relWrite k n true ri).wake k n)

/-- One write of a line's bytes under a mask, at line key `k` (R92, R339). -/
def State.writeMask (s : State) (k : Nat) (data : W512) (mask : BitVec 64) (ri : List RelInfo) : State :=
  let m := mask.toNat
  let s := { s with
    mem := memPutMask s.mem k 64 data.toNat m
    poison := s.poison.set 0 (k / 64) (markAfter (s.poison.get 0 (k / 64)) (fld m 0 32 == 2 ^ 32 - 1) (fld m 32 32 == 2 ^ 32 - 1))
    rel := (List.range 64).foldl (fun r i => if bit m i then r.set [] (k + i) (s.carry ri) else r) s.rel }
  (List.range 8).foldl (fun s i => if fld m (8 * i) 8 = 0 then s else s.wake (k + 8 * i) 8) s

/-! Streaming of a checkpoint (R346, R360) -/

/-- A checkpoint's cut is on its way to the safe tier (R346). -/
def State.streaming (s : State) : Bool := s.dies.any fun e => e.2.ckstream
/-- The range of 2 MiB at an offset within part `p` of the checkpoint image: the ranges of the 64 die scopes first, 512 each, then those of
the 32 rim stacks, 24,576 each (R360). -/
def partRange (p offset : Nat) : Nat := (if p < 64 then 512 * p else 64 * 512 + 24576 * (p - 64)) + offset / 2 ^ 21
/-- Stands for range `r` itself, where what is written has no flat key: a record in accumulator or NSE SRAM (R360). -/
def rangeKey (r : Nat) : Nat := 2 ^ 192 + r
/-- The range that holds the byte at a flat key of local memory, rim memory or a weight store (R360). -/
def imageRange (k : Nat) : Option Nat :=
  if k < 2 ^ 48 then
    let c := k / 2 ^ 18
    if c < Config.cores then some (partRange (c / 1024) (0x28000 * (c % 1024) + k % 2 ^ 18)) else none
  else if k < 2 ^ 50 then some (partRange (64 + (k - 2 ^ 48) / 2 ^ 36) ((k - 2 ^ 48) % 2 ^ 36))
  else if k < 2 ^ 50 + 64 * 2 ^ 29 then some (partRange ((k - 2 ^ 50) / 2 ^ 29) (0x12000000 + (k - 2 ^ 50) % 2 ^ 29))
  else if 2 ^ 192 ≤ k then some (k - 2 ^ 192)
  else none
/-- The two ranges of the accumulator SRAM of cluster `k`'s matrix unit (R360). -/
def accRanges (k : Nat) : List Nat := (List.range 2).map fun i => partRange (k / 32) (0x0A000000 + 2 ^ 22 * (k % 32) + 2 ^ 21 * i)
/-- The eight ranges of the NSE SRAM of die `d` (R360). -/
def nseRanges (d : Nat) : List Nat := (List.range 8).map fun i => partRange d (0x32000000 + 2 ^ 21 * i)
/-- The 104 ranges of die `d` that hold the recorded state of its units (R345, R360). -/
def unitRanges (d : Nat) : List Nat := (List.range 104).map fun i => partRange d (0x33000000 + 2 ^ 21 * i)
/-- The die that streams a range: its own, or the one whose port carries the stack (R346). -/
def rangeDie (r : Nat) : Nat := if r < 64 * 512 then r / 512 else (Config.stackDie (Fin.ofNat 32 ((r - 64 * 512) / 24576))).val

/-- A range has not been streamed yet: a write to memory in it waits (R346). -/
def State.rangeHeld (s : State) (r : Nat) : Bool := s.streaming && ! s.ckRanges.contains r
/-- A write at a flat key waits until the range that holds it has been streamed (R346). -/
def State.ckHold (s : State) (k : Nat) : Bool := match imageRange k with
  | some r => s.rangeHeld r
  | none => false
/-- A write to a tile of cluster `k` waits: which of the unit's two ranges holds the tile the spec leaves open, so it waits for both:
DESIGN CHOICE (log entry 27). -/
def State.accHold (s : State) (k : Nat) : Bool := (accRanges k).any s.rangeHeld
/-- A write to a record in the NSE SRAM of die `d` waits, likewise for all eight ranges (log entry 27). -/
def State.nseHold (s : State) (d : Nat) : Bool := (nseRanges d).any s.rangeHeld
/-- Writes to the ranges `rs` wait: those not streamed yet are wanted (R346, R351). -/
def State.wantRanges (s : State) (rs : List Nat) : State :=
  match rs.filter fun r => s.rangeHeld r && ! s.ckWants.contains r with
  | [] => s
  | r => { s with ckWants := s.ckWants ++ r }
/-- Writes at the flat keys `ks` wait, if there are any. -/
def State.ckWant (s : State) (ks : List Nat) : State := s.wantRanges (ks.filterMap imageRange)

/-! Translation (R70 to R77) -/

/-- The kinds of request that the home translates (R75). -/
inductive Kind where
  | read | write | rmw | fetch
  deriving DecidableEq, Repr

/-- What an operation meets: it is done, it ends with a fault, or it must wait. -/
inductive Met (α : Type) where
  | ok (a : α)
  | bad (f : FaultInfo)
  | wait (keys : List Nat)
  deriving Repr

/-- An access that is performed, that ends with a fault, in the state it leaves, or that must wait and then leaves nothing; the keys
that a write which waits under R346 would write. -/
inductive Got (α : Type) where
  | ok (a : α)
  | bad (s : State) (f : FaultInfo)
  | wait (keys : List Nat)

/-- Whether a kind writes. -/
def kindWrites : Kind → Bool
  | .write | .rmw => true
  | _ => false
/-- The index of a table at a level (R74). -/
def ptIndex (lvl va : Nat) : Nat :=
  if lvl = 4 then fld va 39 13 else if lvl = 3 then fld va 30 9 else if lvl = 2 then fld va 21 9 else fld va 16 5
/-- The size and alignment of a table at a level (R74). -/
def ptSize (lvl : Nat) : Nat := if lvl = 4 then 2 ^ 16 else if lvl = 1 then 256 else 2 ^ 12
/-- Whether a physical address is unpopulated (R70). -/
def unpopulated (pa : Nat) : Bool := fld pa 41 7 != 0 || decide (0xC00000000 ≤ fld pa 0 36)

/-- Stands for the kind of a failure where a walker reads a poisoned line; no kind of R76, it ends the access as POISON (log entry 61). -/
def kindPoison : Nat := 16

/-- The walk from a table at a level down to a leaf: the leaf's place, value and level, or the failing kind and level
(R75, R76); `bad` tells the poisoned bytes (R339). A root at an unpopulated address is read as ordinary memory (log entry 92). -/
def walkFrom (m : Tab Byte) (bad : Nat → Bool) (va : Nat) : Nat → Nat → Except (Nat × Nat) (Nat × Nat × Nat)
  | 0, _ => .error (6, 1)
  | l + 1, t =>
    let lvl := l + 1
    let at_ := t + 8 * ptIndex lvl va
    let e := memNat m (rimKey at_) 8
    let pa := fld e 8 40 * 256
    if bad (rimKey at_) then .error (kindPoison, lvl)
    else if ¬ bit e 0 then .error (3, lvl)
    else if bit e 7 || fld e 48 16 != 0 || unpopulated pa then .error (6, lvl)
    else if bit e 1 then
      if lvl > 2 || pa % (if lvl = 2 then 2 ^ 21 else 2 ^ 16) != 0 then .error (6, lvl) else .ok (at_, e, lvl)
    else if lvl = 1 then .error (6, 1)
    else if pa % ptSize l != 0 then .error (6, lvl)
    else walkFrom m bad va l pa

/-- The context descriptor a home reads (R71). One that lies at an unpopulated address is read as ordinary memory: DESIGN CHOICE, R70 and R71
give no outcome for it (log entry 92). -/
def State.desc (s : State) (d : Nat) (ctx : BitVec 16) : Nat := s.nat (rimKey ((s.die d).ctxtab.toNat + 64 * ctx.toNat)) 64

/-- The walk of R75 at a die's home, without the rights of the kind. -/
def State.walk (s : State) (d : Nat) (ctx : BitVec 16) (va : Nat) : Except (Nat × Nat) (Nat × Nat × Nat) :=
  let desc := s.desc d ctx
  if s.poisoned (rimKey ((s.die d).ctxtab.toNat + 64 * ctx.toNat)) 64 then .error (kindPoison, 4)
  else if ¬ bit desc 0 then .error (2, 4) else walkFrom s.mem (fun k => s.poisoned k 8) va 4 (fld desc 8 40 * 256)

/-- The leaf that the home's translation cache has for an access; a write needs one whose dirty bit is set (R77). -/
def State.tcHit (s : State) (d : Nat) (ctx : BitVec 16) (va : Nat) (kind : Kind) : Option TcEntry :=
  if s.miss then none else
    (s.die d).tc.find? fun t => t.ctx == ctx && decide (t.va ≤ va ∧ va < t.va + t.size) && (t.dirty || ¬ kindWrites kind)
/-- A leaf entry with the bits that a walker sets for an access of a kind (R75). -/
def leafMarked (e : Nat) (kind : Kind) : Nat := e ||| 16 ||| (if kindWrites kind then 32 else 0)
/-- The leaf entries, at most one, that the translation of an access would mark (R75, R77). -/
def State.walkMarks (s : State) (d : Nat) (ctx : BitVec 16) (va : Nat) (kind : Kind) : List Nat :=
  match s.tcHit d ctx va kind, s.walk d ctx va with
  | none, .ok (at_, e, _) =>
    if (kindWrites kind && ¬ bit e 2) || (kind == .fetch && ¬ bit e 3) || leafMarked e kind == e then [] else [rimKey at_]
  | _, _ => []

/-- Translation at the home of die `d`: the physical address, with the accessed and dirty bits set and the leaf cached, or the failing
kind and level; a walk that starts counts however it ends (R75, R77, R78). -/
def State.translate (s : State) (d : Nat) (ctx : BitVec 16) (va : Nat) (kind : Kind) : State × Except (Nat × Nat) Nat :=
  match s.tcHit d ctx va kind with
  | some t =>
    let lvl := if t.size = 2 ^ 21 then 2 else 1
    if kindWrites kind && ¬ t.w then (s, .error (4, lvl))
    else if kind = .fetch ∧ ¬ t.x then (s, .error (5, lvl))
    else (s, .ok (t.pa + (va - t.va)))
  | none =>
    let s := s.modDie d fun x => { x with walkcnt := x.walkcnt + 1 }
    match s.walk d ctx va with
    | .error e => (s, .error e)
    | .ok (at_, e, lvl) =>
      if kindWrites kind && ¬ bit e 2 then (s, .error (4, lvl))
      else if kind = .fetch ∧ ¬ bit e 3 then (s, .error (5, lvl))
      else
        let e' := leafMarked e kind
        let size := if lvl = 2 then 2 ^ 21 else 2 ^ 16
        let base := va / size * size
        let s := if e' = e then s else s.put (rimKey at_) 8 e'
        let new : TcEntry := ⟨ctx, base, size, fld e 8 40 * 256, bit e 2, bit e 3, bit e' 5⟩
        let s := s.modDie d fun x => { x with tc := keepLast 4096 (x.tc.filter (fun t => ¬ (t.ctx == ctx && t.va == base)) ++ [new]) }
        (s, .ok (fld e 8 40 * 256 + va % size))

/-- Why a cluster finds no home for a region: there is none (R73), or a table it reads is poisoned (log entry 61). -/
inductive NoHome where
  | none
  | poison
  deriving DecidableEq, Repr

/-- The home of a region as a cluster finds it, its cache filled on a miss (R72, R73). The context table is that of the cluster's own
die: DESIGN CHOICE, the spec does not say which home interface's CTXTAB the cluster takes, and R71 has software write one value into
all (log entry 62). -/
def State.regionHome (s : State) (cl : Nat) (ctx : BitVec 16) (va : Nat) : State × Except NoHome Nat :=
  let r := fld va 21 31
  let hit := if s.miss then none else (s.cluster cl).rhcache.find? fun e => e.ctx == ctx && e.region == r
  match hit with
  | some e => (s, .ok e.home)
  | none =>
    let d := cl / 32
    let desc := s.desc d ctx
    if s.poisoned (rimKey ((s.die d).ctxtab.toNat + 64 * ctx.toNat)) 64 then (s, .error .poison) else
    if ¬ bit desc 0 || ¬ bit desc 64 then (s, .error .none) else
    let topAt := rimKey (fld desc 72 40 * 256 + 8 * fld va 37 15)
    let top := s.nat topAt 8
    if s.poisoned topAt 8 then (s, .error .poison) else
    if ¬ bit top 0 then (s, .error .none) else
    let leafAt := rimKey (fld top 8 40 * 256 + 2 * fld va 21 16)
    let leaf := s.nat leafAt 2
    if s.poisoned leafAt 2 then (s, .error .poison) else
    if ¬ bit leaf 15 then (s, .error .none) else
    let h := fld leaf 5 6
    let new : RhEntry := ⟨ctx, r, h⟩
    (s.modCluster cl fun k => { k with rhcache := keepLast 1024 (k.rhcache.filter (fun e => ¬ (e.ctx == ctx && e.region == r)) ++ [new]) }, .ok h)

/-- The forwarding entry of a region at a home (R80). -/
def State.forward (s : State) (d : Nat) (ctx : BitVec 16) (va : Nat) : Option Fwd :=
  (s.die d).fwd.find? fun f => f.ctx == ctx && f.region == fld va 21 31
/-- A home holds requests to a region it is handing over (R80). -/
def State.handing (s : State) (d : Nat) (ctx : BitVec 16) (va : Nat) : Bool :=
  match (s.die d).rhreq with
  | some v => ¬ (s.die d).rhdone && ¬ bit v.toNat 16 && fld v.toNat 0 16 == ctx.toNat && fld v.toNat 21 31 == fld va 21 31
  | none => false
/-- A home holds writes to a page that migrates (R86). -/
def State.migrating (s : State) (d : Nat) (ctx : BitVec 16) (va : Nat) : Bool :=
  (s.die d).migs.any fun m => m.ctx == ctx && decide (m.va ≤ va ∧ va < m.va + (if m.big then 2 ^ 21 else 2 ^ 16))

/-- Where the sampler of die `d` writes the record of the next sample of a type, if it writes one (R84). -/
def State.sampleAt (s : State) (d type : Nat) : List Nat :=
  let x := s.die d
  let ring := 2 ^ fld x.smpctl.toNat 16 5
  if bit x.smpctl.toNat 0 && decide (type < 8 ∧ 2 ^ fld x.smpctl.toNat 4 5 ≤ x.smpcount + 1 ∧ (x.smphead - x.smptail).toNat < ring) then
    [rimKey (x.smpbase.toNat + 16 * (x.smphead.toNat % ring))]
  else []
/-- One performed request sampled (R84, R85); type 8 stands for a check that performs nothing. A record whose place is unpopulated is written
as to ordinary memory (log entry 92). -/
def State.sample (s : State) (d : Nat) (ctx : BitVec 16) (va cl : Nat) (peer : Bool) (type : Nat) : State :=
  let x := s.die d
  if ¬ bit x.smpctl.toNat 0 || decide (8 ≤ type) then s
  else if x.smpcount + 1 < 2 ^ fld x.smpctl.toNat 4 5 then s.modDie d fun x => { x with smpcount := x.smpcount + 1 }
  else
    let s := s.modDie d fun x => { x with smpcount := 0 }
    let ring := 2 ^ fld x.smpctl.toNat 16 5
    if (x.smphead - x.smptail).toNat < ring then
      let rec_ := va % 2 ^ 52 + cl % 2048 * 2 ^ 52 + b2n peer * 2 ^ 63 + (ctx.toNat + type * 2 ^ 16 + s.cycle % 2 ^ 44 * 2 ^ 20) * 2 ^ 64
      (s.write (rimKey (x.smpbase.toNat + 16 * (x.smphead.toNat % ring))) 16 rec_).modDie d fun x => { x with smphead := x.smphead + 1 }
    else s.modDie d fun x => { x with smpdrop := x.smpdrop + 1 }

/-- A live barrier's line touched by [k, k + n) (R299). -/
def State.onBarrier (s : State) (k n : Nat) : Bool :=
  s.barriers.any fun b => decide (b.line ≠ 0 ∧ k < b.key + 64 ∧ b.key < k + n)

/-- The fault of a translation that failed, POISON where a walker read a poisoned line (R76, R321, R339). -/
def xlateFault (ea : W64) (k l : Nat) : FaultInfo := if k = kindPoison then ⟨7, ea, 0⟩ else ⟨4, ea, w64 (k + l * 16)⟩
/-- The fault of an access whose region has no home: NOHOME, which no walk found. Its level is 0: DESIGN CHOICE, R76 gives it none (log
entry 63). -/
def noHome (ea : W64) (e : NoHome) : FaultInfo := match e with
  | .none => xlateFault ea 1 0
  | .poison => xlateFault ea kindPoison 0
/-- The fault of a refused access: PERM with its kind and whether a target returned it (R321). -/
def permFault (ea : W64) (kind : Nat) (returned : Bool) : FaultInfo := ⟨2, ea, w64 (kind + b2n returned * 256)⟩

/-- A request at the home of die `d`: held, translated and sampled (R75, R80, R84, R86); the flat key. It waits where what it writes, a leaf
it marks or the record of its sample lies in memory not streamed yet (R346). -/
def State.atHome (s : State) (d cl : Nat) (ctx : BitVec 16) (ea : W64) (n : Nat) (kind : Kind) (peer : Bool) (type : Nat) :
    Got (State × Nat) :=
  let va := fld ea.toNat 0 52
  if s.handing d ctx va || (kindWrites kind && s.migrating d ctx va) then .wait [] else
  let marks := s.walkMarks d ctx va kind ++ s.sampleAt d type
  if marks.any s.ckHold then .wait marks else
  match s.translate d ctx va kind with
  | (s, .error (k, l)) => .bad s (xlateFault ea k l)
  | (s, .ok pa) =>
    let key := rimKey pa
    if kindWrites kind && s.onBarrier key n then .bad s (permFault ea (if kind = .rmw then 2 else 1) true)
    else if kindWrites kind && s.ckHold key then .wait [key]
    else .ok (s.sample d ctx va cl peer type, key)

/-- A correction reaches a cluster: its cache names the new home, and no further request leaves for the region until those it has
outstanding there are answered (R81, R82). -/
def State.corrected (s : State) (cl : Nat) (r : RhEntry) : State :=
  s.modCluster cl fun k =>
    { k with rhcache := keepLast 1024 (k.rhcache.filter (fun (e : RhEntry) => ! (e.ctx == r.ctx && e.region == r.region)) ++ [r])
             fixes := k.fixes ++ [(r, s.nextId)] }

/-- The way of a synchronous request from a cluster to its home through the forwarding entries it meets, each counting and correcting
the cluster's cache (R73, R81). -/
def State.reach (s : State) (cl : Nat) (ctx : BitVec 16) (va : Nat) : Nat → Nat → State × Option Nat
  | 0, h => (s, some h)
  | f + 1, h =>
    match s.forward h ctx va with
    | none => (s, some h)
    | some e =>
      match e.succ with
      | none => (s, none)
      | some h' => ((s.modDie h fun x => { x with fwdcnt := x.fwdcnt + 1 }).corrected cl ⟨ctx, fld va 21 31, h'⟩).reach cl ctx va f h'

/-- The home that a cluster's request to a region reaches now, or the fault that ends it (R73, R76, R81). -/
def State.findHome (s : State) (cl : Nat) (ctx : BitVec 16) (ea : W64) : State × Except FaultInfo Nat :=
  let va := fld ea.toNat 0 52
  match s.regionHome cl ctx va with
  | (s, .error e) => (s, .error (noHome ea e))
  | (s, .ok h) => match s.reach cl ctx va 64 h with
    | (s, none) => (s, .error (noHome ea .none))
    | (s, some h) => (s, .ok h)

/-- A global access performed at once: region home, forwarding, translation, sampling. -/
def State.global (s : State) (cl : Nat) (ctx : BitVec 16) (ea : W64) (n : Nat) (kind : Kind) (type : Nat) : Got (State × Nat) :=
  match s.findHome cl ctx ea with
  | (s, .error f) => .bad s f
  | (s, .ok h) => s.atHome h cl ctx ea n kind false type

end Sys2Proof.Machine
end

