-- ==== Sys2Proof/Machine/Ops.lean ====
section
/-! DEFINITION. The shared operations of the slots: addresses and their checks, rights on local memory, the segment buffer,
commits, TAKING A FAULT (one operation, `State.freeze`, and the fates of R258 to R260 over it) and the ways back from it
(resume, restart, kill). -/
namespace Sys2Proof.Machine

/-! Addresses -/

/-- A core's address in the form it is matched in: tags 0x0 and 0x1 as tag 0x2 (R125), a system address of the own module
as tag 0x4 (R68). A supervisor core's own memory, which tag 0x2 cannot name (R3), stands above the 34 bits of that tag. -/
def State.canon (s : State) (c : Nat) (ea : W64) : W64 :=
  let a := ea.toNat
  if tagOf ea = 0 then mkAddr 2 (c * 2 ^ 18 + fld a 0 18)
  else if tagOf ea = 1 then mkAddr 2 (clusterOf c * 2 ^ 23 + fld a 0 23)
  else if tagOf ea = 8 ∧ fld a 44 16 = s.durable.module.toNat then mkAddr 4 (fld a 0 44)
  else ea

/-- The core and offset of a canonical local address. -/
def lCore (ea : W64) : Nat := fld ea.toNat 18 42
def lOff (ea : W64) : Nat := fld ea.toNat 0 18
/-- The flat key of a canonical local address. -/
def lKey (ea : W64) : Nat := localKey (lCore ea) (lOff ea)

/-- Whether a block of the supervisor and debug windows is populated at an index (R319). -/
def winPopulated (a : Nat) : Bool :=
  let i := fld a 0 18
  match fld a 18 5 with
  | 0 => true
  | 1 => decide (fld i 0 11 < 0x28)
  | 2 => decide (fld i 0 13 < 0x1018)
  | 3 => decide (i < 0x1000)
  | 4 => decide (i < 0x210)
  | 5 => decide (i < 0x128)
  | 8 => decide (i < 0x78)
  | 9 => decide (i < 0x28)
  | 10 => decide (i < 0x38)
  | 11 => decide (i < 0x20)
  | 12 => decide (i < 0x490)
  | 13 => decide (i < 0x20)
  | _ => false

/-- The address check of a core before an access leaves it (R67). -/
def addrOk (sup : Bool) (ea : W64) : Bool :=
  let a := ea.toNat
  let off := decide (fld a 0 18 < 0x28000)
  match tagOf ea with
  | 0 => fld a 18 42 == 0 && off
  | 1 => fld a 23 37 == 0 && off
  | 2 => fld a 34 26 == 0 && off
  | 3 =>
    let i := fld a 0 20
    fld a 24 36 == 0 && (match fld a 20 4 with
      | 0 => decide (i < 0x110)
      | 1 => decide (i < 0x210)
      | 2 => decide (0xF0000 ≤ i ∧ i < 0xF0140)
      | 3 => decide (i < 0x128)
      | _ => false)
  | 4 => fld a 52 8 == 0
  | 5 => fld a 29 31 == 0
  | 8 => true
  | 15 => sup && fld a 34 26 == 0 && winPopulated a
  | _ => false

/-- Whether an address carries one of the tags that control words, names, stitches and blocks may carry (R191, R264, R286). -/
def plainTag (ea : W64) : Bool := tagOf ea == 0 || tagOf ea == 1 || tagOf ea == 2 || tagOf ea == 4

/-! Rights on local memory (R122, R125, R127, R129) -/

/-- The descriptors that a cluster's protection table holds for a context; none is eight invalid ones (R128, R129). -/
def State.protSet (s : State) (cl : Nat) (ctx : BitVec 16) : Tab (BitVec 128) :=
  let t := (s.cluster cl).prot
  match (List.range 16).find? fun k => bit (t.get 0 (32 * k)).toNat 16 && fld (t.get 0 (32 * k)).toNat 0 16 == ctx.toNat with
  | none => []
  | some k => (List.range 8).foldl (fun d i =>
      d.set 0 i (BitVec.ofNat 128 ((t.get 0 (32 * k + 2 + 2 * i)).toNat + (t.get 0 (32 * k + 3 + 2 * i)).toNat * 2 ^ 64))) []

/-- Whether some descriptor grants `need` (0 r, 1 w, 2 a) on [ea, ea + n) (R129). -/
def granted (d : Tab (BitVec 128)) (need : Nat) (ea : W64) (n : Nat) : Bool :=
  d.any fun e => bit e.2.toNat 112 && bit e.2.toNat (113 + need) && decide (fld e.2.toNat 0 64 ≤ ea.toNat ∧
    ea.toNat + n ≤ fld e.2.toNat 0 64 + fld e.2.toNat 64 48)

/-- The rows of a slot page that stores may reach: MXERR, CPERR and the first word of RXRING (R127). -/
def rwRow (off n : Nat) : Bool := decide (0x10 ≤ off ∧ off + n ≤ 0x28)

/-- The protection unit's decision on an access of slot `g` to canonical local address `ea`; a supervisor core's memory lies in no cluster of
programs and is never fenced (R4, R122, R127, R129). -/
def State.localOk (s : State) (g : Nat) (d : Tab (BitVec 128)) (need : Nat) (ea : W64) (n : Nat) : Bool :=
  let off := lOff ea
  let own := lCore ea == coreOf g
  if ! isSup (lCore ea) && (s.cluster (clusterOf (lCore ea))).fenced then false
  else if off + n ≤ 0x24000 then own || granted d need ea n
  else if off < 0x27000 then false
  else
    let row := rwRow (fld off 0 10) n
    let mine := own && fld off 10 2 == g % 4
    if need = 0 then mine || granted d 0 ea n
    else if need = 1 then row && (mine || granted d 1 ea n)
    else false

/-! Slot pages and local writes -/

/-- The key of offset `off` of slot `g`'s page (R122). -/
def pageKey (g off : Nat) : Nat := localKey (coreOf g) (0x27000 + 0x400 * (g % 4) + off)

/-- What a write by an agent of core `c` carries: the writes `pre` that happen-before it, and as a release at scope `sc` every
write `obs` it has observed (R311, R314). -/
def relOf (sc : Scope) (c : Nat) (obs pre : List Nat) : List RelInfo := ⟨pre, .none, c⟩ :: if sc = .none then [] else [⟨obs, sc, c⟩]

/-- Whether every listed write has been performed, and so is visible at every scope (R309). -/
def State.settled (s : State) (obs : List Nat) : Bool := s.out.all fun o => o.writes.all fun i => ! obs.contains i
/-- Whether the cores of core `c`'s cluster see a queued write numbered `i` before it is performed: a global or system store of their own
queue (R92, R309). -/
def OutEntry.near (o : OutEntry) (c i : Nat) : Bool :=
  i == o.id && scopeHas .cluster c (coreOf o.g) && (tagOf o.e.line == 4 || tagOf o.e.line == 8) && (match o.e.kind with | .amo .. => false | _ => true)
/-- Whether the listed writes are visible at scope `sc` around core `c`, as a release there waits for; a relaxed access waits for none
(R309, R314, R315). -/
def State.visible (s : State) (sc : Scope) (c : Nat) (obs : List Nat) : Bool :=
  sc == .none || s.out.all fun o => o.writes.all fun i => ! obs.contains i || (! scopeWide sc && o.near c i)
/-- What an entry's write carries: its own release, and that of each FENCE before it; the data of a flagged store releases nothing
itself (R97, R98, R308). -/
def OutEntry.carries (o : OutEntry) : List RelInfo :=
  relOf (match o.e.kind with | .fst .. => .none | _ => o.scope) (coreOf o.g) o.obs o.pre ++ o.fence
/-- Whether what an entry releases, itself or for a FENCE before it, is visible at its scope (R96 to R98, R315). -/
def State.releasable (s : State) (o : OutEntry) : Bool :=
  s.visible o.scope (coreOf o.g) o.obs && o.fence.all fun r => s.visible r.scope r.core r.obs

/-- What FENCEs with release cover, as a store made on core `c` carries it (R97, R304). -/
def fencesAt (c : Nat) (l : List RelInfo) : List RelInfo := l.map fun r => { r with core := c }

/-- A queue of core `c`. -/
def State.queue (s : State) (c : Nat) (eng : Eng) : Queue := if eng = .copy then (s.core c).copyQ else (s.core c).mxQ
def State.modQueue (s : State) (c : Nat) (eng : Eng) (f : Queue → Queue) : State :=
  s.modCore c fun k => if eng = .copy then { k with copyQ := f k.copyQ } else { k with mxQ := f k.mxQ }
/-- The opcode and the scope of a command (R29, R30). -/
def Cmd.op (k : Cmd) : Nat := fld k.w.toNat 0 8
def Cmd.scope (k : Cmd) : Scope := scopeOf (fld k.w.toNat 16 3)

/-- Whether what the queue's agent has observed is visible at the scope of a command that releases (R151, R213, R315). -/
def State.mayRelease (s : State) (c : Nat) (eng : Eng) (k : Cmd) : Bool := s.visible k.scope c (s.queue c eng).obs
/-- What a completion write of a command carries: what happens-before it, and as a release every write its agent, the queue, has observed
(R212, R314, R318). -/
def State.releases (s : State) (c : Nat) (eng : Eng) (k : Cmd) : List RelInfo :=
  relOf k.scope c (s.queue c eng).obs (s.queue c eng).hb

/-- The head of a queue leaves it, its completion sequence written, as a release or with none (R151, R153, R213, R214). -/
def State.leave (s : State) (c : Nat) (eng : Eng) (rel : Bool) : State :=
  match (s.queue c eng).cmds with
  | [] => s
  | k :: rest =>
    (s.write (pageKey k.g (if eng = .copy then 0 else 8)) 8 k.seq.toNat (if rel then s.releases c eng k else [])).modQueue c eng
      fun q => { q with cmds := rest, obs := s.live q.obs, hb := s.live q.hb }
/-- The head of a queue has completed: its completion sequence is a release at its scope (R151, R213). -/
def State.complete (s : State) (c : Nat) (eng : Eng) : State := s.leave c eng true

/-- A store of 0 to CPERR or MXERR retires the failed command and lets its queue go on, at once or, where its release must wait,
as soon as that may be; a word that is 0 already stays (R170, R226). -/
def State.clearErr (s : State) (g : Nat) (eng : Eng) : State :=
  let k := pageKey g (if eng = .copy then 0x18 else 0x10)
  if s.nat k 8 = 0 then s else
  let c := coreOf g
  let s := s.write k 8 0
  match (s.queue c eng).cmds with
  | cmd :: _ =>
    if ¬ (cmd.g = g ∧ cmd.phase = .stopped) then s
    else if s.mayRelease c eng cmd then s.complete c eng
    else s.modQueue c eng fun q => { q with cmds := match q.cmds with
      | [] => []
      | k :: ks => { k with retire := true } :: ks }
  | [] => s

/-- Whether word +0x020 of a slot page may become `v`: no reserved bit, a ring within the program area (R267). -/
def ringOk (v : Nat) : Bool :=
  fld v 23 9 == 0 && fld v 48 16 == 0 && (¬ bit v 18 || (fld v 0 6 == 0 && fld v 19 4 ≤ 10 && decide (fld v 0 18 + 64 * 2 ^ fld v 19 4 ≤ 0x24000)))

/-- What the 8-byte word at `k` becomes when the low `n` bytes of `v` are written at `k + o`. -/
def State.merged (s : State) (k o n v : Nat) : Nat := putFld (s.nat k 8) (8 * o) (8 * n) v

/-- Whether a store to a local address, its rights aside, is one the slot page accepts (R267). -/
def State.pageOk (s : State) (ea : W64) (n v : Nat) : Bool :=
  let off := lOff ea
  if off < 0x27000 || fld off 3 7 != 4 then true
  else ringOk (putFld (s.merged (lKey ea / 8 * 8) (off % 8) n v) 32 16 0)

/-- A write of slot or engine to a canonical local address whose rights are granted: slot-page words act as R170, R226 and
R267 state, every other byte is memory. A store of fewer than 8 bytes to MXERR or CPERR leaves the word as it is, zeros or not: DESIGN CHOICE,
R127 does not say what a part of the word does (log entry 90). -/
def State.writeLocal (s : State) (ctx : BitVec 16) (ea : W64) (n v : Nat) (ri : List RelInfo) : State :=
  let off := lOff ea
  if off < 0x27000 then s.write (lKey ea) n v ri
  else
    let g := 4 * lCore ea + fld off 10 2
    match fld off 3 7 with
    | 2 => if n = 8 ∧ v % 2 ^ 64 = 0 then s.clearErr g .matrix else s
    | 3 => if n = 8 ∧ v % 2 ^ 64 = 0 then s.clearErr g .copy else s
    | 4 =>
      let w := putFld (s.merged (lKey ea / 8 * 8) (off % 8) n v) 32 16 ctx.toNat
      (s.write (lKey ea / 8 * 8) 8 w ri).write (lKey ea / 8 * 8 + 8) 8 0
    | _ => s

/-- A guard note set on its way when an access touches a marked granule (R130, R131). -/
def State.guarded (s : State) (g : Nat) (ea : W64) (n : Nat) (kind : Nat) : State :=
  let map := (s.core (lCore ea)).guardMap.toNat
  if (List.range ((lOff ea + n - 1) / 64 - lOff ea / 64 + 1)).any (fun i => bit map (lOff ea / 64 + i))
  then { s with notes := s.notes ++ [⟨s.nextId, g, ea, BitVec.ofNat 2 kind⟩], nextId := s.nextId + 1 } else s

/-! The segment buffer (R91) -/

/-- The low `n` bytes of `old`, those under the mask taken from `new`. -/
def overlay : Nat → Nat → Nat → Nat → Nat
  | 0, _, _, _ => 0
  | n + 1, old, new, mk => (if mk % 2 = 1 then new % 256 else old % 256) + 256 * overlay n (old / 256) (new / 256) (mk / 2)

/-- The line of an address and the offset within it. -/
def lineOf (ea : W64) : W64 := w64 (ea.toNat / 64 * 64)
def inLine (ea : W64) : Nat := ea.toNat % 64

/-- The value and byte mask that entries hold for the `n` bytes at `ea`, the newest last. -/
def known (es : List Entry) (ea : W64) (n : Nat) : Nat × Nat :=
  es.foldl (fun (v, m) e =>
    if e.line == lineOf ea && (match e.kind with | .amo .. => false | _ => true) then
      let mk := fld e.mask.toNat (inLine ea) n
      (overlay n v (fld e.data.toNat (8 * inLine ea) (8 * n)) mk, m ||| mk)
    else (v, m)) (0, 0)

/-- Whether an entry will change bytes of [ea, ea + n) by an amount that is not known yet (R89). -/
def pendingOn (e : Entry) (ea : W64) (n : Nat) : Bool :=
  match e.kind with
  | .store => false
  | .amo f _ _ _ blk => (e.line == lineOf ea && fld e.mask.toNat (inLine ea) n != 0) ||
      (f == 11 && decide (ea.toNat < blk.toNat + 16 ∧ blk.toNat < ea.toNat + n))
  | .fst flag _ _ => decide (ea.toNat < flag.toNat + 8 ∧ flag.toNat < ea.toNat + n)

/-- Whether an entry touches bytes of [ea, ea + n) (R90, R91). -/
def touchesEntry (e : Entry) (ea : W64) (n : Nat) : Bool :=
  (e.line == lineOf ea && fld e.mask.toNat (inLine ea) n != 0) || pendingOn e ea n

/-- How many entries lead up to and include the newest that satisfies `p`. -/
def upTo (p : Entry → Bool) (es : List Entry) : Nat := (es.reverse.dropWhile fun e => ¬ p e).length

/-- A plain store's bytes: an entry of its own, of `n` ≤ 32 bytes. -/
def storeEntry (ea : W64) (n v : Nat) (pc : Pc) : Entry :=
  ⟨lineOf ea, BitVec.ofNat 512 (v % 2 ^ (8 * n) * 2 ^ (8 * inLine ea)), BitVec.ofNat 64 ((2 ^ n - 1) * 2 ^ inLine ea), [(inLine ea, n)], .store, pc⟩

/-- The accesses of a merged entry: a window register that is stored again is written once, with its last value (R91). -/
def mergeAccs (line : W64) (old new : List (Nat × Nat)) : List (Nat × Nat) :=
  (if tagOf line = 3 || tagOf line = 15 then old.filter fun a => ! new.any fun b => decide (b.1 ≤ a.1 ∧ a.1 + a.2 ≤ b.1 + b.2) else old) ++ new

/-- The entry merged into the newest one of its line, unless a flagged store or atomic that touches the line came after
(R91). -/
def mergeInto (e : Entry) : List Entry → Option (List Entry)
  | [] => none
  | x :: xs =>
    match mergeInto e xs with
    | some xs' => some (x :: xs')
    | none =>
      let later := xs.any fun y => match y.kind with
        | .store => false
        | .amo f _ _ _ blk => y.line == e.line || (f == 11 && lineOf blk == e.line)
        | .fst flag _ _ => y.line == e.line || lineOf flag == e.line
      if x.line = e.line ∧ x.kind = .store ∧ ¬ later then
        some ({ x with data := BitVec.ofNat 512 (overlay 64 x.data.toNat e.data.toNat e.mask.toNat), mask := x.mask ||| e.mask, accs := mergeAccs x.line x.accs e.accs } :: xs)
      else none

/-- The buffer with an entry in it; none when it would need a 65th (R91). -/
def bufAdd (es : List Entry) (e : Entry) : Option (List Entry) :=
  match if e.kind = .store then mergeInto e es else none with
  | some es' => some es'
  | none => if es.length < 64 then some (es ++ [e]) else none

/-! Commits: handing entries over (R92) -/

/-- The home of a global or system line for a cluster, or the NOHOME that ends its access (R73). -/
def State.homeOf (s : State) (cl : Nat) (ctx : BitVec 16) (ea : W64) : State × Nat × Option FaultInfo :=
  if tagOf ea = 4 then
    match s.regionHome cl ctx (fld ea.toNat 0 52) with
    | (s, .ok h) => (s, h, none)
    | (s, .error e) => (s, 0, some (noHome ea e))
  else if tagOf ea = 8 then (s, (Config.bindingDie ((ctx.toNat * 2 ^ 16 + fld ea.toNat 44 16) * 2 ^ 23 + fld ea.toNat 21 23)).val, none)
  else (s, 0, none)

/-- One entry enters the cluster's outbound queue (R92); `word` marks the own store of an STL or releasing FST. It waits for
what its release, or a FENCE with release before it, covers (R96 to R98). -/
def State.handOne (s : State) (g : Nat) (e : Entry) (word : Bool) (rel : Scope) : State :=
  let x := s.slot g
  let cl := clusterOf (coreOf g)
  let (s, h, f) := s.homeOf cl x.ctx e.line
  let obs := if rel = .none then [] else x.obs
  let fence := match e.kind with | .amo .. => [] | _ => fencesAt (coreOf g) x.fence
  let o : OutEntry := ⟨s.nextId, g, cl, x.ctx, h, false, false, rel, s.live obs, s.live x.hb, word, fence, f, e⟩
  let s : State := { s with out := s.out ++ [o], nextId := s.nextId + 2 }
  s.modSlot g fun x => { x with obs := s.live x.obs ++ o.writes, hb := s.live x.hb ++ o.writes }

/-- The first `n` entries of slot `g` handed over in creation order. -/
def State.handOver (s : State) (g n : Nat) (mode : CommitMode) : State :=
  let x := s.slot g
  let s := (x.buf.take n).foldl (fun s e => s.handOne g e false (match e.kind with
    | .fst _ true sc => sc
    | _ => .none)) s
  s.modSlot g fun x => { x with buf := x.buf.drop n, mode := mode, sent := if mode = .drain then x.sent else n }

/-- Whether slot `g` has entries in its cluster's outbound queue. -/
def State.outs (s : State) (g : Nat) : Bool := s.out.any fun o => o.g == g
/-- Whether slot `g` has loads outstanding (R193). -/
def State.loading (s : State) (g : Nat) : Bool := s.loads.any fun l => l.g == g
/-- Whether slot `g` has a store or atomic under way (R92, R293). -/
def State.storing (s : State) (g : Nat) : Bool := s.outs g || s.amos.any fun a => a.g == g
/-- A commit's end: the poison count restarts when the segment met none (R340). -/
def Slot.committed (x : Slot) : Slot :=
  { x with through := false, prest := if x.psince then x.prest else 0, psince := false }

/-- Slot `g`'s commit is done: the number of entries performed goes to its trace, a new segment begins where the slot stands (R92,
R256, R337). -/
def State.commitDone (s : State) (g : Nat) : State :=
  let x := s.slot g
  (s.trace g 6 x.pc 0 (w64 x.sent) 0).modSlot g fun x => { x.committed.moved with sent := 0 }

/-- The running slot with the commit of its word done, once (R92). -/
def State.atWord (s : State) : State :=
  if s.me.stamped then s else (s.commitDone s.cur).modMe fun x => { x with stamped := true }

/-- An instruction that commits before it acts: it waits for the slot's loads (R193), hands its buffer over and waits for
the last acknowledgement (R92); then the restart point stands at it and `k` runs. -/
def State.commitThen (s : State) (k : State → Ans) : Ans :=
  if s.loading s.cur || s.storing s.cur || s.me.mode != .none then .next s
  else if ¬ s.me.buf.isEmpty then .next (s.handOver s.cur s.me.buf.length .self)
  else k s.atWord

/-! Faults (R258, R320 to R323) -/

/-- The 32 bytes of a fault packet of slot `g` (R320). -/
def State.packet (s : State) (g : Nat) (f : FaultInfo) : W256 :=
  let x := s.slot g
  let c := coreOf g
  BitVec.ofNat 256 (f.cause.toNat + g % 4 * 2 ^ 8 + (if isSup c then 0 else c % 32) * 2 ^ 10 + clusterOf c * 2 ^ 15 + b2n x.through * 2 ^ 26 +
    x.pc.toNat * 2 ^ 32 + x.rstpc.toNat * 2 ^ 80 + f.addr.toNat * 2 ^ 128 + f.detail.toNat * 2 ^ 192)

/-- An agent outside every core (R304). -/
def outside : Nat := Config.allCores

/-- An 8-byte word, or 32 bytes, of context 0's global memory written by a die, with a release at DEVICE scope if asked; whether it was
written (R322). -/
def State.sysWrite (s : State) (d : Nat) (va n v : Nat) (rel : Bool) : State × Bool :=
  match s.global (32 * d) 0 (mkAddr 4 va) n .write 1 with
  | .ok (s, k) => (s.write k n v (if rel then [⟨[], .device, outside⟩] else []), true)
  | .bad s _ => (s, false)
  | .wait h => (s.ckWant h, false)

/-- The same read; none where it failed, met poison or must wait. -/
def State.sysRead (s : State) (d : Nat) (va n : Nat) : State × Option Nat :=
  match s.global (32 * d) 0 (mkAddr 4 va) n .read 0 with
  | .ok (s, k) => (s, if s.poisoned k n then none else some (s.nat k n))
  | .bad s _ => (s, none)
  | .wait h => (s.ckWant h, none)

/-- The mirror of slot `g` receives its packet and its fault count; no mirror belongs to an NSE (R323). -/
def State.mirror (s : State) (g : Nat) (pkt : W256) : State :=
  if g < Config.slots then (s.write (pageKey g 0x40) 32 pkt.toNat).write (pageKey g 0x60) 8 (s.slot g).faults.toNat else s

/-- A packet written to the die's ring: the entry, the head with a release, the mirror of slot `g`; whether it was written: not while
the ring is off, full or cannot be written, nor while the mirror's memory has yet to be streamed (R322, R323, R346). What it reads on
the way counts however it ends (R78, R84). -/
def State.ringWrite (s : State) (d g : Nat) (pkt : W256) : State × Bool :=
  let x := s.die d
  let base := fld x.fqbase.toNat 6 46 * 64
  let n := 2 ^ fld x.fqctl.toNat 8 5
  if ¬ bit x.fqctl.toNat 0 then (s, false) else
  if g < Config.slots ∧ s.ckHold (pageKey g 0x40) then (s.ckWant [pageKey g 0x40], false) else
  match s.sysRead d base 8 with
  | (s, none) => (s, false)
  | (s, some head) => match s.sysRead d (base + 8) 8 with
    | (s, none) => (s, false)
    | (s, some tail) =>
      if (head + 2 ^ 64 - tail) % 2 ^ 64 = n then (s, false) else
      match s.sysWrite d (base + 64 + 32 * (head % n)) 32 pkt.toNat false with
      | (s, false) => (s, false)
      | (s, true) => match s.sysWrite d base 8 (head + 1) true with
        | (s, false) => (s, false)
        | (s, true) => ((s.modDie d fun x => { x with fqsent := x.fqsent + 1 }).mirror g pkt, true)

/-- A packet that its ring has not taken: held in the die's queue of 64, or kept by its slot; an NSE's is always held by the die: DESIGN
CHOICE (R322, log entry 58). -/
def State.keepPacket (s : State) (d g : Nat) (pkt : W256) : State :=
  if (s.die d).fqheld.length < 64 || Config.slots ≤ g then s.modDie d fun x => { x with fqheld := x.fqheld ++ [(g, pkt)] }
  else s.modSlot g fun x => { x with packet := some pkt }

/-- A packet raised at die `d`: written at once where none waits before it, else kept (R322). -/
def State.sendPacket (s : State) (d g : Nat) (pkt : W256) : State :=
  if (s.die d).fqheld.isEmpty then
    match s.ringWrite d g pkt with
    | (s, true) => s
    | (s, false) => s.keepPacket d g pkt
  else s.keepPacket d g pkt

/-- A command of slot control ends with a status (R324). -/
def Slot.status (x : Slot) (st : BitVec 3) : Slot := { x with cmdStatus := st, busy := false, preempting := false }

/-- TAKING A FAULT: slot `g` freezes where its pc stands, its packet goes to the die's supervisor with the pc, the restart
point, the cause, the address and the detail, and the fault count rises; a step or pre-empt under way ends (R190, R258,
R320 to R323, R334, R335). What becomes of the segment is decided before, by the kind of fault. A TRAP, BRK or HALT that ends a
signature block has been executed: the block is still to be judged (R342). -/
def State.freeze (s : State) (g : Nat) (f : FaultInfo) : State :=
  let pkt := s.packet g f
  let s := s.trace g 7 (s.slot g).pc 0 (w64 f.cause.toNat) 0
  let s := s.modSlot g fun x =>
    let x := if x.preempting then x.status 4 else { x with busy := false }
    { x with state := .frozen, hold := .none, await := .none, mode := .none, lastCause := f.cause, faults := x.faults + 1,
             stepping := false, stepDone := false, begun := false, stamped := false, prevBlock := none,
             sig := if 0x0F ≤ f.cause.toNat ∧ f.cause.toNat ≤ 0x11 then x.sig.filter fun r => r.left == 0 else none, inspect := f.cause == 0x11 }
  s.sendPacket (dieOf (coreOf g)) g pkt

/-- A precise fault at issue of the running slot: pc at the word, segment kept (R258). -/
def State.precise (s : State) (cause : BitVec 8) (addr detail : W64) : Ans := .next (s.freeze s.cur ⟨cause, addr, detail⟩)

/-- ILLEGAL of word `w` (R24, R321). -/
def State.illegal (s : State) (w : W32) : Ans := s.precise 1 0 (BitVec.zeroExtend 64 w)

/-- The chains that the current segment issued are discarded, and with them the bindings it made and the items they have brought
(R119). -/
def State.dropChains (s : State) (g : Nat) : State :=
  let x := s.slot g
  let s := { s with chains := s.chains.filter fun c => ¬ (c.g == g && c.seg == x.seg) }
  s.modSlot g fun x => { x with q := (List.range 4).foldl (fun t k =>
    let r := t.get Stream.reset k
    if r.seg == x.seg && (match r.src with | some (.chain _) => true | _ => false) then t.set Stream.reset k { r with src := none, items := [], last := false } else t) x.q }

/-- The segment is abandoned: buffered entries and outstanding loads are dropped, its chains discarded, pc back at the
restart point (R93, R119, R258). -/
def State.abandon (s : State) (g : Nat) : State :=
  let s := s.dropChains g
  let s := { s with loads := s.loads.filter (fun l => l.g != g), out := s.out.filter (fun o => o.g != g), amos := s.amos.filter (fun a => a.g != g) }
  s.modSlot g fun x => { x with buf := [], pc := x.rstpc, await := .none, mode := .none, seg := x.seg + 1, begun := false, stamped := false, sig := none, prevBlock := none }

/-! The slot context (R331) -/

/-- GREC: the note in the detail layout of GUARD (R321). -/
def guardDetail (r : GuardRec) : Nat :=
  fld r.addr.toNat 23 11 + fld r.addr.toNat 18 5 * 2 ^ 11 + fld r.addr.toNat 3 4 * 2 ^ 16 + fld r.addr.toNat 0 18 * 2 ^ 20 +
    r.kind.toNat * 2 ^ 38 + r.count.toNat * 2 ^ 40

/-- The status word of a stream register; `mx` where a matrix command of its task has it for its skip list (R187). -/
def Stream.word (r : Stream) (mx : Bool) : Nat :=
  r.items.length + b2n r.src.isSome * 2 ^ 8 + (match r.src with | some (.cpys _) => 2 ^ 9 | _ => 0) + b2n r.fail * 2 ^ 10 + b2n mx * 2 ^ 11

/-- Whether a matrix command of slot `g`, which holds the task `task`, names stream register `q` as its skip list and has not completed:
one that this task pushed, or one pushed from this slot by a task that stands in no wait list. Which register an MPASS names is known
once the context it runs under is loaded: none while an MCTX stands before it in the queue (R187, R222; log entry 65). -/
def State.mxOf (s : State) (g task q : Nat) : Bool :=
  let c := s.core (coreOf g)
  match c.fmt with
  | none => false
  | some f => bit f.blk.toNat 23 && fld f.blk.toNat 24 2 == q && (c.mxQ.cmds.takeWhile fun k => k.op != 0x20).any fun k =>
      k.op == 0x22 && bit k.w.toNat 39 && (k.task == task || (k.g == g && ! c.waitList.any fun w => w.slot.task == k.task))

/-- TSTAT (R331). -/
def Slot.tstat (x : Slot) : Nat :=
  x.prio.toNat + b2n x.named * 2 ^ 4 + b2n x.through * 2 ^ 5 + x.feat.toNat * 2 ^ 8 + x.ctx.toNat * 2 ^ 40 + x.eclass.toNat * 2 ^ 56

/-- The fields of a slot context: offset, bytes, value (R331). -/
def Slot.fields (x : Slot) (chains : Nat) (mx : Nat → Bool) : List (Nat × Nat × Nat) :=
  (List.range 7).map (fun i => (8 * i, 8, (x.low.get 0 (i + 1)).toNat)) ++
  [(0x38, 8, x.pc.toNat), (0x40, 8, x.rstpc.toNat), (0x48, 8, x.wb.toNat + x.res.toNat * 128), (0x50, 8, x.fsp.toNat),
   (0x58, 8, x.fslim.toNat), (0x60, 8, x.holdlim.toNat), (0x68, 8, x.tstat), (0x70, 8, x.place.toNat), (0x78, 8, x.taskid.toNat),
   (0x80, 16, x.name.toNat),
   (0x90, 8, (List.range 4).foldl (fun a k => a + (x.st k).word (mx k) * 2 ^ (16 * k)) 0),
   (0x98, 8, match x.guard with | none => 0 | some r => guardDetail r), (0xA0, 8, match x.guard with | none => 0 | some r => r.addr.toNat),
   (0xA8, 8, x.prest.toNat), (0xB0, 8, x.paddr.toNat), (0xB8, 8, chains)] ++
  (List.range 8).map (fun i => (0xC0 + 4 * i, 4, (x.m.get 0 i).toNat)) ++ [(0xE0, 32, 0)] ++
  (List.range 16).map (fun i => (0x100 + 32 * i, 32, (x.v.get 0 i).toNat)) ++
  (List.range 128).map (fun i => (0x300 + 8 * i, 8, (x.win.get 0 i).toNat))

/-- The 2 KiB of a slot context as bytes, placed at `base` of a memory. -/
def Slot.save (x : Slot) (chains : Nat) (mx : Nat → Bool) (base : Nat) (m : Tab Byte) : Tab Byte :=
  (x.fields chains mx).foldl (fun m f => memPut m (base + f.1) f.2.1 f.2.2) m

/-- A table of `n` registers of `b` bytes from memory at `k`. -/
def tabFrom (w : Nat) (m : Tab Byte) (k b n : Nat) : Tab (BitVec w) :=
  (List.range n).foldl (fun t i => t.set 0 i (BitVec.ofNat w (memNat m (k + b * i) b))) []

/-- The slot with the context at `k` reloaded (R333). -/
def Slot.reload (x : Slot) (m : Tab Byte) (k : Nat) : Slot :=
  let w := fun o => memNat m (k + o) 8
  { x with
    low := (List.range 7).foldl (fun t i => t.set 0 (i + 1) (w64 (memNat m (k + 8 * i) 8))) []
    pc := BitVec.ofNat 48 (w 0x38), rstpc := BitVec.ofNat 48 (w 0x40), wb := BitVec.ofNat 7 (w 0x48), res := BitVec.ofNat 7 (w 0x48 / 128)
    fsp := w64 (w 0x50), fslim := w64 (w 0x58), holdlim := w64 (w 0x60)
    prio := BitVec.ofNat 4 (w 0x68), named := bit (w 0x68) 4, through := bit (w 0x68) 5, feat := BitVec.ofNat 32 (w 0x68 / 2 ^ 8)
    ctx := BitVec.ofNat 16 (w 0x68 / 2 ^ 40), eclass := BitVec.ofNat 4 (w 0x68 / 2 ^ 56), place := BitVec.ofNat 12 (w 0x70)
    taskid := w64 (w 0x78), name := BitVec.ofNat 128 (memNat m (k + 0x80) 16)
    guard := if w 0xA0 = 0 then none else some ⟨w64 (w 0xA0), BitVec.ofNat 2 (w 0x98 / 2 ^ 38), BitVec.ofNat 8 (w 0x98 / 2 ^ 40)⟩
    prest := BitVec.ofNat 2 (w 0xA8), paddr := w64 (w 0xB0)
    m := tabFrom 32 m (k + 0xC0) 4 8, v := tabFrom 256 m (k + 0x100) 32 16, win := tabFrom 64 m (k + 0x300) 8 128 }

/-- The key of slot `g`'s context area (R122). -/
def ctxKey (g : Nat) : Nat := localKey (coreOf g) (0x25000 + 0x800 * (g % 4))
/-- The chains a slot has outstanding (R119). -/
def State.chainsOf (s : State) (g : Nat) : Nat := (s.chains.filter fun c => c.g == g).length

/-- The context saved into the slot's area; the slot becomes PREEMPTED, a step command over (R259, R330). -/
def State.saveContext (s : State) (g : Nat) : State :=
  let x := s.slot g
  let s := { s with mem := x.save (s.chainsOf g) (s.mxOf g x.task) (ctxKey g) s.mem }
  s.modSlot g fun x => { x with state := .preempted, hold := .none, await := .none, mode := .none, stepping := false, stepDone := false, begun := false, stamped := false, sig := none, prevBlock := none }

/-- An eviction for paging: the context with pc at the restart point is saved, the supervisor is sent a PAGING packet
(R259). -/
def State.evict (s : State) (g : Nat) (va : W64) (lvl : Nat) : State :=
  let f : FaultInfo := ⟨5, va, w64 (lvl * 16)⟩
  let pkt := s.packet g f
  let s := s.trace g 7 (s.slot g).pc 0 5 0
  let s := s.modSlot g fun x =>
    let x := if x.preempting then x.status 4 else { x with busy := false }
    { x with lastCause := 5, faults := x.faults + 1 }
  (s.saveContext g).sendPacket (dieOf (coreOf g)) g pkt

/-- A fault that would evict slot `g` waits: its context lies in memory that has not been streamed (R259, R346). -/
def State.evictWaits (s : State) (g : Nat) (f : FaultInfo) : Bool :=
  f.cause == 4 && fld f.detail.toNat 0 4 == 3 && ! (s.slot g).npre && ! (s.slot g).through && s.ckHold (ctxKey g)

/-- A failed save or restore, or a spill or fill, at a word that has committed: NOTPRESENT evicts, anything else freezes,
pc and restart point at the word (R178, R254). -/
def State.wordFault (s : State) (g : Nat) (f : FaultInfo) : State :=
  if f.cause = 4 ∧ fld f.detail.toNat 0 4 = 3 ∧ ¬ (s.slot g).npre then s.evict g f.addr (fld f.detail.toNat 4 3) else s.freeze g f

/-- POISON on the segment: restarted at once, frozen the third time on one poison (R258, R340). -/
def State.poisonFault (s : State) (g : Nat) (ea : W64) : State :=
  let line := lineOf ea
  let s := s.abandon g
  let x := s.slot g
  let n := if x.paddr = line ∧ x.prest ≠ 0 then x.prest.toNat + 1 else 1
  if n < 3 then
    (s.modSlot g fun x => let x := if x.preempting then x.status 4 else x; { x with prest := BitVec.ofNat 2 n, paddr := line, psince := true, stepDone := false }).run g
  else (s.modSlot g fun x => { x with psince := true }).freeze g ⟨7, line, 2⟩

/-- A fault that a target returned for the slot's load, store, atomic or fetch made at `ipc` (R93, R258 to R260): WTFAULT in
write-through mode; POISON; a paging eviction; else the slot freezes at its restart point. -/
def State.targetFault (s : State) (g : Nat) (f : FaultInfo) (ipc : Pc) : State :=
  let x := s.slot g
  if x.through then
    let s := { s with loads := s.loads.filter (fun l => l.g != g), out := s.out.filter (fun o => o.g != g) }
    (s.modSlot g fun x => { x with pc := ipc, buf := [] }).freeze g ⟨0x0D, f.addr, w64 (f.cause.toNat + fld f.detail.toNat 0 4 * 256)⟩
  else if f.cause = 7 then s.poisonFault g f.addr
  else (s.abandon g).wordFault g f

/-! Ways back (R325, R333) -/

/-- A PREEMPTED slot's context and its spilled items back in place, an item that has come since after them; the items lie where the
pre-empt command found the buffer's page (R332, R333). -/
def State.restoreContext (s : State) (g : Nat) : State :=
  s.modSlot g fun x =>
    let x := x.reload s.mem (ctxKey g)
    match x.spilled, x.spillAt with
    | true, some k =>
      let back := fun (x : Slot) (q : Nat) => x.modSt q fun r =>
        { r with items := (List.range (Min.min (s.nat (k + 0x200 + 8 * q) 8) 16)).map (fun i => w64 (s.nat (k + 128 * q + 8 * i) 8)) ++ r.items }
      { (List.range 4).foldl back x with spilled := false, spillAt := none }
    | _, _ => x
/-- Whether what a restore of slot `g` reads is poisoned: its context or its spilled items (R339). -/
def State.restorePoisoned (s : State) (g : Nat) : Option W64 :=
  if s.poisoned (ctxKey g) 0x700 then some (mkAddr 2 (ctxKey g)) else
  match (s.slot g).spilled, (s.slot g).spillAt with
  | true, some k => if s.poisoned k 0x220 then some (w64 (fld (s.slot g).spillbase.toNat 10 42 * 1024)) else none
  | _, _ => none

/-- The slot runs again from `pc`: its descriptors are loaded anew (R276), no block is checked (R342). -/
def State.runAgain (s : State) (g : Nat) : State :=
  (s.modSlot g fun x => { x with descs := s.protSet (clusterOf (coreOf g)) x.ctx, sig := none, prevBlock := none, inspect := false }).run g

/-- RETURN: resume (or restart, which discards the segment, leaves write-through mode and goes to RSTPC) of a FROZEN or
PREEMPTED slot; the status of the command (R325). A restore that reads poison freezes the slot, as one at a dispatch does: DEDUCED
from R254 and R339, R333 names no fault (log entry 66). -/
def State.comeBack (s : State) (g : Nat) (restart : Bool) : State :=
  let x := s.slot g
  if (s.core (coreOf g)).quarantined then s.modSlot g (·.status 1) else
  match x.state with
  | .frozen =>
    if x.inspect then s.modSlot g (·.status 5) else
    let s := if restart then s.modSlot g fun x => { x with buf := [], through := false, pc := x.rstpc } else s
    (s.runAgain g).modSlot g (·.status 0)
  | .preempted =>
    let bad := s.restorePoisoned g
    let s := s.restoreContext g
    let s := if restart then s.modSlot g fun x => { x with pc := x.rstpc } else s
    match bad with
    | some ea => (s.freeze g ⟨7, lineOf ea, 0⟩).modSlot g (·.status 4)
    | none => (s.runAgain g).modSlot g (·.status 0)
  | _ => s.modSlot g (·.status 1)

end Sys2Proof.Machine
end

