-- ==== Sys2Proof/Machine/Operands.lean ====
section
/-! DEFINITION. The operand forms: elements and governing masks of the vector words, the twist, offsets of control words. -/
namespace Sys2Proof.Machine

/-- Width of an element in bits (R140). -/
def etWidth : Et → Nat
  | .i8 => 8
  | .i16 | .fp16 | .bf16 => 16
  | .i32 | .u32 | .fp32 => 32
/-- Elements of a register (R140). -/
def etCount (et : Et) : Nat := 256 / etWidth et
/-- Whether an integer type is signed (R140, R200). -/
def etSigned : Et → Bool
  | .i8 | .i16 | .i32 => true
  | _ => false

/-- Element `k` of width `w` (R140). -/
def elem (v : W256) (w k : Nat) : Nat := fld v.toNat (w * k) w

/-- The first `n` elements of width `w` packed from a function. -/
def packN (w : Nat) (f : Nat → Nat) : Nat → Nat
  | 0 => 0
  | n + 1 => packN w f n + f n % 2 ^ w * 2 ^ (w * n)

/-- A register of elements of width `w`. -/
def pack (w : Nat) (f : Nat → Nat) : W256 := BitVec.ofNat 256 (packN w f (256 / w))

/-- The elements that the mask governs take `f`; the others stay (R21, R196). -/
def govern (w : Nat) (mask : W32) (old : W256) (f : Nat → Nat) : W256 :=
  pack w fun k => if bit mask.toNat k then f k else elem old w k

/-- The element of vb that position `i` reads under a twist (R20). -/
def twistIdx (t : BitVec 12) (i : Nat) : Nat :=
  let cls := fld t.toNat 10 2
  let seg := fld t.toNat 7 3
  let dist := fld t.toNat 0 7
  let len := if seg = 0 then 8 else 2 ^ seg
  let b := i - i % len
  let j := i % len
  if cls = 0 then i else if cls = 1 then b + (j + dist) % len else if cls = 2 then b + (j ^^^ dist) else b + dist

/-- vb after the twist (R20). -/
def twisted (v : W256) (t : BitVec 12) : W256 := pack 32 fun i => elem v 32 (twistIdx t i)

/-- An element as an integer, signed as its type (R140). -/
def etInt (et : Et) (x : Nat) : Int :=
  if etSigned et ∧ 2 ^ (etWidth et - 1) ≤ x then (x : Int) - 2 ^ etWidth et else x
/-- An integer modulo 2^w. -/
def wrapInt (w : Nat) (x : Int) : Nat := (x % 2 ^ w).toNat
/-- The smallest and the largest value of an integer type (R140). -/
def etMin (et : Et) : Int := if etSigned et then -2 ^ (etWidth et - 1) else 0
def etMax (et : Et) : Int := if etSigned et then 2 ^ (etWidth et - 1) - 1 else 2 ^ etWidth et - 1
/-- clamp(x, lo, hi) (R13). -/
def clampInt (x lo hi : Int) : Int := if x < lo then lo else if hi < x then hi else x

/-- The target of an offset of `n` bits, in words, relative to `pc` (R19). -/
def target (pc : Pc) (n off : Nat) : Pc := pc + BitVec.ofNat 48 (4 * (sx n off).toNat)

end Sys2Proof.Machine
end

