-- ==== Sys2Proof/Machine/Flags.lean ====
section
/-! DEFINITION. The part keeps no flags (R180, R194, R198): here stand the results that other machines keep in flags, the
comparisons, and the floating point that writes no status: exact values, and the one rounding of R141 and R198. -/
namespace Sys2Proof.Machine

/-! Floating formats (R138, R140) -/

/-- A binary format: mantissa bits, exponent bits, bias. -/
structure Fmt where
  man : Nat
  exp : Nat
  bias : Nat
  deriving DecidableEq, Repr

/-- The format of a floating lane type. -/
def fmtOf : Et → Fmt
  | .fp16 => ⟨10, 5, 15⟩
  | .bf16 => ⟨7, 8, 127⟩
  | _ => ⟨23, 8, 127⟩
def fp32 : Fmt := ⟨23, 8, 127⟩

/-- An exact value: m · 2^e with a sign, an infinity, or NaN. -/
inductive Fl where
  | nan
  | inf (neg : Bool)
  | fin (neg : Bool) (m : Nat) (e : Int)
  deriving DecidableEq, Repr

/-- The value a pattern encodes, all-ones exponents as infinity and NaN (R138). -/
def flDec (f : Fmt) (x : Nat) : Fl :=
  let m := fld x 0 f.man
  let e := fld x f.man f.exp
  let neg := bit x (f.man + f.exp)
  if e = 2 ^ f.exp - 1 then (if m = 0 then .inf neg else .nan)
  else if e = 0 then .fin neg m (1 - (f.bias : Int) - f.man)
  else .fin neg (2 ^ f.man + m) ((e : Int) - f.bias - f.man)

/-- The canonical NaN of a format (R140). -/
def flNan (f : Fmt) : Nat := (2 ^ f.exp - 1) * 2 ^ f.man + 2 ^ (f.man - 1)
/-- An infinity; a signed zero; the largest finite value. -/
def flInf (f : Fmt) (neg : Bool) : Nat := b2n neg * 2 ^ (f.man + f.exp) + (2 ^ f.exp - 1) * 2 ^ f.man
def flZero (f : Fmt) (neg : Bool) : Nat := b2n neg * 2 ^ (f.man + f.exp)
def flBig (f : Fmt) (neg : Bool) : Nat := b2n neg * 2 ^ (f.man + f.exp) + (2 ^ f.exp - 1) * 2 ^ f.man - 1

/-- Whether a truncated quotient goes one up: `rem` of `unit` is left, `odd` its last bit; modes 0 RNE, 1 RZ, 2 RU, 3 RD
(R141). -/
def roundUp (mode : Nat) (neg odd : Bool) (rem unit : Nat) : Bool :=
  match mode with
  | 0 => decide (unit < 2 * rem) || (decide (2 * rem = unit) && odd)
  | 1 => false
  | 2 => decide (rem ≠ 0) && !neg
  | _ => decide (rem ≠ 0) && neg

/-- m · 2^e rounded by a mode into multiples of 2^q. -/
def roundTo (mode : Nat) (neg : Bool) (m : Nat) (e q : Int) : Nat :=
  if q ≤ e then m * 2 ^ (e - q).toNat
  else
    let u := 2 ^ (q - e).toNat
    m / u + b2n (roundUp mode neg (m / u % 2 == 1) (m % u) u)

/-- cvt of an exact value into a floating format: rounded once, subnormals kept (R141). Whether a magnitude lies beyond the largest finite
value is decided after rounding, as in IEEE 754: DESIGN CHOICE, R141's row can be read of the value before it is rounded, which differs for
RNE within half a step above that value (log entry 91). -/
def flEnc (f : Fmt) (mode : Nat) : Fl → Nat
  | .nan => flNan f
  | .inf n => flInf f n
  | .fin n m e =>
    if m = 0 then flZero f n else
    let q := Max.max ((Nat.log2 m : Int) + e - f.man) (1 - (f.bias : Int) - f.man)
    let bits := ((q + f.man + f.bias - 1) * 2 ^ f.man).toNat + roundTo mode n m e q
    if (2 ^ f.exp - 1) * 2 ^ f.man ≤ bits then
      (if mode = 0 ∨ (mode = 2 ∧ ¬ n) ∨ (mode = 3 ∧ n) then flInf f n else flBig f n)
    else flZero f n + bits

/-- cvt of an exact value into an integer of [lo, hi] (R141). -/
def flToInt (mode : Nat) (lo hi : Int) : Fl → Int
  | .nan => 0
  | .inf n => if n then lo else hi
  | .fin n m e =>
    let k : Int := roundTo mode n m e 0
    clampInt (if n then -k else k) lo hi

/-- An exact integer. -/
def flOfInt (x : Int) : Fl := .fin (decide (x < 0)) x.natAbs 0

def flNeg : Fl → Fl
  | .nan => .nan
  | .inf n => .inf (!n)
  | .fin n m e => .fin (!n) m e
def flAbs : Fl → Fl
  | .nan => .nan
  | .inf _ => .inf false
  | .fin _ m e => .fin false m e

/-- The exact sum; an exact zero of opposite signs is +0 (R198, R199). -/
def flAdd : Fl → Fl → Fl
  | .nan, _ => .nan
  | _, .nan => .nan
  | .inf a, .inf b => if a = b then .inf a else .nan
  | .inf a, _ => .inf a
  | _, .inf b => .inf b
  | .fin a m e, .fin b m' e' =>
    let q := Min.min e e'
    let x : Int := m * 2 ^ (e - q).toNat
    let y : Int := m' * 2 ^ (e' - q).toNat
    let z := (if a then -x else x) + (if b then -y else y)
    .fin (if z = 0 then a && b else decide (z < 0)) z.natAbs q

/-- The exact product (R198, R199). -/
def flMul : Fl → Fl → Fl
  | .nan, _ => .nan
  | _, .nan => .nan
  | .inf a, .inf b => .inf (a ^^ b)
  | .inf a, .fin b m _ => if m = 0 then .nan else .inf (a ^^ b)
  | .fin a m _, .inf b => if m = 0 then .nan else .inf (a ^^ b)
  | .fin a m e, .fin b m' e' => .fin (a ^^ b) (m * m') (e + e')

/-- The quotient to enough bits that one rounding of it is the rounding of the exact one: an odd last bit stands for what
is left (R198, R199). -/
def flDiv : Fl → Fl → Fl
  | .nan, _ => .nan
  | _, .nan => .nan
  | .inf _, .inf _ => .nan
  | .inf a, .fin b _ _ => .inf (a ^^ b)
  | .fin a _ _, .inf b => .fin (a ^^ b) 0 0
  | .fin a m e, .fin b m' e' =>
    if m' = 0 then (if m = 0 then .nan else .inf (a ^^ b)) else
    if m = 0 then .fin (a ^^ b) 0 0 else
    let k := m * 2 ^ 64
    .fin (a ^^ b) (2 * (k / m') + b2n (k % m' != 0)) (e - e' - 65)

/-- The integer square root, bit by bit. -/
def isqrt (n : Nat) : Nat → Nat → Nat
  | 0, r => r
  | i + 1, r => isqrt n i (if (r + 2 ^ i) * (r + 2 ^ i) ≤ n then r + 2 ^ i else r)

/-- The square root, to enough bits for one rounding (R199). -/
def flSqrt : Fl → Fl
  | .nan => .nan
  | .inf n => if n then .nan else .inf false
  | .fin n m e =>
    if m = 0 then .fin n 0 0 else
    if n then .nan else
    let odd := (e % 2).toNat
    let k := m * 2 ^ (64 + odd)
    let r := isqrt k 64 0
    .fin false (2 * r + b2n (r * r != k)) ((e - odd - 64) / 2 - 1)

/-- The order of two values that are no NaN, −0 below +0 if `zeros` (R199, R202). -/
def flLt (zeros : Bool) : Fl → Fl → Bool
  | .fin a m e, .fin b m' e' =>
    let q := Min.min e e'
    let x : Int := m * 2 ^ (e - q).toNat
    let y : Int := m' * 2 ^ (e' - q).toNat
    let x := if a then -x else x
    let y := if b then -y else y
    decide (x < y) || (zeros && decide (x = 0 ∧ y = 0) && a && !b)
  | .inf a, .inf b => a && !b
  | .inf a, .fin _ _ _ => a
  | .fin _ _ _, .inf b => !b
  | _, _ => false
def flEq (x y : Fl) : Bool := decide (x ≠ .nan ∧ y ≠ .nan) && !flLt false x y && !flLt false y x

/-- Minimum and maximum of IEEE 754-2019 (R199). -/
def flMin (x y : Fl) : Fl := if x = .nan ∨ y = .nan then .nan else if flLt true y x then y else x
def flMax (x y : Fl) : Fl := if x = .nan ∨ y = .nan then .nan else if flLt true x y then y else x

/-- A result of a floating word in its type: rounded to nearest even (R198). -/
def flRes (et : Et) (x : Fl) : Nat := flEnc (fmtOf et) 0 x
/-- An element of a floating type as a value. -/
def flElem (et : Et) (x : Nat) : Fl := flDec (fmtOf et) x

/-! Comparisons -/

/-- 1 for true, 0 for false, as a register (R180). -/
def truth (b : Bool) : W64 := if b then 1 else 0

/-- A condition of VCMP on two elements (R202). -/
def vcond (cond : Nat) (et : Et) (x y : Nat) : Bool :=
  if et.isFloat then
    let a := flElem et x
    let b := flElem et y
    match cond with
    | 0 => flEq a b
    | 1 => !flEq a b
    | 2 => flLt false a b
    | 3 => flLt false a b || flEq a b
    | 4 => flLt false b a
    | 5 => flLt false b a || flEq a b
    | _ => decide (a = .nan ∨ b = .nan)
  else
    let a := etInt et x
    let b := etInt et y
    match cond with
    | 0 => x == y
    | 1 => x != y
    | 2 => decide (a < b)
    | 3 => decide (a ≤ b)
    | 4 => decide (b < a)
    | 5 => decide (b ≤ a)
    | 8 => decide (x < y)
    | 9 => decide (x ≤ y)
    | 10 => decide (y < x)
    | _ => decide (y ≤ x)

end Sys2Proof.Machine
end

