-- ==== Sys2Proof/Machine/Access.lean ====
section
/-! DEFINITION. Accesses performed at once at their target, for spills and fills, saves, blocks and names that a word reads,
and engine operands: rights or translation, then the flat key of the bytes; peers and their bindings (R100, R102). -/
namespace Sys2Proof.Machine

/-! Order of one cluster's requests to one location (R82, R92, R106) -/

/-- What a request in flight is known by: number, cluster, context, home, address. -/
structure Item where
  id : Nat
  cluster : Nat
  ctx : BitVec 16
  home : Nat
  ea : W64
  deriving DecidableEq, Repr

/-- The locations of an outbound entry that are still to be accessed: its line, and the flag of a flagged store. -/
def OutEntry.items (o : OutEntry) : List Item :=
  if o.refused.isSome then [] else
  let line : Item := ⟨o.id, o.cluster, o.ctx, o.home, o.e.line⟩
  match o.e.kind with
  | .fst flag _ _ => (if o.half then [] else [line]) ++ [{ line with ea := flag }]
  | _ => [line]

/-- Every request in flight. -/
def State.items (s : State) : List Item :=
  s.out.flatMap (·.items) ++
  (s.loads.filter fun l => l.reply.isNone).map (fun l => (⟨l.id, l.cluster, l.ctx, l.home, l.addr⟩ : Item)) ++
  (s.amos.filter fun a => a.reply.isNone).map fun a => ⟨a.id, a.cluster, a.ctx, a.home, a.addr⟩

/-- Whether two requests may reach one location: the same line, for global addresses under any page mapping at one home or in
one region. -/
def sameLine (a b : Item) : Bool :=
  tagOf a.ea == tagOf b.ea &&
  if tagOf a.ea = 4 then
    fld a.ea.toNat 6 10 == fld b.ea.toNat 6 10 && (a.home == b.home || (a.ctx == b.ctx && fld a.ea.toNat 21 31 == fld b.ea.toNat 21 31))
  else lineOf a.ea == lineOf b.ea

/-- A request that left after a correction for its region reached its cluster waits for those that left before (R82). -/
def State.corrects (s : State) (i : Item) : Bool :=
  (s.cluster i.cluster).fixes.any fun f => f.1.ctx == i.ctx && tagOf i.ea == 4 && f.1.region == fld i.ea.toNat 21 31 && decide (f.2 ≤ i.id) &&
    s.items.any fun o => decide (o.id < f.2) && o.cluster == i.cluster && o.ctx == i.ctx && tagOf o.ea == 4 && fld o.ea.toNat 21 31 == f.1.region

/-- No older request of the same cluster to the same location is in flight, and none that a correction makes it wait for (R82); a request
to a peer that left after its route changed waits for those that took the old one (R106; log entry 8). -/
def State.first (s : State) (i : Item) : Bool :=
  s.items.all (fun o => ! (decide (o.id < i.id) && o.cluster == i.cluster && sameLine o i)) && ! s.corrects i &&
    (tagOf i.ea != 8 || s.links.all fun l => l.2.oldRoute.contains i.id || l.2.oldRoute.all fun n => s.items.all fun o => o.id != n)

/-- A request made now. -/
def State.nowItem (s : State) (cl : Nat) (ctx : BitVec 16) (ea : W64) : Item :=
  ⟨s.nextId, cl, ctx, match (s.regionHome cl ctx (fld ea.toNat 0 52)).2 with | .ok h => h | .error _ => Config.dies, ea⟩

/-! What a cluster sees of its outbound queue (R92, R309) -/

/-- What those who read an entry in the queue learn: what its write carries, the write itself among what it releases (R312, R313). -/
def OutEntry.shows (o : OutEntry) : List RelInfo :=
  o.carries.map fun r => if r.scope = .none then r else { r with obs := o.id :: r.obs }

/-- What entries of the cluster's outbound queue hold for the `n` bytes at `ea` under a context, newest last: value, byte mask,
the writes read and what they carry (R92, R309, R313). Only global and system lines are seen there, the data of a flagged store until it
is performed, and a release's write, but by its own slot `own`, once what it covers is visible (R314; log entry 80). -/
def State.queued (s : State) (own : Option Nat) (cl : Nat) (ctx : BitVec 16) (ea : W64) (n : Nat) : Nat × Nat × List Nat × List RelInfo :=
  if tagOf ea ≠ 4 ∧ tagOf ea ≠ 8 then (0, 0, [], []) else
  s.out.foldl (fun (v, m, ids, ris) o =>
    let mk := fld o.e.mask.toNat (inLine ea) n
    if o.cluster == cl && o.ctx == ctx && o.e.line == lineOf ea && mk != 0 && ! o.half && (match o.e.kind with | .amo .. => false | _ => true) &&
        (own == some o.g || s.releasable o) then
      (overlay n v (fld o.e.data.toNat (8 * inLine ea) (8 * n)) mk, m ||| mk, ids ++ [o.id], ris ++ o.shows)
    else (v, m, ids, ris)) (0, 0, [], [])

/-- The bytes at `ea` where the cluster's queue holds them all, with the writes read and what they carry (R309). -/
def State.look (s : State) (own : Option Nat) (cl : Nat) (ctx : BitVec 16) (ea : W64) (n : Nat) : Option (Nat × List Nat × List RelInfo) :=
  let (v, m, ids, ris) := s.queued own cl ctx ea n
  if n ≠ 0 ∧ m = 2 ^ n - 1 then some (v, ids, ris) else none

/-! Peer modules (R100, R102) -/

/-- The system table that access number `id` uses at a die: the one of before the first write that it was begun before (R361). -/
def Die.tableOf (x : Die) (id : Nat) : List (BitVec 16) := ((x.oldTables.find? fun t => decide (id < t.1)).map (·.2)).getD x.modules
/-- Whether access number `id` reaches a module of the system from a die: listed, and some link up (R100, R361). -/
def State.reachable (s : State) (d id : Nat) (module : Nat) : Bool :=
  ((s.die d).tableOf id).any (fun m => m.toNat == module) && s.links.any fun l => l.2.up

/-- Whether core `c`'s address `ea` lies in another module that the die knows to be absent: it has read the system table, which does not
list it (R100). What is known before the table is read is not said: DESIGN CHOICE, nothing (log entry 64). -/
def State.absent (s : State) (c : Nat) (ea : W64) : Bool :=
  let x := s.die (dieOf c)
  tagOf ea == 8 && fld ea.toNat 44 16 != s.durable.module.toNat && x.systab != 0 && ! x.modules.any fun m => m.toNat == fld ea.toNat 44 16

/-- The binding of (ctx, module, region), if the die holds one (R102). -/
def State.binding (s : State) (ctx : BitVec 16) (module region : Nat) : Option Binding :=
  s.bindings.find? fun b => b.ctx == ctx && b.module.toNat == module && b.region == region
/-- The bindings with that one changed. -/
def State.modBinding (s : State) (ctx : BitVec 16) (module region : Nat) (f : Binding → Binding) : State :=
  { s with bindings := s.bindings.map fun b => if b.ctx == ctx && b.module.toNat == module && b.region == region then f b else b }

/-- A 64-byte line of a peer's memory as it stands there: free values (log entry 1). -/
def State.fillPeer (s : State) (key : Nat) : State :=
  (List.range 8).foldl (fun s i => let (v, s) := s.free; s.put (key / 64 * 64 + 8 * i) 8 v.toNat) { s with poison := s.poison.set 0 (key / 64) 0 }

/-- What a peer answers is the peer's: 0, 7 and 9 up perform it, 7 on poisoned data, 1 to 6 are the kinds of R76, 8 is PERM. -/
def peerFault (ea : W64) (kind : Nat) (o : BitVec 8) : Option FaultInfo :=
  let k := o.toNat % 16
  if k = 0 ∨ k = 7 ∨ 8 < k then none
  else if k = 8 then some (permFault ea kind true)
  else some (xlateFault ea k (o.toNat / 16 % 5))
/-- The line as the peer answers, poisoned or not (R100, R157, R340). -/
def State.peerLine (s : State) (key : Nat) (o : BitVec 8) : State :=
  let s := s.fillPeer key
  if o.toNat % 16 = 7 then s.mark key else s

/-- Access number `id` to another module, performed with the peer's answer `o`: through the binding if one is held, else at the peer
(R100, R102). The key is that of the peer cache, whose unlisted lines the peer fills. -/
def State.atPeer (s : State) (d id : Nat) (ctx : BitVec 16) (ea : W64) (kind : Kind) (o : BitVec 8) : Got (State × Nat) :=
  let module := fld ea.toNat 44 16
  let va := fld ea.toNat 0 44
  let key := peerKey ctx.toNat module va
  let fk := match kind with | .write => 1 | .rmw => 2 | .fetch => 3 | .read => 0
  if ¬ s.reachable d id module then .bad s (permFault ea fk true) else
  match s.binding ctx module (va / 2 ^ 21) with
  | some b =>
    if ¬ b.held then .bad s ⟨6, ea, w64 (fk + 256)⟩
    else if b.lines.contains (va / 64) then
      .ok (if kindWrites kind then s.modBinding ctx module (va / 2 ^ 21) fun b => { b with dirty := union b.dirty [va / 64] } else s, key)
    else match peerFault ea fk o with
      | some f => .bad s f
      | none =>
        let s := s.peerLine key o
        .ok (s.modBinding ctx module (va / 2 ^ 21) fun b =>
          { b with lines := b.lines ++ [va / 64], dirty := if kindWrites kind then union b.dirty [va / 64] else b.dirty }, key)
  | none => match peerFault ea fk o with
    | some f => .bad s f
    | none => .ok (s.peerLine key o, key)

/-! The weight store (R132 to R135) -/

/-- Cycles into a die's refresh period (R133). -/
def State.wsPhase (s : State) (d : Nat) : Nat := (s.cycle + 48000000 - (s.die d).wsBase % 48000000) % 48000000
/-- Whether the bank group of an offset is refreshed now (R135). -/
def State.refreshing (s : State) (d off : Nat) : Bool :=
  let p := s.wsPhase d
  let g := fld off 25 4
  decide (3000000 * g ≤ p ∧ p < 3000000 * g + 30000)
/-- A write of LOAD waits to take effect: reads issued from now on end with PERM (R134). -/
def State.wsClosing (s : State) (d : Nat) : Bool := match (s.die d).wsWant with | some v => ! bit v.toNat 0 | none => false
/-- Rights of a context to read a die's weight store in its state (R134). -/
def State.wsReadable (s : State) (d : Nat) (ctx : BitVec 16) (desc : Tab (BitVec 128)) (ea : W64) (n : Nat) : Bool :=
  (s.die d).wsRead && (s.die d).wsCtx == ctx && granted desc 0 ea n

/-- Whether a holder in a weight store's list still asks: a load, an engine queue or a chain. -/
def State.wsAsks (s : State) (who : Nat) : Bool :=
  if who < 2 ^ 60 then s.loads.any fun l => l.id == who && l.reply.isNone
  else if who < 2 ^ 61 then ! (s.queue ((who - 2 ^ 60) / 2) (if who % 2 = 0 then .copy else .matrix)).cmds.isEmpty
  else s.chains.any fun h => h.id == who - 2 ^ 61 && h.result.isNone
/-- An engine of core `c`, and a chain, as holders. -/
def wsEngine (c : Nat) (eng : Eng) : Nat := 2 ^ 60 + 2 * c + (if eng = .copy then 0 else 1)
def wsChain (n : Nat) : Nat := 2 ^ 61 + n
/-- Whether an access of `who` at an offset may be performed: its group is not in its window, and none that arrived there before it is
still held (R135). -/
def State.wsFree (s : State) (d off who : Nat) : Bool :=
  ! s.refreshing d off && match (s.die d).wsHeld.filter fun h => h.2.1 == fld off 25 4 && s.wsAsks h.1 with
    | [] => true
    | h :: _ => h.1 == who

/-- An access that reaches a group in its window is held there from now on (R135). -/
def State.wsHold (s : State) (d off who : Nat) : State :=
  if ! s.refreshing d off || (s.die d).wsHeld.any fun h => h.1 == who then s else s.modDie d fun x => { x with wsHeld := x.wsHeld ++ [(who, fld off 25 4, s.cycle)] }
/-- A holder whose access ends without being performed leaves the lists (R135). -/
def State.wsDrop (s : State) (who : Nat) : State :=
  s.dies.foldl (fun s e => if e.2.wsHeld.any fun h => h.1 == who then s.modDie e.1 fun x => { x with wsHeld := x.wsHeld.filter fun h => h.1 != who } else s) s
/-- Whether `who` is held at die `d`'s weight store: it has reached its group, and a write of LOAD lets it be performed (R134, R135). -/
def State.wsHolds (s : State) (d who : Nat) : Bool := (s.die d).wsHeld.any fun h => h.1 == who
/-- An access that was held is performed: a stall, of the cycles up to its window's end (R133, R135). -/
def State.wsDone (s : State) (d who : Nat) : State :=
  match (s.die d).wsHeld.find? fun h => h.1 == who with
  | none => s
  | some (_, g, since) =>
    let late := (s.wsPhase d + 48000000 - (3000000 * g + 30000)) % 48000000
    s.modDie d fun x => { x with
      wsHeld := x.wsHeld.filter fun h => h.1 != who
      wsStalls := x.wsStalls + 1, wsStallCyc := x.wsStallCyc + w64 (s.cycle - since - late) }
/-- The state as it was, with what has come to be held (R135). -/
def State.keepHeld (s t : State) : State :=
  t.dies.foldl (fun s e =>
    let new := e.2.wsHeld.filter fun h => ! (s.die e.1).wsHeld.any fun k => k.1 == h.1
    if new.isEmpty then s else s.modDie e.1 fun x => { x with wsHeld := x.wsHeld ++ new }) s

/-! One access -/

/-- An access of slot `g`, or of an engine in its place, under a context and descriptors, at a checked address: the flat key of its
bytes. One to global or system memory waits for older requests of its cluster to the location. `type` is the sampling type (R85).
Tags 0x3 and 0xF are no operands here (R154). -/
def State.access (s : State) (g : Nat) (ctx : BitVec 16) (desc : Tab (BitVec 128)) (ea : W64) (n : Nat) (kind : Kind) (type : Nat) :
    Got (State × Nat) :=
  let c := coreOf g
  let fk := match kind with | .write => 1 | .rmw => 2 | .fetch => 3 | .read => 0
  if ¬ addrOk (isSup c) ea then .bad s (permFault ea fk false) else
  let a := s.canon c ea
  match tagOf a with
  | 2 =>
    let need := match kind with | .write => 1 | .rmw => 2 | _ => 0
    if ¬ s.localOk g desc need a n then .bad s (permFault ea fk false)
    else if kindWrites kind && s.ckHold (lKey a) then .wait [lKey a]
    else .ok (s, lKey a)
  | 4 => if s.first (s.nowItem (clusterOf c) ctx a) then s.global (clusterOf c) ctx a n kind type else .wait []
  | 5 =>
    let off := fld a.toNat 0 29
    if kindWrites kind || ! s.wsReadable (dieOf c) ctx desc a n then .bad s (permFault ea fk false)
    else if s.refreshing (dieOf c) off then .wait []
    else .ok (s, wsKey (dieOf c) off)
  | 8 =>
    if ¬ s.first (s.nowItem (clusterOf c) ctx a) then .wait [] else
    let (v, s) := s.free
    s.atPeer (dieOf c) s.nextId ctx a kind (BitVec.ofNat 8 v.toNat)
  | _ => .bad s (permFault ea fk false)

/-- Up to 64 bytes of one line that slot `g` reads at `ea` for one of its words, from its cluster's queue or where they lie: a guard note
may be sent, POISON where they are poisoned, and the slot observes what it reads, as an acquire at a scope if asked (R131, R309, R314, R340). -/
def State.readLine (s : State) (g : Nat) (ea : W64) (n : Nat) (acq : Scope := .none) : Got (State × Nat) :=
  let x := s.slot g
  let c := coreOf g
  let a := s.canon c ea
  match s.look (some g) (clusterOf c) x.ctx a n with
  | some (v, ids, ris) => .ok (s.modSlot g fun x => x.saw c acq ris ids, v)
  | none => match s.access g x.ctx x.descs ea n .read 0 with
    | .ok (s, k) =>
      let s := if tagOf a = 2 then s.guarded g a n 0 else s
      if s.poisoned k n then .bad s ⟨7, ea, 0⟩ else .ok (s.modSlot g fun x => x.saw c acq (s.carried k n) [], s.nat k n)
    | .bad s f => .bad s f
    | .wait h => .wait h

/-- The `n` bytes, at most 128, that slot `g` reads at `ea`. -/
def State.readAt (s : State) (g : Nat) (ea : W64) (n : Nat) (acq : Scope := .none) : Got (State × Nat) :=
  if n ≤ 64 then s.readLine g ea n acq else
  match s.readLine g ea 64 acq with
  | .ok (s, v) => (match s.readLine g (ea + 64) (n - 64) acq with
    | .ok (s, w) => .ok (s, v + w * 2 ^ 512)
    | .bad s f => .bad s f
    | .wait h => .wait h)
  | .bad s f => .bad s f
  | .wait h => .wait h

/-- The low `n` bytes of `v` that a slot writes at once at `ea`. -/
def State.writeAt (s : State) (g : Nat) (ea : W64) (n v : Nat) : Got State :=
  let x := s.slot g
  match s.access g x.ctx x.descs ea n .write 1 with
  | .ok (s, k) =>
    let a := s.canon (coreOf g) ea
    let ri := relOf .none (coreOf g) [] x.hb
    if tagOf a = 2 then
      (if s.pageOk a n v then .ok ((s.writeLocal x.ctx a n v ri).guarded g a n 1) else .bad s (permFault ea 1 false))
    else .ok (s.write k n v ri)
  | .bad s f => .bad s f
  | .wait h => .wait h

/-! Spills and fills (R178) -/

/-- An 8-byte word at an aligned address, R67 and ALIGN first (R178). -/
def State.word8 (s : State) (g : Nat) (ea : W64) (v : Option W64) : Got (State × W64) :=
  if ea.toNat % 8 ≠ 0 then .bad s ⟨3, ea, w64 (b2n v.isSome)⟩ else
  match v with
  | some v => match s.writeAt g ea 8 v.toNat with
    | .ok s => .ok (s, v)
    | .bad s f => .bad s f
    | .wait h => .wait h
  | none => match s.readAt g ea 8 with
    | .ok (s, v) => .ok (s, w64 v)
    | .bad s f => .bad s f
    | .wait h => .wait h

/-- `n` words stored from `ea` upward, the i-th being `f i`; those before one that fails stay performed. -/
def State.storeRun (s : State) (g : Nat) (ea : W64) (f : Nat → W64) : Nat → State × Met Unit
  | 0 => (s, .ok ())
  | n + 1 =>
    match s.storeRun g ea f n with
    | (s, .ok _) => (match s.word8 g (ea + w64 (8 * n)) (some (f n)) with
      | .ok (s, _) => (s, .ok ())
      | .bad s e => (s, .bad e)
      | .wait h => (s, .wait h))
    | r => r

/-- `n` words loaded from `ea` upward, in order. -/
def State.loadRun (s : State) (g : Nat) (ea : W64) : Nat → State × Met (List W64)
  | 0 => (s, .ok [])
  | n + 1 =>
    match s.loadRun g ea n with
    | (s, .ok l) => (match s.word8 g (ea + w64 (8 * n)) none with
      | .ok (s, v) => (s, .ok (l ++ [v]))
      | .bad s e => (s, .bad e)
      | .wait h => (s, .wait h))
    | r => r

/-- spill(n): the oldest entries to the frame stack (R178). -/
def State.spill (s : State) (g n : Nat) : State × Met Unit :=
  let x := s.slot g
  if x.fsp = 0 then (s, .bad ⟨0x0A, 0, 0⟩)
  else if x.fslim.toNat < x.fsp.toNat + 8 * n then (s, .bad ⟨0x0A, x.fsp, 0⟩)
  else match s.storeRun g x.fsp (fun i => x.win.get 0 ((x.wb.toNat + 128 - x.res.toNat + i) % 128)) n with
    | (s, .ok _) => (s.modSlot g fun x => { x with fsp := x.fsp + w64 (8 * n), res := x.res - BitVec.ofNat 7 n }, .ok ())
    | r => r

/-- fill(n): the newest spilled entries back (R178). -/
def State.fill (s : State) (g n : Nat) : State × Met Unit :=
  let x := s.slot g
  if n = 0 then (s, .ok ())
  else if x.fsp = 0 then (s, .bad ⟨0x0A, 0, 0⟩)
  else match s.loadRun g (x.fsp - w64 (8 * n)) n with
    | (s, .ok l) =>
      let win := (List.range n).foldl (fun t i => t.set 0 ((x.wb.toNat + 256 - x.res.toNat - n + i) % 128) (l.getD i 0)) x.win
      (s.modSlot g fun x => { x with win := win, fsp := x.fsp - w64 (8 * n), res := x.res + BitVec.ofNat 7 n }, .ok ())
    | (s, .bad f) => (s, .bad f)
    | (s, .wait h) => (s, .wait h)

/-- A fault at a word of slot `g` that has committed, POISON by its own rule (R178, R254, R258). -/
def State.lateFault (s : State) (g : Nat) (f : FaultInfo) : State :=
  if f.cause = 7 then s.poisonFault g f.addr else s.wordFault g f

/-- A fault ends the running slot's word in state `t`; one that would evict the slot while its context cannot be written yet leaves the
state as it was (R259, R346). -/
def State.orEvict (s t : State) (f : FaultInfo) (k : State → State) : Ans :=
  if s.evictWaits s.cur f then .next (s.ckWant [ctxKey s.cur]) else .next (k t)

/-- What an access of the running slot's word gives: on, a fault at the word, or wait. -/
def orFault (s : State) (r : Got α) (k : α → Ans) : Ans :=
  match r with
  | .ok a => k a
  | .bad t f => s.orEvict t f fun t => t.lateFault t.cur f
  | .wait h => .next (s.ckWant h)

/-- The same for accesses that leave part of their work done; `s` is the state before them. -/
def orFaultAt (s : State) (r : State × Met α) (k : State → α → Ans) : Ans :=
  match r with
  | (t, .ok a) => k t a
  | (t, .bad f) => s.orEvict t f fun t => t.lateFault t.cur f
  | (t, .wait h) => .next (t.ckWant h)

end Sys2Proof.Machine
end

