-- ==== Sys2Proof/Machine/Scalar.lean ====
section
/-! DEFINITION. The integer instructions: the ALU group, the immediates, LI and LIH (R180 to R183). Each writes sd only. -/
namespace Sys2Proof.Machine

/-- Set bits of the low `n` bits (R180). -/
def popN (x : Nat) : Nat → Nat
  | 0 => 0
  | n + 1 => popN x n + fld x n 1
/-- Zero bits below the lowest set bit among the `n` bits from `i`, or `n`. -/
def ctzN (x : Nat) : Nat → Nat → Nat
  | 0, _ => 0
  | n + 1, i => if bit x i then 0 else 1 + ctzN x n (i + 1)
/-- Zero bits above the highest set bit of the low `n` bits, or `n`. -/
def clzN (x : Nat) : Nat → Nat
  | 0 => 0
  | n + 1 => if bit x n then 0 else 1 + clzN x n

/-- An ALU word of two operands: sd := f sa sb. -/
def alu2 (f : W64 → W64 → W64) (d a b : BitVec 5) (s : State) : Ans := .next (s.passS d (f (s.me.s a) (s.me.s b)))
/-- An ALU word of one operand, or of one and an immediate. -/
def alu1 (f : W64 → W64) (d a : BitVec 5) (s : State) : Ans := .next (s.passS d (f (s.me.s a)))

/-- Quotients and remainders; a divisor of zero gives all ones and the dividend (R181). -/
def divS (x y : W64) : W64 := if y = 0 then w64 (2 ^ 64 - 1) else x.sdiv y
def divU (x y : W64) : W64 := if y = 0 then w64 (2 ^ 64 - 1) else x / y
def remS (x y : W64) : W64 := if y = 0 then x else x.srem y
def remU (x y : W64) : W64 := if y = 0 then x else x % y

/-- ADD (R180). -/
def execAdd (d a b : BitVec 5) (s : State) : Ans := alu2 (fun x y => x + y) d a b s
/-- SUB (R180). -/
def execSub (d a b : BitVec 5) (s : State) : Ans := alu2 (fun x y => x - y) d a b s
/-- AND (R180). -/
def execAnd (d a b : BitVec 5) (s : State) : Ans := alu2 (fun x y => x &&& y) d a b s
/-- OR (R180). -/
def execOr (d a b : BitVec 5) (s : State) : Ans := alu2 (fun x y => x ||| y) d a b s
/-- XOR (R180). -/
def execXor (d a b : BitVec 5) (s : State) : Ans := alu2 (fun x y => x ^^^ y) d a b s
/-- ANDN (R180). -/
def execAndn (d a b : BitVec 5) (s : State) : Ans := alu2 (fun x y => x &&& ~~~y) d a b s
/-- SHL (R180). -/
def execShl (d a b : BitVec 5) (s : State) : Ans := alu2 (fun x y => x <<< (y.toNat % 64)) d a b s
/-- SHR (R180). -/
def execShr (d a b : BitVec 5) (s : State) : Ans := alu2 (fun x y => x >>> (y.toNat % 64)) d a b s
/-- SRA (R180). -/
def execSra (d a b : BitVec 5) (s : State) : Ans := alu2 (fun x y => x.sshiftRight (y.toNat % 64)) d a b s
/-- ROL (R180). -/
def execRol (d a b : BitVec 5) (s : State) : Ans := alu2 (fun x y => x.rotateLeft (y.toNat % 64)) d a b s
/-- MUL (R180). -/
def execMul (d a b : BitVec 5) (s : State) : Ans := alu2 (fun x y => x * y) d a b s
/-- MULH (R180). -/
def execMulh (d a b : BitVec 5) (s : State) : Ans := alu2 (fun x y => BitVec.ofInt 64 (x.toInt * y.toInt / 2 ^ 64)) d a b s
/-- MULHU (R180). -/
def execMulhu (d a b : BitVec 5) (s : State) : Ans := alu2 (fun x y => w64 (x.toNat * y.toNat / 2 ^ 64)) d a b s
/-- DIV (R181). -/
def execDiv (d a b : BitVec 5) (s : State) : Ans := alu2 (fun x y => divS x y) d a b s
/-- DIVU (R181). -/
def execDivu (d a b : BitVec 5) (s : State) : Ans := alu2 (fun x y => divU x y) d a b s
/-- REM (R181). -/
def execRem (d a b : BitVec 5) (s : State) : Ans := alu2 (fun x y => remS x y) d a b s
/-- REMU (R181). -/
def execRemu (d a b : BitVec 5) (s : State) : Ans := alu2 (fun x y => remU x y) d a b s
/-- MIN (R180). -/
def execMin (d a b : BitVec 5) (s : State) : Ans := alu2 (fun x y => if y.slt x then y else x) d a b s
/-- MAX (R180). -/
def execMax (d a b : BitVec 5) (s : State) : Ans := alu2 (fun x y => if x.slt y then y else x) d a b s
/-- MINU (R180). -/
def execMinu (d a b : BitVec 5) (s : State) : Ans := alu2 (fun x y => if y.ult x then y else x) d a b s
/-- MAXU (R180). -/
def execMaxu (d a b : BitVec 5) (s : State) : Ans := alu2 (fun x y => if x.ult y then y else x) d a b s
/-- SLT (R180). -/
def execSlt (d a b : BitVec 5) (s : State) : Ans := alu2 (fun x y => truth (x.slt y)) d a b s
/-- SLTU (R180). -/
def execSltu (d a b : BitVec 5) (s : State) : Ans := alu2 (fun x y => truth (x.ult y)) d a b s
/-- SEQ (R180). -/
def execSeq (d a b : BitVec 5) (s : State) : Ans := alu2 (fun x y => truth (x == y)) d a b s
/-- LEA1 (R180). -/
def execLea1 (d a b : BitVec 5) (s : State) : Ans := alu2 (fun x y => x + (y <<< 1)) d a b s
/-- LEA2 (R180). -/
def execLea2 (d a b : BitVec 5) (s : State) : Ans := alu2 (fun x y => x + (y <<< 2)) d a b s
/-- LEA3 (R180). -/
def execLea3 (d a b : BitVec 5) (s : State) : Ans := alu2 (fun x y => x + (y <<< 3)) d a b s
/-- CLZ (R180). -/
def execClz (d a : BitVec 5) (s : State) : Ans := alu1 (fun x => w64 (clzN x.toNat 64)) d a s
/-- CTZ (R180). -/
def execCtz (d a : BitVec 5) (s : State) : Ans := alu1 (fun x => w64 (ctzN x.toNat 64 0)) d a s
/-- POPC (R180). -/
def execPopc (d a : BitVec 5) (s : State) : Ans := alu1 (fun x => w64 (popN x.toNat 64)) d a s
/-- SEXTB (R180). -/
def execSextb (d a : BitVec 5) (s : State) : Ans := alu1 (fun x => sx 8 (fld x.toNat 0 8)) d a s
/-- SEXTH (R180). -/
def execSexth (d a : BitVec 5) (s : State) : Ans := alu1 (fun x => sx 16 (fld x.toNat 0 16)) d a s
/-- SEXTW (R180). -/
def execSextw (d a : BitVec 5) (s : State) : Ans := alu1 (fun x => sx 32 (fld x.toNat 0 32)) d a s
/-- ZEXTW (R180). -/
def execZextw (d a : BitVec 5) (s : State) : Ans := alu1 (fun x => w64 (fld x.toNat 0 32)) d a s
/-- ADDI (R182). -/
def execAddi (d a : BitVec 5) (imm : BitVec 16) (s : State) : Ans := alu1 (fun x => x + sx 16 imm.toNat) d a s
/-- ANDI (R182). -/
def execAndi (d a : BitVec 5) (imm : BitVec 16) (s : State) : Ans := alu1 (fun x => x &&& w64 imm.toNat) d a s
/-- ORI (R182). -/
def execOri (d a : BitVec 5) (imm : BitVec 16) (s : State) : Ans := alu1 (fun x => x ||| w64 imm.toNat) d a s
/-- XORI (R182). -/
def execXori (d a : BitVec 5) (imm : BitVec 16) (s : State) : Ans := alu1 (fun x => x ^^^ w64 imm.toNat) d a s
/-- SLTI (R182). -/
def execSlti (d a : BitVec 5) (imm : BitVec 16) (s : State) : Ans := alu1 (fun x => truth (x.slt (sx 16 imm.toNat))) d a s
/-- SLTIU (R182). -/
def execSltiu (d a : BitVec 5) (imm : BitVec 16) (s : State) : Ans := alu1 (fun x => truth (x.ult (sx 16 imm.toNat))) d a s
/-- SHLI (R182). -/
def execShli (d a : BitVec 5) (amt : BitVec 6) (s : State) : Ans := alu1 (fun x => x <<< amt.toNat) d a s
/-- SHRI (R182). -/
def execShri (d a : BitVec 5) (amt : BitVec 6) (s : State) : Ans := alu1 (fun x => x >>> amt.toNat) d a s
/-- SRAI (R182). -/
def execSrai (d a : BitVec 5) (amt : BitVec 6) (s : State) : Ans := alu1 (fun x => x.sshiftRight amt.toNat) d a s
/-- LIH (R183): it reads sd as well. -/
def execLih (d : BitVec 5) (pos : BitVec 2) (imm : BitVec 16) (s : State) : Ans := alu1 (fun x => x ||| (w64 imm.toNat <<< (16 * pos.toNat))) d d s
/-- LI (R183). -/
def execLi (d : BitVec 5) (imm : BitVec 21) (s : State) : Ans := .next (s.passS d (sx 21 imm.toNat))

end Sys2Proof.Machine
end

