-- ==== Sys2Proof/Machine/Names.lean ====
section
/-! DEFINITION. Permanent names at their slices: issue, resolution, death, and the objects that die with them; barriers and
their lines (R278 to R285, R299). -/
namespace Sys2Proof.Machine

/-! Status codes (R14) -/
def stOK : Nat := 0
def stDUP : Nat := 2
def stGONE : Nat := 8
def stBADNAME : Nat := 9
def stMOVED : Nat := 10
def stXLATE : Nat := 13
def stPERM : Nat := 0x10
def stFULL : Nat := 0x11

/-! The name (R278 to R280) -/
def nmModule (nm : W128) : Nat := fld nm.toNat 112 16
def nmClass (nm : W128) : Nat := fld nm.toNat 106 6
def nmSerial (nm : W128) : W64 := w64 (fld nm.toNat 42 64)
def nmCluster (nm : W128) : Nat := fld nm.toNat 24 11

/-- The check code over bits [127:24] (R280). -/
def State.check (s : State) (hi : Nat) : Nat := (Config.checkCode s.durable.nameKey (BitVec.ofNat 104 hi)).toNat

/-- The name of a class, serial and home hint, issued by this module (R278). -/
def State.makeName (s : State) (cls : Nat) (serial cluster : Nat) : W128 :=
  let hi := cluster % 2 ^ 11 + serial * 2 ^ 18 + cls * 2 ^ 82 + s.durable.module.toNat * 2 ^ 88
  BitVec.ofNat 128 (hi * 2 ^ 24 + s.check hi)

/-- Whether a name is ill formed for an operation that needs class `need` (0 for any): BADNAME (R280). -/
def State.badName (s : State) (nm : W128) (need : Nat) : Bool :=
  fld nm.toNat 0 24 != s.check (fld nm.toNat 24 104) || nmClass nm == 0 || decide (7 < nmClass nm) || fld nm.toNat 35 7 != 0 ||
    (need != 0 && nmClass nm != need)

/-- The live entry of a serial at its slice (R282). -/
def State.entry (s : State) (serial : W64) : Option NameEntry :=
  s.names.find? fun e => nmSerial e.name == serial && ¬ e.dying

/-- The NSE that performs atomics and keeps the wait list of a word: the die of a local word, the home's die of another (R293,
R297). -/
def State.nseOf (s : State) (cl : Nat) (ctx : BitVec 16) (ea : W64) : Nat :=
  if tagOf ea = 2 then dieOf (lCore ea) else match (s.findHome cl ctx ea).2 with | .ok h => h | .error _ => cl / 32
/-- The NSE that keeps a parked stitch (R297). -/
def State.parkDie (s : State) (p : Parked) : Nat :=
  match p.on with
  | .word .. => s.nseOf p.cluster (stCtx p.st) p.addr
  | .barrier n _ => match s.entry n with | some e => e.home / 32 | none => 0
  | .name n => (Config.sliceOf n).val

/-- resolve(nm, any) at the name's slice, without a cache (R283, R290). -/
def State.liveStatus (s : State) (ctx : BitVec 16) (nm : W128) : Nat :=
  if s.badName nm 0 then stBADNAME
  else if nmModule nm ≠ s.durable.module.toNat then stPERM
  else match s.entry (nmSerial nm) with
    | some e => if e.ctx = ctx then stOK else stGONE
    | none => stGONE

/-- Entries of the name-table slice of NSE `d`. -/
def State.sliceCount (s : State) (d : Nat) : Nat := (s.names.filter fun e => (Config.sliceOf (nmSerial e.name)).val == d).length
/-- Bytes of skein and parked stitches at NSE `d`: in its 8 MiB synchronisation cache, what does not fit there in its overflow area
(R264, R297; log entry 21). -/
def State.stitchBytes (s : State) (d : Nat) : Nat :=
  64 * ((s.parked.filter fun p => s.parkDie p == d).length +
    (s.skeins.filter fun k => k.cluster / 32 == d).foldl (fun n k => n + k.items.length) 0)
/-- Bytes of NSE `d`'s overflow area in use: entries beyond the slice's 262,144, barriers without a line, stitches beyond the cache
(R282, R299, R303). -/
def State.overflowUsed (s : State) (d : Nat) : Nat :=
  32 * (s.sliceCount d - 262144) + 64 * (s.barriers.filter fun b => b.line == 0 && nmCluster b.name / 32 == d).length + (s.stitchBytes d - 2 ^ 23)
/-- Whether the overflow area of NSE `d` takes `n` more bytes. -/
def State.overflowRoom (s : State) (d n : Nat) : Bool := decide (s.overflowUsed d + n ≤ 4096 * (s.die d).ovfsize.toNat)
/-- Whether NSE `d` has room for one more stitch (R264, R297). -/
def State.nseRoom (s : State) (d : Nat) : Bool := decide (s.stitchBytes d + 64 ≤ 2 ^ 23) || s.overflowRoom d 64
/-- Whether the slice of a serial has room for its entry: the overflow area takes those beyond its 262,144 (R282). -/
def State.sliceRoom (s : State) (serial : W64) : Bool :=
  let d := (Config.sliceOf serial).val
  decide (s.sliceCount d < 262144) || s.overflowRoom d 32

/-- The next serial of die `d`: from its sub-block, else a new sub-block of the module's block; none yet while a block must be
reserved, FULL once its write has failed (R281). -/
def State.issue (s : State) (d : Nat) : Met (State × Nat) :=
  let (n, e) := (s.die d).serials
  if n < e then .ok (s.modDie d fun x => { x with serials := (n + 1, e) }, n)
  else if s.serialNext + 2 ^ 16 ≤ s.serialEnd then
    let t : State := { s with serialNext := s.serialNext + 2 ^ 16 }
    .ok (t.modDie d fun x => { x with serials := (s.serialNext + 1, s.serialNext + 2 ^ 16) }, s.serialNext)
  else if s.serialFail || decide (2 ^ 64 ≤ s.durable.serialCounter + 2 ^ 40) then .bad ⟨0, 0, 0⟩
  else .wait []

/-- resolve(nm, need) for a requester of cluster `cl` and context `ctx`: the status, and the entry as the cluster's cache or
the slice gives it (R283, R284). -/
def State.resolve (s : State) (cl : Nat) (ctx : BitVec 16) (nm : W128) (need : Nat) : State × Nat × Option NcEntry :=
  if s.badName nm need then (s.modDie (cl / 32) fun x => { x with badname := x.badname + 1 }, stBADNAME, none)
  else if nmModule nm ≠ s.durable.module.toNat then (s, stPERM, none)
  else
    let serial := nmSerial nm
    let hit := if s.miss then none else (s.cluster cl).ncache.find? fun e => e.serial == serial
    let found : State × Option NcEntry := match hit with
      | some e => (s, some e)
      | none => match s.entry serial with
        | none => (s, none)
        | some e =>
          let c : NcEntry := ⟨serial, e.cls, e.ctx, e.home, e.value⟩
          let share := fun (x : NameEntry) => if nmSerial x.name == serial then { x with sharers := x.sharers ||| (1 <<< (cl / 32)) } else x
          let s : State := { s with names := s.names.map share }
          (s.modCluster cl fun k => { k with ncache := keepLast 512 (k.ncache.filter (fun x => x.serial != serial) ++ [c]) }, some c)
    match found with
    | (s, none) => (s, stGONE, none)
    | (s, some e) =>
      if e.ctx ≠ ctx then (s, stGONE, none)
      else if nmClass nm = 1 ∨ nmClass nm = 2 ∨ nmClass nm = 3 then
        match s.names.find? fun x => x.name == nm && ¬ x.dying with
        | none => (s, stGONE, none)
        | some x =>
          if x.home = e.home then (s, stOK, some e)
          else
            let c := { e with home := x.home }
            (s.modCluster cl fun k => { k with ncache := k.ncache.map (fun y => if y.serial == serial then c else y) }, stMOVED, some c)
      else (s, stOK, some e)

/-! Barriers (R299) -/

/-- A barrier's 64 bytes (R299). -/
def Barrier.line64 (b : Barrier) : Nat :=
  b.name.toNat + b.count.toNat * 2 ^ 128 + b.phase.toNat * 2 ^ 160 + b.arrived.toNat * 2 ^ 192 + scopeCode b.scope * 2 ^ 224

def State.barrier (s : State) (serial : W64) : Option Barrier := s.barriers.find? fun b => nmSerial b.name == serial
/-- A barrier's new state, kept by its NSE and in its line. -/
def State.putBarrier (s : State) (b : Barrier) : State :=
  let t : State := { s with barriers := s.barriers.map fun x => if x.name == b.name then b else x }
  t.write b.key 64 b.line64

/-- The BARWs parked on a barrier, released in arrival order with a result, each acquiring the arrivals whose barrier scope
holds both cores (R300, R301). -/
def State.freeBarrier (s : State) (serial : W64) (v : W64) (rel : List RelInfo) : State :=
  s.parked.foldl (fun s p => match p.on with
    | .barrier k _ => if k == serial then s.unpark p v (rel.flatMap fun r => if scopeHas r.scope r.core p.core then r.obs else []) else s
    | _ => s) s

/-! Death (R285) -/

/-- The object of a dying name is destroyed: a tile abandoned, a barrier's waiters released with GONE, a skein's stitches
discarded (R285). -/
def State.destroy (s : State) (e : NameEntry) : State :=
  match e.cls.toNat with
  | 1 => s.modCluster (nmCluster e.name) fun k => { k with tiles := k.tiles.filter fun t => t.name != e.name }
  | 2 =>
    let s := s.freeBarrier (nmSerial e.name) (w64 (2 ^ 63 + stGONE)) []
    { s with barriers := s.barriers.filter fun b => b.name != e.name }
  | 3 => { s with skeins := s.skeins.filter fun k => k.name != e.name }
  | _ => s

/-- A name dies: dying, object destroyed, NWAITs released with OK acquiring the death's release, entry freed, a shoot-down
to every die that may cache it; `op` waits for the acknowledgements (R285, R288, R291). -/
def State.nameDies (s : State) (serial : W64) (op : Option Nat) (ri : Option RelInfo) : State :=
  match s.entry serial with
  | none => s
  | some e =>
    let dying := fun (x : NameEntry) => if x.name == e.name then { x with dying := true } else x
    let s : State := { s with names := s.names.map dying, deaths := (s.deaths.filter fun x => ! (s.live x.2.obs).isEmpty) ++ ri.toList.map fun r => (serial, r) }
    let s := s.destroy e
    let s := s.parked.foldl (fun s p => match p.on with
      | .name k =>
        if k == serial then s.unpark p 0 (match ri with
          | some r => if scopeHas r.scope r.core p.core && scopeHas p.scope p.core r.core then r.obs else []
          | none => []) else s
      | _ => s) s
    let dies := (List.range 64).filter fun d => bit e.sharers.toNat d
    let shoots := dies.zipIdx.map fun (d, i) => (⟨s.nextId + i, d, serial, op, false⟩ : Shoot)
    let wait := fun (o : NameOp) => if some o.id = op then { o with acks := shoots.map (·.id) } else o
    { s with names := s.names.filter (fun x => x.name != e.name), shoots := s.shoots ++ shoots, nextId := s.nextId + shoots.length,
             nameOps := s.nameOps.map wait }

/-- The death of a task's name on its way to its slice, for slot `g` to learn of (R263, R327). -/
def State.deathOp (s : State) (g c : Nat) (x : Slot) (rel : Bool) : State :=
  { s with nextId := s.nextId + 1, nameOps := s.nameOps ++ [⟨s.nextId, g, clusterOf c, c, x.ctx, .death, x.name, 0, 0,
    if rel then .release else .relaxed, if rel then .device else .none, false, [], if rel then x.obs else [], if rel then x.hb else [], none⟩] }
/-- The name of a task that is killed dies through its slice, with no release; no slot waits for it (R327). -/
def State.taskNameDies (s : State) (g : Nat) : State :=
  let x := s.slot g
  if x.named then s.deathOp Config.slots (coreOf g) x false else s

end Sys2Proof.Machine
end

