-- ==== Sys2Proof/Machine/Suspend.lean ====
section
/-! DEFINITION. Leaving a slot: the guard check, the save of the window, the stitch, suspension and feature migration
(R26, R131, R179, R251, R253, R254, R261). -/
namespace Sys2Proof.Machine

/-- A slot bound to no task: the state of the hardware slot stays, the task's registers keep nothing (R172, R252); a block that ended here is still to be judged (R342). -/
def Slot.vacate (x : Slot) : Slot :=
  { Slot.reset with cpNum := x.cpNum, mxNum := x.mxNum, spillbase := x.spillbase, lastCause := x.lastCause, cmdStatus := x.cmdStatus,
                    busy := x.busy, npre := x.npre, faults := x.faults, stepSeq := x.stepSeq, packet := x.packet,
                    sig := x.sig.filter fun r => r.left == 0 }

/-- The slot becomes EMPTY; a step whose task has left reports 1 with the pc of the next word, `next` (R321, R335), a pre-empt that comes
too late STATE (R334). -/
def State.vacateAt (s : State) (g : Nat) (next : Pc) : State :=
  let x := s.slot g
  let pkt := (s.modSlot g fun x => { x with pc := next }).packet g ⟨0x12, 0, 1⟩
  let s := s.modSlot g fun x => if x.preempting then x.vacate.status 1 else x.vacate
  if ¬ x.stepping then s else
  let s := s.trace g 7 x.pc 0 0x12 0
  (s.modSlot g fun y => { y with busy := false, stepSeq := 0, faults := y.faults + 1, lastCause := 0x12 }).sendPacket (dieOf (coreOf g)) g pkt

/-- The slot becomes EMPTY at the word where it stands. -/
def State.vacate (s : State) (g : Nat) : State := s.vacateAt g ((s.slot g).pc + 4)

/-- Sets the running slot HELD for a condition: it executes the word again once that holds (R252). -/
def State.holdFor (s : State) (h : Hold) : State := s.modMe fun x => { x with state := .held, hold := h, heldSince := s.cycle }

/-- At a BARA, an END or a suspension point a guard record freezes the slot before the instruction has any effect; notes that are still on
their way to the slot arrive first; a word whose commit is under way is past the check until that is done (R131). -/
def State.guardGate (s : State) (k : State → Ans) : Ans :=
  if s.storing s.cur || s.me.mode != .none then k s
  else if s.notes.any fun n => n.g == s.cur then .next s else
  match s.me.guard with
  | none => k s
  | some r => .next ((s.freeze s.cur ⟨0x0C, r.addr, w64 (guardDetail r)⟩).modMe fun x => { x with guard := none })

/-- A frame pointer or completion word in the form that names it from anywhere (R251). -/
def rewrite (c : Nat) (a : W64) : W64 :=
  if a = 0 then 0
  else if tagOf a = 0 then mkAddr 2 (c * 2 ^ 18 + fld a.toNat 0 18)
  else if tagOf a = 1 then mkAddr 2 (clusterOf c * 2 ^ 23 + fld a.toNat 0 23)
  else a

/-- The stitch of slot `g`'s task with a pc, a state and the frame pointer `frame` (R179, R250). -/
def State.stitch (s : State) (g : Nat) (pc : Pc) (state : Nat) : W512 :=
  let x := s.slot g
  BitVec.ofNat 512 (pc.toNat + state * 2 ^ 48 + x.prio.toNat * 2 ^ 52 + b2n x.named * 2 ^ 56 + (rewrite (coreOf g) x.fsp).toNat * 2 ^ 64 +
    x.feat.toNat * 2 ^ 128 + x.ctx.toNat * 2 ^ 160 + x.eclass.toNat * 2 ^ 176 + x.place.toNat * 2 ^ 180 +
    (x.s 8).toNat * 2 ^ 256 + (x.s 9).toNat * 2 ^ 320 + (x.s 10).toNat * 2 ^ 384 + (x.s 11).toNat * 2 ^ 448)

/-- The save of R179 and of a named task's name (R265); a fault leaves FSP and the resident count as they were. -/
def State.saveWindow (s : State) (g : Nat) : State × Met Unit :=
  let x := s.slot g
  let back := fun (s : State) => s.modSlot g fun y => { y with fsp := x.fsp, res := x.res }
  if x.fsp = 0 then (s, if x.named then .bad ⟨0x0A, 0, 0⟩ else .ok ())
  else match s.spill g x.res.toNat with
    | (s, .ok _) =>
      let fsp := (s.slot g).fsp
      (match s.storeRun g fsp (fun i => x.s (BitVec.ofNat 5 (12 + i))) 20 with
      | (s, .ok _) =>
        let s := s.modSlot g fun y => { y with fsp := fsp + 160 }
        if ¬ x.named then (s, .ok ())
        else (match s.storeRun g (fsp + 160) (fun i => w64 (fld x.name.toNat (64 * i) 64)) 2 with
          | (s, .ok _) => (s, .ok ())
          | (s, r) => (back s, r))
      | (s, r) => (back s, r))
    | (s, r) => (back s, r)

/-- The slot's CPYS bindings end as SDROP ends them (R160, R253). -/
def Slot.endCpys (x : Slot) : Slot :=
  { x with q := (List.range 4).foldl (fun t k =>
      match (t.get Stream.reset k).src with
      | some (.cpys _) => t.set Stream.reset k { t.get Stream.reset k with src := none, items := [], last := false }
      | _ => t) x.q }

/-- A suspension point whose segment has been committed, or abandoned, since `was`: the slot waits for its chains, ends its CPYS bindings and saves its window;
then `k` disposes of the task; a save that fails freezes the slot at once, POISON too (R119, R253, R254). -/
def State.suspendFrom (was s : State) (k : State → Ans) : Ans :=
  if s.chainsOf s.cur ≠ 0 then .next (s.holdFor (.chains 1))
  else
    let s := s.modMe Slot.endCpys
    match s.saveWindow s.cur with
    | (t, .ok _) => k t
    | (t, .bad f) => was.orEvict t f fun t => t.wordFault t.cur f
    | (_, .wait h) => .next (was.ckWant h)
/-- A suspension point whose word has committed. -/
def State.suspend (s : State) (k : State → Ans) : Ans := s.suspendFrom s k

/-! Placement (R250, R251, R269) -/

/-- Whether core `c` lies within a place scope around an anchor; scope 0 means DEVICE (R269). -/
def inPlace (sc anchorCl anchorCore c : Nat) : Bool :=
  match sc with
  | 1 => c == anchorCore
  | 2 => clusterOf c == anchorCl
  | 3 => clusterOf c / 32 == anchorCl / 32
  | _ => true

/-- Whether a frame lets its task run on core `c`: a local frame only in the cluster that holds it (R251). -/
def frameAllows (frame : W64) (c : Nat) : Bool := tagOf frame != 2 || fld frame.toNat 23 11 == clusterOf c

/-- The feature mask of core `c` (R26, R344). -/
def State.coreFeat (s : State) (c : Nat) : Nat :=
  let f := (s.core c).feat.toNat
  if (s.cluster (clusterOf c)).matrixQuarantined then f - fld f 4 1 * 16 else f
/-- Whether a mask contains another. -/
def maskHas (have_ want : Nat) : Bool := have_ &&& want == want
/-- Whether core `c` is enabled: neither fenced nor quarantined (R4, R344). -/
def State.enabled (s : State) (c : Nat) : Bool := decide (c < Config.cores) && ! (s.core c).quarantined && ! (s.cluster (clusterOf c)).fenced

/-- Some number from `i` on, `n` of them, satisfies `p`. -/
def anyFrom (p : Nat → Bool) : Nat → Nat → Bool
  | 0, _ => false
  | n + 1, i => p i || anyFrom p n (i + 1)

/-- Whether some enabled core of an effective placement has the features (R261, R264). -/
def State.placeable (s : State) (sc anchorCl anchorCore : Nat) (frame : W64) (feat : Nat) : Bool :=
  anyFrom (fun c => inPlace sc anchorCl anchorCore c && frameAllows frame c && s.enabled c && maskHas (s.coreFeat c) feat) Config.cores 0

/-- A word that needs feature bits its core lacks: the task, its segment abandoned as by a restart and write-through mode left, is suspended
at its restart point with the bits that are missing added to its mask and joins its cluster's ready list; NOFEAT when it has no frame stack or no core can take it
(R26, R261). -/
def State.migrate (s : State) (bits : Nat) : Ans :=
  s.guardGate fun s =>
  if s.storing s.cur then .next s else
  if s.chains.any (fun c => c.g == s.cur && c.seg != s.me.seg) then .next (s.holdFor (.chains 0)) else
  let c := coreOf s.cur
  let was := s
  let s := (((s.abandon s.cur).modMe fun x => { x with sent := 0 }).commitDone s.cur).modMe fun x => { x with feat := BitVec.ofNat 32 (x.feat.toNat ||| (bits - (bits &&& s.coreFeat c))) }
  let x := s.me
  if x.fsp = 0 ∨ ¬ s.placeable (fld x.place.toNat 0 3) (clusterOf c) c (rewrite c x.fsp) x.feat.toNat
  then .next (s.freeze s.cur ⟨0x0E, 0, BitVec.zeroExtend 64 x.feat⟩)
  else was.suspendFrom s fun s =>
    let st := s.stitch s.cur s.me.pc 0
    .next ((s.ready (clusterOf c) st c s.me.obs s.me.seen s.me.fence).vacateAt s.cur (was.me.pc + 4))

/-- The feature check of an instruction (R24 step 6, R26). -/
def State.needs (s : State) (bits : Nat) (k : State → Ans) : Ans :=
  if maskHas (s.coreFeat (coreOf s.cur)) bits then k s else s.migrate bits

end Sys2Proof.Machine
end

