-- ==== Sys2Proof/Machine/Control.lean ====
section
/-! DEFINITION. Control flow, the register window, the SYS group and the stream registers (R174 to R191). -/
namespace Sys2Proof.Machine

/-- A conditional branch (R184). -/
def branch (cond : W64 → W64 → Bool) (a b : BitVec 5) (off : BitVec 16) (s : State) : Ans :=
  .next (if cond (s.me.s a) (s.me.s b) then s.jump (target s.me.pc 16 off.toNat) else s.pass)

/-- BEQ (R184). -/
def execBeq (a b : BitVec 5) (off : BitVec 16) (s : State) : Ans := branch (fun x y => x == y) a b off s
/-- BNE (R184). -/
def execBne (a b : BitVec 5) (off : BitVec 16) (s : State) : Ans := branch (fun x y => x != y) a b off s
/-- BLT (R184). -/
def execBlt (a b : BitVec 5) (off : BitVec 16) (s : State) : Ans := branch (fun x y => x.slt y) a b off s
/-- BGE (R184). -/
def execBge (a b : BitVec 5) (off : BitVec 16) (s : State) : Ans := branch (fun x y => ! x.slt y) a b off s
/-- BLTU (R184). -/
def execBltu (a b : BitVec 5) (off : BitVec 16) (s : State) : Ans := branch (fun x y => x.ult y) a b off s
/-- BGEU (R184). -/
def execBgeu (a b : BitVec 5) (off : BitVec 16) (s : State) : Ans := branch (fun x y => ! x.ult y) a b off s
/-- JMP (R184). -/
def execJmp (off : BitVec 26) (s : State) : Ans := .next (s.jump (target s.me.pc 26 off.toNat))
/-- LOOP: sa one less, a branch unless that is 0 (R184). -/
def execLoop (a : BitVec 5) (off : BitVec 16) (s : State) : Ans :=
  let v := s.me.s a - 1
  let s := s.modMe fun x => x.setS a v
  .next (if v ≠ 0 then s.jump (target s.me.pc 16 off.toNat) else s.pass)
/-- JR: a misaligned or wide target faults at the JR (R185). -/
def execJr (a : BitVec 5) (s : State) : Ans :=
  let v := s.me.s a
  if fld v.toNat 0 2 ≠ 0 then s.precise 3 v 3
  else if fld v.toNat 48 16 ≠ 0 then s.precise 2 v 3
  else .next (s.jump (BitVec.ofNat 48 v.toNat))

/-- The steps of a call with `F` fresh registers, after its commit: room in the file, the new window, the link, the target
(R175). -/
def callStep (fsz : Nat) (dest : Pc) (s : State) : Ans :=
  let f := 4 * fsz
  let x := s.me
  let room := if x.res.toNat + f ≤ 104 then (s, .ok ()) else s.spill s.cur (x.res.toNat + f - 104)
  orFaultAt s room fun s _ =>
  let link := w64 ((x.pc + 4).toNat + fsz * 2 ^ 48)
  let s := s.modMe fun x => { x with res := x.res + BitVec.ofNat 7 f, wb := x.wb + BitVec.ofNat 7 f }
  let s := s.modMe fun x => x.setS 31 link
  .next ((s.jump dest).modMe Slot.moved)

/-- CALL (R175). -/
def execCall (fsz : BitVec 3) (off : BitVec 23) (s : State) : Ans :=
  s.commitThen fun s => callStep fsz.toNat (target s.me.pc 23 off.toNat) s

/-- Whether a procedure pointer or link is well formed: zero above bit 50, fsz 2 to 6 (R176, R177). -/
def linkOk (v : W64) : Bool := fld v.toNat 51 13 == 0 && 2 ≤ fld v.toNat 48 3 && fld v.toNat 48 3 ≤ 6

/-- JALR (R176). -/
def execJalr (a : BitVec 5) (s : State) : Ans :=
  let v := s.me.s a
  if ¬ linkOk v then s.illegal ((encode (.jalr a)).getD 0)
  else if fld v.toNat 0 2 ≠ 0 then s.precise 3 v 3
  else s.commitThen fun s => callStep (fld v.toNat 48 3) (BitVec.ofNat 48 v.toNat) s

/-- RET (R177). -/
def execRet (s : State) : Ans :=
  s.commitThen fun s =>
  let l := s.me.s 31
  if ¬ linkOk l then s.illegal ((encode .ret).getD 0)
  else if fld l.toNat 0 2 ≠ 0 then s.precise 3 l 3
  else
    let f := 4 * fld l.toNat 48 3
    orFaultAt s (s.fill s.cur (f - s.me.res.toNat)) fun s _ =>
    let s := s.modMe fun x => { x with res := x.res - BitVec.ofNat 7 f, wb := x.wb - BitVec.ofNat 7 f }
    .next ((s.jump (BitVec.ofNat 48 l.toNat)).modMe Slot.moved)

/-! The SYS group (R188 to R191) -/

/-- NOP (R188). -/
def execNop (s : State) : Ans := .next s.pass

/-- TRAP: commits, then freezes at the word with sa as the packet's address (R190). -/
def execTrap (a : BitVec 5) (s : State) : Ans :=
  s.commitThen fun s => .next ((s.modMe fun x => { x with rstpc := x.pc + 4 }).freeze s.cur ⟨0x0F, s.me.s a, 0⟩)
/-- BRK: freezes at the word without a commit (R190). -/
def execBrk (s : State) : Ans := s.precise 0x10 0 0
/-- HALT: as TRAP; the slot may only be inspected or killed (R190). -/
def execHalt (a : BitVec 5) (s : State) : Ans :=
  s.commitThen fun s => .next ((s.modMe fun x => { x with rstpc := x.pc + 4 }).freeze s.cur ⟨0x11, s.me.s a, 0⟩)

/-- The value of a control register; none is reserved (R173). Two cores read CYCLE within 8 cycles of each other, by a free
value (log entry 1). -/
def State.control (s : State) (n : Nat) : Option W64 :=
  let x := s.me
  let c := coreOf s.cur
  match n with
  | 0 => some (BitVec.zeroExtend 64 x.rstpc)
  | 1 => some x.taskid
  | 2 => some (BitVec.zeroExtend 64 x.prio)
  | 3 => some (BitVec.zeroExtend 64 x.ctx)
  | 4 => some (w64 (x.feat.toNat + s.coreFeat c * 2 ^ 32))
  | 5 => some x.holdlim
  | 6 => some (w64 (s.wsPhase (dieOf c)))
  | 7 => some (w64 (s.cycle + (Config.cycleSkew c s.fresh).val))
  | 8 => some x.fsp
  | 9 => some x.fslim
  | 10 => some (w64 (x.wb.toNat + x.res.toNat * 128))
  | 11 => some (w64 (slotId s.cur))
  | _ => none

/-- RDK (R189). -/
def execRdk (d b : BitVec 5) (s : State) : Ans :=
  match s.control b.toNat with
  | some v => .next ((if b.toNat = 7 then { s with fresh := s.fresh + 1 } else s).passS d v)
  | none => s.illegal ((encode (.rdk d b)).getD 0)

/-- A written HOLDLIM is 256 to 2^31 with bits [63:32] zero (R189). -/
def holdlimOk (v : W64) : Bool := 256 ≤ v.toNat && decide (v.toNat ≤ 2 ^ 31)
/-- A written FSP is 0 or a multiple of 32 with tag 0x0, 0x1, 0x2 or 0x4 (R189). -/
def fspOk (v : W64) : Bool := v == 0 || (fld v.toNat 0 5 == 0 && plainTag v)

/-- WRK: HOLDLIM, FSP and FSLIM in their ranges; every other number, and every other value, is ILLEGAL (R189). -/
def execWrk (a b : BitVec 5) (s : State) : Ans :=
  let v := s.me.s a
  let bad := s.illegal ((encode (.wrk a b)).getD 0)
  match b.toNat with
  | 5 => if holdlimOk v then .next (s.modMe fun x => { x with holdlim := v }.next) else bad
  | 8 => if fspOk v then .next (s.modMe fun x => { x with fsp := v }.next) else bad
  | 9 => .next (s.modMe fun x => { x with fslim := v }.next)
  | _ => bad

/-- COMMIT: the restart point moves to the next instruction (R92, R188). -/
def execCommit (s : State) : Ans := s.commitThen fun s => .next (s.pass.modMe Slot.moved)

/-- YIELD: the stitch, READY at the next instruction, joins the cluster's ready list at its prio (R263). -/
def execYield (s : State) : Ans :=
  s.guardGate fun s => s.commitThen fun s => s.suspend fun s =>
  .next ((s.ready (clusterOf (coreOf s.cur)) (s.stitch s.cur (s.me.pc + 4) 0) (coreOf s.cur) s.me.obs s.me.seen s.me.fence).vacate s.cur)

/-- END: no stitch is written; a named task's name dies with a release at device scope, and its slot waits until every die has
acknowledged, as under a synchronous NKILL (R263, R288). -/
def execEndTask (s : State) : Ans :=
  s.guardGate fun s => s.commitThen fun s => s.suspend fun s =>
  if s.me.named then .next ((s.deathOp s.cur (coreOf s.cur) s.me true).modMe fun x => { x with await := .reply s.nextId })
  else .next (s.vacate s.cur)

/-- ICINV: commits, then waits for the invalidation of its cluster's instruction cache (R191). -/
def execIcinv (s : State) : Ans :=
  s.commitThen fun s =>
  let s : State := s.modCluster (clusterOf (coreOf s.cur)) fun k => { k with icFlush := k.icFlush ++ [s.cur] }
  .next ({ s with nextId := s.nextId + 1 }.modMe fun x => { x with await := .reply s.nextId })

/-- KSYNC: checks sa, commits, then waits until every cached copy of the block is invalid (R191). -/
def execKsync (a : BitVec 5) (s : State) : Ans :=
  let v := s.me.s a
  if ¬ plainTag v || ¬ addrOk (isSup (coreOf s.cur)) v then s.precise 2 v 0
  else if v.toNat % 64 ≠ 0 then s.precise 3 v 0
  else s.commitThen fun s =>
    .next ({ s with nextId := s.nextId + 1, ksyncs := s.ksyncs ++ [(s.cur, s.canon (coreOf s.cur) v)] }.modMe fun x => { x with await := .reply s.nextId })

/-- A word that was fetched and has not yet acted is fetched again; a signature block counts it anew then (R191, R342). -/
def Slot.refetch (x : Slot) : Slot := 
  if x.await == .none && x.mode == .none then { x with begun := false, sig := if x.begun then x.sigWas.1 else x.sig, prevBlock := if x.begun then x.sigWas.2 else x.prevBlock } else x

/-- ICINV_COMPLETE: the cluster's instruction cache is empty, its slots fetch anew what has not yet acted; the slot goes on (R191). -/
def execIcinvComplete (g : Nat) (s : State) : Ans :=
  let cl := clusterOf (coreOf g)
  if ¬ (s.cluster cl).icFlush.contains g then .next s else
  let s := s.modCluster cl fun k => { k with icache := [], icFlush := k.icFlush.filter (· != g) }
  let s := s.slots.foldl (fun s e => if clusterOf (coreOf e.1) = cl ∧ e.2.begun ∧ e.1 ≠ g then s.modSlot e.1 Slot.refetch else s) s
  .next (s.modSlot g fun x => ({ x with await := .none }.next).moved)

/-- KSYNC_COMPLETE: the cached copies of the block are stale, every later bind reads it; the slot goes on (R191, R217, R276). -/
def execKsyncComplete (g : Nat) (s : State) : Ans :=
  match s.ksyncs.find? fun k => k.1 == g with
  | none => .next s
  | some (_, blk) =>
    let ctx := (s.slot g).ctx
    let stale := fun (k : Skein) => if k.descAt == blk && (tagOf blk != 4 || k.ctx == ctx) then { k with stale := true } else k
    let fix := fun (f : FmtCtx) => if f.addr == blk && (tagOf blk != 4 || f.ctx == ctx) then { f with stale := true } else f
    let s : State := { s with ksyncs := s.ksyncs.filter (fun k => k.1 != g), skeins := s.skeins.map stale }
    let s := s.cores.foldl (fun s e => if e.2.fmt.isNone then s else s.modCore e.1 fun c => { c with fmt := c.fmt.map fix }) s
    .next (s.modSlot g fun x => ({ x with await := .none }.next).moved)

/-! Stream registers (R186, R187) -/

/-- The register with its oldest `n` items removed; the binding ends with its producer's last item (R187). -/
def Stream.take (r : Stream) (n : Nat) : Stream :=
  let items := r.items.drop n
  if r.last ∧ items = [] then { r with items := items, src := none, last := false } else { r with items := items }

/-- What a read of a register does: the oldest item, wait while a producer is bound, QIDLE else (R187). -/
def streamRead (q : BitVec 2) (k : W64 → State → Ans) (s : State) : Ans :=
  let r := s.me.st q.toNat
  match r.items with
  | v :: _ => k v s
  | [] => if r.src.isSome then .next (s.holdFor (.stream q.toNat 1)) else s.precise 8 0 (w64 q.toNat)

/-- SREAD (R187). -/
def execSread (d : BitVec 5) (q : BitVec 2) (s : State) : Ans :=
  streamRead q (fun v s => .next ((s.modMe fun x => x.modSt q.toNat (·.take 1)).passS d v)) s
/-- SPEEK (R187). -/
def execSpeek (d : BitVec 5) (q : BitVec 2) (s : State) : Ans := streamRead q (fun v s => .next (s.passS d v)) s
/-- SSTAT (R187). -/
def execSstat (d : BitVec 5) (q : BitVec 2) (s : State) : Ans := .next (s.passS d (w64 ((s.me.st q.toNat).word (s.mxOf s.cur s.me.task q.toNat))))
/-- SDROP: the items are discarded and the binding ends (R117, R160, R187). -/
def execSdrop (q : BitVec 2) (s : State) : Ans :=
  .next (s.modMe fun x => (x.modSt q.toNat fun r => { r with src := none, items := [], last := false }).next)

end Sys2Proof.Machine
end

