-- ==== Sys2Proof/Machine/Vector.lean ====
section
/-! DEFINITION. The vector instructions that touch registers only: the V group, VXI, VXF, VXC, VXM and VSREAD (R194 to R207,
R211). Each checks its feature bits (R26), reads every register first and writes only the registers it names. -/
namespace Sys2Proof.Machine

/-- The feature bits of an element type (R26). -/
def etFeat (et : Et) : Nat := if et = .fp32 then 2 else if et.isFloat then 4 else 1

/-- A masked word of elements of width `w`: governed element `k` of vd takes `f` (R21, R196). -/
def vecWord (bits w : Nat) (d : BitVec 4) (mk : BitVec 2) (f : Slot → Nat → Nat) (s : State) : Ans :=
  s.needs bits fun s =>
  let x := s.me
  .next (s.passV d (govern w (x.mr mk.toNat) (x.vr d) (f x)))

/-! The V group (R197): 32-bit elements, t is vb after the twist -/

/-- An integer word of the V group: element of vd, va and t. -/
def vGroup (bits : Nat) (f : Nat → Nat → Nat → Nat) (d a b : BitVec 4) (twist : BitVec 12) (mk : BitVec 2) (s : State) : Ans :=
  vecWord bits 32 d mk (fun x k => f (elem (x.vr d) 32 k) (elem (x.vr a) 32 k) (elem (twisted (x.vr b) twist) 32 k)) s
/-- A floating word of the V group, in FP32. -/
def vGroupF (f : Fl → Fl → Fl → Fl) (d a b : BitVec 4) (twist : BitVec 12) (mk : BitVec 2) (s : State) : Ans :=
  vGroup 2 (fun v x t => flRes .fp32 (f (flElem .fp32 v) (flElem .fp32 x) (flElem .fp32 t))) d a b twist mk s

/-- VADD (R197). -/
def execVadd (d a b : BitVec 4) (twist : BitVec 12) (mk : BitVec 2) (s : State) : Ans :=
  vGroup 1 (fun _ x t => x + t) d a b twist mk s

/-- VSUB (R197). -/
def execVsub (d a b : BitVec 4) (twist : BitVec 12) (mk : BitVec 2) (s : State) : Ans :=
  vGroup 1 (fun _ x t => x + 2 ^ 32 - t) d a b twist mk s

/-- VMUL (R197). -/
def execVmul (d a b : BitVec 4) (twist : BitVec 12) (mk : BitVec 2) (s : State) : Ans :=
  vGroup 1 (fun _ x t => x * t) d a b twist mk s

/-- VMAC (R197). -/
def execVmac (d a b : BitVec 4) (twist : BitVec 12) (mk : BitVec 2) (s : State) : Ans :=
  vGroup 1 (fun v x t => v + x * t) d a b twist mk s

/-- VAND (R197). -/
def execVand (d a b : BitVec 4) (twist : BitVec 12) (mk : BitVec 2) (s : State) : Ans :=
  vGroup 1 (fun _ x t => x &&& t) d a b twist mk s

/-- VOR (R197). -/
def execVor (d a b : BitVec 4) (twist : BitVec 12) (mk : BitVec 2) (s : State) : Ans :=
  vGroup 1 (fun _ x t => x ||| t) d a b twist mk s

/-- VXOR (R197). -/
def execVxor (d a b : BitVec 4) (twist : BitVec 12) (mk : BitVec 2) (s : State) : Ans :=
  vGroup 1 (fun _ x t => x ^^^ t) d a b twist mk s

/-- VSHL (R197). -/
def execVshl (d a b : BitVec 4) (twist : BitVec 12) (mk : BitVec 2) (s : State) : Ans :=
  vGroup 1 (fun _ x t => x * 2 ^ (t % 32)) d a b twist mk s

/-- VSHR (R197). -/
def execVshr (d a b : BitVec 4) (twist : BitVec 12) (mk : BitVec 2) (s : State) : Ans :=
  vGroup 1 (fun _ x t => x / 2 ^ (t % 32)) d a b twist mk s

/-- VMIN (R197). -/
def execVmin (d a b : BitVec 4) (twist : BitVec 12) (mk : BitVec 2) (s : State) : Ans :=
  vGroup 1 (fun _ x t => if etInt .i32 x < etInt .i32 t then x else t) d a b twist mk s

/-- VMAX (R197). -/
def execVmax (d a b : BitVec 4) (twist : BitVec 12) (mk : BitVec 2) (s : State) : Ans :=
  vGroup 1 (fun _ x t => if etInt .i32 x < etInt .i32 t then t else x) d a b twist mk s

/-- VFADD (R197). -/
def execVfadd (d a b : BitVec 4) (twist : BitVec 12) (mk : BitVec 2) (s : State) : Ans :=
  vGroupF (fun _ x t => flAdd x t) d a b twist mk s

/-- VFMUL (R197). -/
def execVfmul (d a b : BitVec 4) (twist : BitVec 12) (mk : BitVec 2) (s : State) : Ans :=
  vGroupF (fun _ x t => flMul x t) d a b twist mk s

/-- VFMA (R197). -/
def execVfma (d a b : BitVec 4) (twist : BitVec 12) (mk : BitVec 2) (s : State) : Ans :=
  vGroupF (fun v x t => flAdd (flMul x t) v) d a b twist mk s

/-- VSEL: 1 bits of vd take va, 0 bits take t (R197). -/
def execVsel (d a b : BitVec 4) (twist : BitVec 12) (mk : BitVec 2) (s : State) : Ans :=
  vGroup 1 (fun v x t => x &&& v ||| t &&& (v ^^^ 0xFFFFFFFF)) d a b twist mk s

/-- VMOV (R197). -/
def execVmov (d b : BitVec 4) (twist : BitVec 12) (mk : BitVec 2) (s : State) : Ans := vGroup 1 (fun _ _ t => t) d 0 b twist mk s

/-! The VXI group (R200) -/

/-- A typed integer word: elements of va and vb as patterns. -/
def vxi (f : Et → Nat → Nat → Nat) (d a b : BitVec 4) (et : Et) (mk : BitVec 2) (s : State) : Ans :=
  vecWord 1 (etWidth et) d mk (fun x k => f et (elem (x.vr a) (etWidth et) k) (elem (x.vr b) (etWidth et) k)) s
/-- sat(x) as a pattern of the type (R200). -/
def sat (et : Et) (x : Int) : Nat := wrapInt (etWidth et) (clampInt x (etMin et) (etMax et))

/-- VADDT (R200). -/
def execVaddt (d a b : BitVec 4) (et : Et) (mk : BitVec 2) (s : State) : Ans :=
  vxi (fun _ x y => x + y) d a b et mk s

/-- VSUBT (R200). -/
def execVsubt (d a b : BitVec 4) (et : Et) (mk : BitVec 2) (s : State) : Ans :=
  vxi (fun et x y => wrapInt (etWidth et) (etInt et x - etInt et y)) d a b et mk s

/-- VMULT (R200). -/
def execVmult (d a b : BitVec 4) (et : Et) (mk : BitVec 2) (s : State) : Ans :=
  vxi (fun _ x y => x * y) d a b et mk s

/-- VMINT (R200). -/
def execVmint (d a b : BitVec 4) (et : Et) (mk : BitVec 2) (s : State) : Ans :=
  vxi (fun et x y => if etInt et x < etInt et y then x else y) d a b et mk s

/-- VMAXT (R200). -/
def execVmaxt (d a b : BitVec 4) (et : Et) (mk : BitVec 2) (s : State) : Ans :=
  vxi (fun et x y => if etInt et x < etInt et y then y else x) d a b et mk s

/-- VSHLT (R200). -/
def execVshlt (d a b : BitVec 4) (et : Et) (mk : BitVec 2) (s : State) : Ans :=
  vxi (fun et x y => x * 2 ^ (y % etWidth et)) d a b et mk s

/-- VSHRT (R200). -/
def execVshrt (d a b : BitVec 4) (et : Et) (mk : BitVec 2) (s : State) : Ans :=
  vxi (fun et x y => x / 2 ^ (y % etWidth et)) d a b et mk s

/-- VSRAT (R200). -/
def execVsrat (d a b : BitVec 4) (et : Et) (mk : BitVec 2) (s : State) : Ans :=
  vxi (fun et x y => wrapInt (etWidth et) (etInt et x / 2 ^ (y % etWidth et))) d a b et mk s

/-- VADDS (R200). -/
def execVadds (d a b : BitVec 4) (et : Et) (mk : BitVec 2) (s : State) : Ans :=
  vxi (fun et x y => sat et (etInt et x + etInt et y)) d a b et mk s

/-- VSUBS (R200). -/
def execVsubs (d a b : BitVec 4) (et : Et) (mk : BitVec 2) (s : State) : Ans :=
  vxi (fun et x y => sat et (etInt et x - etInt et y)) d a b et mk s

/-- VABS (R200). -/
def execVabs (d a : BitVec 4) (et : Et) (mk : BitVec 2) (s : State) : Ans :=
  vxi (fun et x _ => wrapInt (etWidth et) (etInt et x).natAbs) d a 0 et mk s
/-- VNEG (R200). -/
def execVneg (d a : BitVec 4) (et : Et) (mk : BitVec 2) (s : State) : Ans :=
  vxi (fun et x _ => wrapInt (etWidth et) (-etInt et x)) d a 0 et mk s

/-! The VXF group (R201) -/

/-- A typed floating word: elements of vd, va and vb as values. -/
def vxf (bits : Nat) (f : Fl → Fl → Fl → Fl) (d a b : BitVec 4) (et : Et) (mk : BitVec 2) (s : State) : Ans :=
  let w := etWidth et
  vecWord (etFeat et + bits) w d mk (fun x k =>
    flRes et (f (flElem et (elem (x.vr d) w k)) (flElem et (elem (x.vr a) w k)) (flElem et (elem (x.vr b) w k)))) s

/-- VFSUB (R201). -/
def execVfsub (d a b : BitVec 4) (et : Et) (mk : BitVec 2) (s : State) : Ans :=
  vxf 0 (fun _ x y => flAdd x (flNeg y)) d a b et mk s

/-- VFDIV (R201). -/
def execVfdiv (d a b : BitVec 4) (et : Et) (mk : BitVec 2) (s : State) : Ans :=
  vxf 8 (fun _ x y => flDiv x y) d a b et mk s

/-- VFSQRT (R201). -/
def execVfsqrt (d a : BitVec 4) (et : Et) (mk : BitVec 2) (s : State) : Ans :=
  vxf 8 (fun _ x _ => flSqrt x) d a 0 et mk s

/-- VFRCP (R201). -/
def execVfrcp (d a : BitVec 4) (et : Et) (mk : BitVec 2) (s : State) : Ans :=
  vxf 8 (fun _ x _ => flDiv (.fin false 1 0) x) d a 0 et mk s

/-- VFMINT (R201). -/
def execVfmint (d a b : BitVec 4) (et : Et) (mk : BitVec 2) (s : State) : Ans :=
  vxf 0 (fun _ x y => flMin x y) d a b et mk s

/-- VFMAXT (R201). -/
def execVfmaxt (d a b : BitVec 4) (et : Et) (mk : BitVec 2) (s : State) : Ans :=
  vxf 0 (fun _ x y => flMax x y) d a b et mk s

/-- VFABS (R201). -/
def execVfabs (d a : BitVec 4) (et : Et) (mk : BitVec 2) (s : State) : Ans :=
  vxf 0 (fun _ x _ => flAbs x) d a 0 et mk s

/-- VFNEG (R201). -/
def execVfneg (d a : BitVec 4) (et : Et) (mk : BitVec 2) (s : State) : Ans :=
  vxf 0 (fun _ x _ => flNeg x) d a 0 et mk s

/-- VFMAT (R201). -/
def execVfmat (d a b : BitVec 4) (et : Et) (mk : BitVec 2) (s : State) : Ans :=
  vxf 0 (fun v x y => flAdd (flMul x y) v) d a b et mk s

/-! Compare and masks (R202, R203) -/

/-- The number whose bit `k` below `n` is `f k`. -/
def bitsN (f : Nat → Bool) : Nat → Nat
  | 0 => 0
  | n + 1 => bitsN f n + b2n (f n) * 2 ^ n

/-- VCMP: every bit of the mask that mk names (R202). -/
def execVcmp (d a : BitVec 4) (cond : BitVec 4) (et : Et) (mk : BitVec 2) (s : State) : Ans :=
  s.needs (etFeat et) fun s =>
  let x := s.me
  let w := etWidth et
  .next (s.passM mk.toNat (BitVec.ofNat 32 (bitsN (fun k => vcond cond.toNat et (elem (x.vr a) w k) (elem (x.vr d) w k)) (etCount et))))

/-- A mask word: bits [E−1:0] of the result, zero above (R203). -/
def maskWord (f : W32 → W32) (md ma : BitVec 3) (et : Et) (s : State) : Ans :=
  s.needs 1 fun s => .next (s.passM md.toNat (BitVec.ofNat 32 (fld (f (s.me.mr ma.toNat)).toNat 0 (etCount et))))

/-- MAND (R203). -/
def execMand (md ma mb : BitVec 3) (et : Et) (s : State) : Ans := maskWord (fun x => x &&& s.me.mr mb.toNat) md ma et s

/-- MOR (R203). -/
def execMor (md ma mb : BitVec 3) (et : Et) (s : State) : Ans := maskWord (fun x => x ||| s.me.mr mb.toNat) md ma et s

/-- MXOR (R203). -/
def execMxor (md ma mb : BitVec 3) (et : Et) (s : State) : Ans := maskWord (fun x => x ^^^ s.me.mr mb.toNat) md ma et s

/-- MNOT (R203). -/
def execMnot (md ma : BitVec 3) (et : Et) (s : State) : Ans := maskWord (fun x => ~~~x) md ma et s
/-- MPOPC (R203). -/
def execMpopc (sd : BitVec 4) (ma : BitVec 3) (et : Et) (s : State) : Ans :=
  s.needs 1 fun s => .next (s.passS (sHi sd) (w64 (popN (s.me.mr ma.toNat).toNat (etCount et))))
/-- MFIRST (R203). -/
def execMfirst (sd : BitVec 4) (ma : BitVec 3) (et : Et) (s : State) : Ans :=
  s.needs 1 fun s => .next (s.passS (sHi sd) (w64 (ctzN (s.me.mr ma.toNat).toNat (etCount et) 0)))

/-! Conversions and moves (R204, R205) -/

/-- cvt of one element between types (R141, R204). -/
def cvtElem (src dst : Et) (mode x : Nat) : Nat :=
  let v := if src.isFloat then flElem src x else flOfInt (etInt src x)
  if dst.isFloat then flEnc (fmtOf dst) mode v else wrapInt (etWidth dst) (flToInt mode (etMin dst) (etMax dst) v)

/-- VCVT: E elements of the wider type; the rest of a narrower destination is zero, of an equal one there is none (R204). -/
def execVcvt (d a : BitVec 4) (dt et : Et) (rm : BitVec 2) (s : State) : Ans :=
  s.needs (etFeat et ||| etFeat dt) fun s =>
  let x := s.me
  .next (s.passV d (pack (etWidth dt) fun k =>
    if k < Min.min (etCount et) (etCount dt) then cvtElem et dt rm.toNat (elem (x.vr a) (etWidth et) k) else 0))

/-- VSPLAT (R205). -/
def execVsplat (d sa : BitVec 4) (et : Et) (mk : BitVec 2) (s : State) : Ans :=
  vecWord 1 (etWidth et) d mk (fun x _ => (x.s (sHi sa)).toNat) s

/-- An element as a scalar result: signed integers sign-extended, all others zero-extended (R205). -/
def extScalar (et : Et) (v : Nat) : W64 := if etSigned et then sx (etWidth et) v else w64 v

/-- VEXT (R205). -/
def execVext (sd a sb : BitVec 4) (et : Et) (s : State) : Ans :=
  s.needs 1 fun s =>
  let x := s.me
  .next (s.passS (sHi sd) (extScalar et (elem (x.vr a) (etWidth et) ((x.s (sHi sb)).toNat % etCount et))))
/-- VINS (R205). -/
def execVins (d sa sb : BitVec 4) (et : Et) (s : State) : Ans :=
  s.needs 1 fun s =>
  let x := s.me
  .next (s.passV d (pack (etWidth et) fun k =>
    if k = (x.s (sHi sb)).toNat % etCount et then (x.s (sHi sa)).toNat else elem (x.vr d) (etWidth et) k))

/-! Reductions and the scan (R206) -/

/-- The operation of a reduction on two elements: 0 sum, 1 minimum, 2 maximum (R206). -/
def redOp (op : Nat) (et : Et) (x y : Nat) : Nat :=
  if et.isFloat then
    let a := flElem et x
    let b := flElem et y
    flRes et (if op = 0 then flAdd a b else if op = 1 then flMin a b else flMax a b)
  else
    let a := etInt et x
    let b := etInt et y
    if op = 0 then (x + y) % 2 ^ etWidth et else if op = 1 then (if a < b then x else y) else (if a < b then y else x)

/-- A single contributing element, a NaN made canonical (R206). -/
def redOne (et : Et) (x : Nat) : Nat := if et.isFloat then flRes et (flElem et x) else x

/-- The running result after the first `n` elements, in ascending order. -/
def redRun (op : Nat) (et : Et) (v : W256) (mask : W32) : Nat → Option Nat
  | 0 => none
  | n + 1 =>
    let acc := redRun op et v mask n
    if bit mask.toNat n then
      let x := elem v (etWidth et) n
      (match acc with | none => some (redOne et x) | some y => some (redOp op et y x))
    else acc

/-- The result with no contributing element (R206). -/
def redNone (op : Nat) (et : Et) : Nat :=
  if et.isFloat then (if op = 0 then 0 else flInf (fmtOf et) (op == 2))
  else wrapInt (etWidth et) (if op = 0 then 0 else if op = 1 then etMax et else etMin et)

/-- A reduction (R206). -/
def reduce (op : Nat) (sd a : BitVec 4) (et : Et) (mk : BitVec 2) (s : State) : Ans :=
  s.needs (etFeat et) fun s =>
  let x := s.me
  .next (s.passS (sHi sd) (extScalar et ((redRun op et (x.vr a) (x.mr mk.toNat) (etCount et)).getD (redNone op et))))

/-- VREDADD (R206). -/
def execVredadd (sd a : BitVec 4) (et : Et) (mk : BitVec 2) (s : State) : Ans := reduce 0 sd a et mk s
/-- VREDMIN (R206). -/
def execVredmin (sd a : BitVec 4) (et : Et) (mk : BitVec 2) (s : State) : Ans := reduce 1 sd a et mk s
/-- VREDMAX (R206). -/
def execVredmax (sd a : BitVec 4) (et : Et) (mk : BitVec 2) (s : State) : Ans := reduce 2 sd a et mk s
/-- VSCAN (R206). -/
def execVscan (d a : BitVec 4) (et : Et) (mk : BitVec 2) (s : State) : Ans :=
  vecWord (etFeat et) (etWidth et) d mk (fun x k => (redRun 0 et (x.vr a) (x.mr mk.toNat) (k + 1)).getD 0) s

/-! Permutations (R207) -/

/-- VPERM (R207). -/
def execVperm (d a b : BitVec 4) (et : Et) (mk : BitVec 2) (s : State) : Ans :=
  let w := etWidth et
  vecWord 1 w d mk (fun x k => elem (x.vr a) w (elem (x.vr b) w k % etCount et)) s

/-- VCOMPRESS: position `j` takes the j-th selected element where there is one (R207). -/
def execVcompress (d a : BitVec 4) (mb : BitVec 3) (et : Et) (mk : BitVec 2) (s : State) : Ans :=
  s.needs 1 fun s =>
  let x := s.me
  let w := etWidth et
  let sel := (List.range (etCount et)).filter fun k => bit (x.mr mb.toNat).toNat k
  .next (s.passV d (govern w (x.mr mk.toNat) (x.vr d) fun j => match sel[j]? with
    | some k => elem (x.vr a) w k
    | none => elem (x.vr d) w j))

/-- VSREAD: four items; HELD while a bound producer may still bring them, QIDLE else. A word that has waited takes the four items that came
before its binding ended (R211). -/
def execVsread (d : BitVec 4) (q : BitVec 2) (s : State) : Ans :=
  s.needs 1 fun s =>
  let r := s.me.st q.toNat
  if r.src = none ∧ (s.me.woken = false ∨ r.items.length < 4) then s.precise 8 0 (w64 q.toNat)
  else if r.items.length < 4 then (if r.last then s.precise 8 0 (w64 q.toNat) else .next (s.holdFor (.stream q.toNat 4)))
  else
    let v := (List.range 4).foldl (fun a i => a + (r.items.getD i 0).toNat * 2 ^ (64 * i)) 0
    .next ((s.modMe fun x => x.modSt q.toNat (·.take 4)).passV d (BitVec.ofNat 256 v))

end Sys2Proof.Machine
end

