-- ==== Sys2Proof/Machine/Dispatcher.lean ====
section
/-! DEFINITION. The dispatchers: candidates for an EMPTY slot, binding a task to it, restores from a core's wait list, the move
of a HELD task to that list, quiet lines (R172, R254, R255, R269 to R272, R276, R298). -/
namespace Sys2Proof.Machine

/-! Skeins (R269, R270) -/

def skPrio (d : W512) : Nat := fld d.toNat 0 4
def skCeiling (d : W512) : Nat := fld d.toNat 4 4
def skWeight (d : W512) : Nat := fld d.toNat 8 8
def skPlace (d : W512) : Nat := fld d.toNat 16 12
def skAge (d : W512) : Nat := fld d.toNat 32 32
def skCseq (d : W512) : W64 := w64 (fld d.toNat 64 64)

/-- Whether a skein's descriptor is one that NNEW accepts (R269, R287). -/
def skeinOk (d : W512) : Bool :=
  decide (skPrio d ≤ skCeiling d ∧ 1 ≤ skWeight d ∧ fld (skPlace d) 0 3 ≤ 4) && fld (skPlace d) 8 3 == 0 && fld d.toNat 128 384 == 0 &&
    (skCseq d == 0 || ((skCseq d).toNat % 8 == 0 && addrOk false (skCseq d) && plainTag (skCseq d)))

/-- The effective level of a skein (R270). -/
def State.skLevel (s : State) (k : Skein) : Nat :=
  if skAge k.desc = 0 then skPrio k.desc
  else Min.min (skCeiling k.desc) (skPrio k.desc + (s.cycle - k.since) / (1024 * skAge k.desc))

/-- The smallest of some virtual times. -/
def minVt : List Rat → Option Rat
  | [] => none
  | v :: l => match minVt l with
    | none => some v
    | some m => some (if v < m then v else m)

/-- A skein with other stitches; one that holds none leaves the eligible set (R270). -/
def Skein.hold (k : Skein) (items : List Queued) : Skein := { k with items := items, level := if items.isEmpty then none else k.level }

/-- Skeins that enter the eligible set of a level take at least the smallest virtual time of that set (R270). -/
def State.enterSkeins (s : State) : State :=
  let lvl := fun (k : Skein) => if k.items.isEmpty then none else some (s.skLevel k)
  let one := fun (k : Skein) =>
    let l := lvl k
    if l = none ∨ l = k.level then { k with level := l } else
    let set := (s.skeins.filter fun q => q.level == l && lvl q == l).map (·.vt)
    match minVt set with
    | some m => { k with level := l, vt := if k.vt < m then m else k.vt }
    | none => { k with level := l }
  { s with skeins := s.skeins.map one }

/-- A descriptor marked stale by a KSYNC is read again, its completion word rewritten relative to the core that made the skein
(R269, R276); one that cannot be read, or that NNEW would refuse, leaves the old one (log entry 22). -/
def State.rebindSkein (s : State) (k : Skein) : State :=
  if ¬ k.stale then s else
  let got := if tagOf k.descAt = 4 then s.global k.cluster k.ctx k.descAt 64 .read 0 else .ok (s, lKey k.descAt)
  let put := fun (s : State) (d : W512) =>
    let fix := fun (x : Skein) => if x.name == k.name then { x with desc := d, stale := false } else x
    ({ s with skeins := s.skeins.map fix } : State)
  match got with
  | .ok (s, key) =>
    let d := BitVec.ofNat 512 (s.nat key 64)
    if skeinOk d && ! s.poisoned key 64 then put s (BitVec.ofNat 512 (putFld d.toNat 64 64 (rewrite k.maker (skCseq d)).toNat)) else put s k.desc
  | .bad s _ => put s k.desc
  | .wait _ => s

/-- 1 added to the 64-bit word of a control block at `a`, a release at scope `sc` of what its agent has observed, which it waits for; `pre`
of it happens-before the write (R269, R314, R315). -/
def State.bump (s : State) (cl c : Nat) (ctx : BitVec 16) (a : W64) (sc : Scope) (obs pre : List Nat) : Got State :=
  if ! s.visible sc c obs then .wait [] else
  let got := if tagOf a = 4 then s.global cl ctx a 8 .rmw 2 else .ok (s, lKey a)
  match got with
  | .ok (s, key) => .ok (s.writeAtomic key 8 (s.nat key 8 + 1) (relOf sc c obs pre))
  | .bad s f => .bad s f
  | .wait h => .wait h

/-! Candidates (R269, R270, R272) -/

/-- A stitch on a list, or an entry of the core's wait list. -/
inductive Cand where
  /-- a due entry of the core's wait list, by its number -/
  | wait (id : Nat)
  /-- a stitch of a cluster's ready list, by its place -/
  | list (cl i : Nat)
  /-- the head of a skein -/
  | skein (nm : W128)
  deriving DecidableEq, Repr

/-- What a decision weighs of a candidate: its level, its kind's turn (wait list, ready list, skein), virtual time, since when
it stands at its list's head and since when it is listed, features, class, context, the cluster it is anchored at and its preferred core;
and what its next accesses are ordered after. -/
structure Offer where
  c : Cand
  level : Nat
  turn : Nat
  vt : Rat
  since : Nat
  born : Nat
  feat : Nat
  eclass : Nat
  ctx : BitVec 16
  st : W512
  anchorCl : Nat
  anchorCore : Nat
  obs : List Nat
  pre : List Nat
  seen : List RelInfo
  fence : List RelInfo

/-- Whether core `c` lies in a stitch's effective placement (R251, R269). -/
def Offer.placed (o : Offer) (c : Nat) : Bool :=
  o.turn == 0 || (inPlace (stScope o.st) o.anchorCl o.anchorCore c && frameAllows (stFrame o.st) c)

/-- Whether a dispatcher of cluster `cl` may take a stitch (R269). -/
def State.admits (s : State) (o : Offer) (cl : Nat) : Bool :=
  o.turn == 0 || cl == o.anchorCl || stSpread o.st || decide (o.since + 4096 ≤ s.cycle) ||
    ! anyFrom (fun c => maskHas (s.coreFeat c) o.feat) 32 (32 * o.anchorCl)

/-- The ring of slot `g`: word, head, tail (R267). -/
def State.ring (s : State) (g : Nat) : Nat × Nat × Nat := (s.nat (pageKey g 0x20) 8, s.nat (pageKey g 0x28) 4, s.nat (pageKey g 0x2C) 4)

/-- Entries free in a queue of command words (R27). -/
def Queue.room (q : Queue) : Nat := 32 - q.cmds.foldl (fun n c => n + if c.two then 2 else 1) 0
/-- The pushes that wait for room in a queue, in the order in which they began to wait; one whose slot waits no more has pushed
nothing (R32). -/
def State.queueing (s : State) (c : Nat) (eng : Eng) : List (Nat × Nat × W512) :=
  (s.queue c eng).waiters.filter fun w => (s.slot (4 * c + w.1)).state == .held && (s.slot (4 * c + w.1)).hold == .room eng

/-- Whether what a HELD slot `g` with the registers `x` waits for holds (R27, R112, R119, R187, R211, R268, R295, R297). -/
def State.holds (s : State) (g : Nat) (x : Slot) : Bool :=
  match x.hold with
  | .none => true
  | .stream q n => decide (n ≤ (x.st q).items.length) || (x.st q).src.isNone || (x.st q).last
  | .recv => let (w, h, t) := s.ring g; ! bit w 18 || h != t
  | .waita _ _ _ _ _ got => got.isSome
  | .room eng =>
    (match s.queueing (coreOf g) eng with
      | (k, n, _) :: _ => (s.slot g).hold == .room eng && k == g % 4 && decide (n ≤ (s.queue (coreOf g) eng).room)
      | [] => decide (0 < (s.queue (coreOf g) eng).room))
  | .chains 0 => ! s.chains.any fun c => c.g == g && c.seg != x.seg
  | .chains n => decide (s.chainsOf g < n)
  | .listFull p => s.nseRoom (s.parkDie p)

/-- The entries of core `c`'s wait list due for its slot `k`. -/
def State.dueEntries (s : State) (c k : Nat) : List WaitEntry := (s.core c).waitList.filter fun w => w.k == k && s.holds (4 * c + k) w.slot

/-- The heads of a ready list: a stitch with none of its level before it. -/
def headsOf (cl : Nat) (i : Nat) (before : List Nat) : List Ready → List Offer
  | [] => []
  | r :: l =>
    let p := stPrio r.st
    let rest := headsOf cl (i + 1) (p :: before) l
    if before.contains p then rest
    else ⟨.list cl i, p, 1, 0, r.since, r.born, stFeat r.st, stEclass r.st, stCtx r.st, r.st, cl, r.core, r.obs, r.obs, r.seen, r.fence⟩ :: rest

/-- Everything that could be bound to slot `k` of core `c`, features and energy aside (R270). -/
def State.offers (s : State) (c k : Nat) : List Offer :=
  let due := (s.dueEntries c k).map fun (w : WaitEntry) =>
    (⟨.wait w.id, w.slot.prio.toNat, 0, 0, w.since, w.since, w.slot.feat.toNat, w.slot.eclass.toNat, w.slot.ctx, 0, clusterOf c, c, [], [], [], []⟩ : Offer)
  let lists : List Offer := s.clusters.flatMap fun (e : Nat × Cluster) => headsOf e.1 0 [] e.2.ready
  let heads : List Offer := s.skeins.filterMap fun (q : Skein) => match q.items with
    | [] => none
    | i :: _ => some ⟨.skein q.name, s.skLevel q, 2, q.vt, q.since, i.since, stFeat i.st, stEclass i.st, stCtx i.st, i.st, q.cluster,
        32 * q.cluster + stPcore i.st, i.obs, i.pre, [], []⟩
  due ++ (lists ++ heads).filter fun o => o.placed c && s.admits o (clusterOf c)

/-- Whether a class has used its quota in the window (R272, R350). -/
def State.overQuota (s : State) (d e : Nat) : Bool :=
  let q := ((s.die d).gov.quota.get 0xFFFFFFFF e).toNat
  decide (q ≠ 0xFFFFFFFF ∧ 1000 * q ≤ ((s.die d).gov.used.get 0 e).toNat)
/-- Energy of each of the 16 classes charged since the last decision; what activity gives is a free value (R272, R350). -/
def State.charge (s : State) (d : Nat) : State :=
  (List.range 16).foldl (fun s e =>
    let (v, s) := s.free
    s.modDie d fun x => { x with gov := { x.gov with used := x.gov.used.set 0 e (w64 (Min.min ((x.gov.used.get 0 e).toNat + fld v.toNat 0 32) (2 ^ 32 - 1))) } }) s
/-- A candidate is dropped for energy (R272). -/
def State.deferred (s : State) (c : Nat) (o : Offer) : Bool :=
  s.overQuota (dieOf c) o.eclass && decide (o.level < (s.cluster (clusterOf c)).exempt.toNat)
/-- A candidate that core `c` has the features for; none of a context that is being killed (R270, R328). -/
def State.suits (s : State) (c : Nat) (o : Offer) : Bool :=
  maskHas (s.coreFeat c) o.feat && (match s.killing with | some (k, _) => k != o.ctx | none => true)

/-- Whether a candidate goes before another: level, then turn, then virtual time of skeins, then the older stitch
(R270). -/
def Offer.first (a b : Offer) : Bool :=
  if a.level ≠ b.level then decide (b.level < a.level)
  else if a.turn ≠ b.turn then decide (a.turn < b.turn)
  else if a.vt ≠ b.vt then decide (a.vt < b.vt)
  else decide (a.born ≤ b.born)
/-- The candidate taken. -/
def bestOffer : List Offer → Option Offer
  | [] => none
  | o :: l => match bestOffer l with
    | none => some o
    | some b => some (if o.first b then o else b)

/-- EMPTY slots of a core. -/
def State.empties (s : State) (c : Nat) : Nat := ((List.range 4).filter fun k => (s.slot (4 * c + k)).state == .empty).length
/-- Whether a candidate could be bound to core `c` now. -/
def State.fits (s : State) (o : Offer) (c : Nat) : Bool :=
  o.placed c && s.enabled c && maskHas (s.coreFeat c) o.feat && decide (0 < s.empties c)
/-- The core of a cluster that takes a stitch: its preferred one, else the one with the most EMPTY slots, the lowest of those
(R269). -/
def State.coreFor (s : State) (o : Offer) (cl : Nat) : Nat :=
  let want := 32 * cl + stPcore o.st
  if s.fits o want then want else
  (List.range 32).foldl (fun b i =>
    let c := 32 * cl + i
    if s.fits o c && (! s.fits o b || decide (s.empties b < s.empties c)) then c else b) (32 * cl)

/-- Some candidate can be bound to core `c`; none to a halted die (R271, R336). -/
def State.bindable (s : State) (c : Nat) : Bool :=
  s.enabled c && (List.range 4).any fun k => (s.slot (4 * c + k)).state == .empty && (s.slot (4 * c + k)).packet.isNone &&
    (s.offers c k).any fun o => s.suits c o && ! s.deferred c o
/-- A core's quiet line: no slot RUNNING and no candidate can be bound to it (R271). -/
def State.quiet (s : State) (c : Nat) : Bool :=
  (List.range 4).all (fun k => (s.slot (4 * c + k)).state != .running) && ! s.bindable c

/-! Binding (R172, R179, R254) -/

/-- The registers of a slot bound to stitch `st` (R172, R173); s12 to s31 and a task's name wait for the restore; the order that the
task's earlier accesses and fences laid on its next ones holds on (R97, R274). -/
def Slot.bound (x : Slot) (st : W512) (descs : Tab (BitVec 128)) (task : Nat) (obs : List Nat) (seen fence : List RelInfo) : Slot :=
  let x := { x.vacate with
    state := .running, pc := BitVec.ofNat 48 (stPc st), rstpc := BitVec.ofNat 48 (stPc st), prio := BitVec.ofNat 4 (stPrio st), ctx := stCtx st,
    feat := BitVec.ofNat 32 (stFeat st), eclass := BitVec.ofNat 4 (stEclass st), place := BitVec.ofNat 12 (stPlace st), named := stNamed st,
    fsp := stFrame st, restoring := stFrame st != 0, descs := descs, task := task, obs := obs, hb := obs,
    seen := seen, fence := fence }
  (((x.setS 8 (stLive st 0)).setS 9 (stLive st 1)).setS 10 (stLive st 2)).setS 11 (stLive st 3)

/-- The restore before the first instruction: s12 to s31 from below the frame pointer, a named task's name at it; a fault but
NOTPRESENT freezes the slot (R179, R254, R259, R265, R346). -/
def State.restoreWindow (s : State) (g : Nat) : State :=
  let x := s.slot g
  let fault := fun (t : State) (f : FaultInfo) => if s.evictWaits g f then s.ckWant [ctxKey g] else t.wordFault g f
  match s.loadRun g (x.fsp - 160) 20 with
  | (s, .ok l) =>
    let fin := fun (s : State) (nm : W128) => s.modSlot g fun x =>
      let x := (List.range 20).foldl (fun x i => Slot.setS x (BitVec.ofNat 5 (12 + i)) (l.getD i 0)) x
      { x with fsp := x.fsp - 160, restoring := false, name := nm, taskid := if x.named then nmSerial nm else 0 }
    if ¬ x.named then fin s 0 else
    (match s.loadRun g x.fsp 2 with
      | (s, .ok n) => fin s (BitVec.ofNat 128 ((n.getD 0 0).toNat + (n.getD 1 0).toNat * 2 ^ 64))
      | (s, .bad f) => fault s f
      | (s, .wait h) => s.ckWant h)
  | (s, .bad f) => fault s f
  | (s, .wait h) => s.ckWant h

/-- The chains and the guard notes of the task that was known as `a` go to where it is known as `b` (R131, R255). -/
def State.followTask (s : State) (a b : Nat) : State :=
  { s with chains := s.chains.map fun h => if h.g = a then { h with g := b } else h
           notes := s.notes.map fun n => if n.g = a then { n with g := b } else n }

/-- A wait-list entry restored into the slot it left (R255); a local WAITA that its word has satisfied takes its value and goes
on (R295). -/
def State.restoreEntry (s : State) (c : Nat) (w : WaitEntry) : State :=
  let g := 4 * c + w.k
  let own := s.slot g
  let x := { w.slot with
    cpNum := own.cpNum, mxNum := own.mxNum, spillbase := own.spillbase, lastCause := own.lastCause, cmdStatus := own.cmdStatus, busy := own.busy,
    npre := own.npre, faults := own.faults, stepSeq := own.stepSeq, packet := own.packet,
    woken := w.slot.streamHeld, state := .running, hold := .none, descs := s.protSet (clusterOf c) w.slot.ctx }
  let x := match w.slot.hold with
    | .waita _ _ d _ _ (some v) => ((x.setS d v).next).moved
    | _ => x
  let t : State := { s.followTask w.id g with trapped := false }
  (t.modCore c fun k => { k with waitList := k.waitList.filter fun y => y.id != w.id }).setSlot g x

/-- A taken candidate bound to slot `g`; a skein counts the hand-out in its completion word (R269, R270). -/
def State.bind (s : State) (g : Nat) (o : Offer) : State :=
  let c := coreOf g
  let take := fun (s : State) =>
    ((({ s with nextId := s.nextId + 1 }.modSlot g fun x =>
      x.bound o.st (s.protSet (clusterOf c) o.ctx) s.nextId (s.live o.obs) (s.carry o.seen) o.fence).run g).modCluster (clusterOf c)
      fun k => { k with dispatched := k.dispatched + 1 })
  match o.c with
  | .wait id => match (s.core c).waitList.find? fun w => w.id == id with
    | some w => s.restoreEntry c w
    | none => s
  | .list cl i => take (s.modCluster cl fun k => { k with ready := leaveReady s.cycle (fun j _ => j == i) k.ready })
  | .skein nm => match s.skeins.find? fun k => k.name == nm with
    | none => s
    | some k =>
      let out := fun (x : Skein) => if x.name == nm then
        { x.hold (x.items.drop 1) with vt := x.vt + 1 / (skWeight x.desc : Rat), since := s.cycle } else x
      let sc := scopeOf (fld (skPlace k.desc) 0 3)
      let sc := if sc = .none then .device else sc
      let t : State := { s with skeins := s.skeins.map out }
      if skCseq k.desc = 0 then take t else
      (match t.bump k.cluster (32 * k.cluster) k.ctx (skCseq k.desc) sc o.obs o.pre with
        | .ok u => take u
        | .bad t _ => take t
        | .wait h => s.ckWant h)

/-- DISPATCH: an EMPTY slot takes the best candidate, if its core is the one the placement names (R269, R270); a slot that
still keeps a packet takes none (R322). What the
candidate carries must be visible at the new core first (R274). -/
def execDispatch (g : Nat) (s : State) : Ans :=
  let c := coreOf g
  if (s.slot g).state ≠ .empty ∨ (s.slot g).packet.isSome ∨ ¬ s.enabled c ∨ s.paused c then .next s else
  let s := ((s.skeins.foldl State.rebindSkein s).enterSkeins).charge (dieOf c)
  let all := (s.offers c (g % 4)).filter fun o => s.suits c o
  let late := all.any fun o => s.deferred c o
  let s := if late then s.modCluster (clusterOf c) fun k => { k with deferred := k.deferred + 1 } else s
  match bestOffer (all.filter fun o => ! s.deferred c o) with
  | none => .next s
  | some o =>
    if o.turn ≠ 0 ∧ s.coreFor o (clusterOf c) ≠ c then .next s
    else if ¬ s.visible .cluster c o.obs then .next s
    else .next (s.bind g o)

/-! The hold limit (R255, R298) -/

/-- The oldest local WAITA of core `c`'s wait list that has a frame stack and neither a guard record nor a guard note on its way: DESIGN
CHOICE, a stitch has no place for the record, which the task's next suspension point reports (R131, R298; log entry 82). -/
def State.swappable (s : State) (c : Nat) : Option WaitEntry :=
  (s.core c).waitList.find? fun w => (match w.slot.hold with | .waita .. => true | _ => false) && w.slot.fsp != 0 &&
    w.slot.guard.isNone && ! s.notes.any fun n => n.g == w.id
/-- The NSEs' wait lists with a stitch in its place in the order of arrival (R297). -/
def insertParked (p : Parked) (l : List Parked) : List Parked := (l.takeWhile fun q => decide (q.id < p.id)) ++ p :: l.dropWhile fun q => decide (q.id < p.id)

/-- An entry swapped out to memory: as at a suspension point it has no chain outstanding, its CPYS bindings end and it is saved; then it
is a WAITING stitch on its word's wait list, at its place in the order of arrival, or READY on the ready list where its word was satisfied
first; whether it was: it stays where it must wait, where the NSE has no room for it, and where its save fails, which counts what it has
performed (R253, R297, R298). -/
def State.swapOut (s : State) (c : Nat) (w : WaitEntry) : State × Bool :=
  let g := 4 * c + w.k
  let own := s.slot g
  match w.slot.hold with
  | .waita key thr d sc n got =>
    let p : Parked := ⟨n, g, .word key thr, 0, d, sc, clusterOf c, c, mkAddr 2 key, w.slot.obs, w.slot.seen, w.slot.fence⟩
    if s.chainsOf w.id ≠ 0 ∨ ! s.nseRoom (s.parkDie p) then (s, false) else
    (match (s.setSlot g w.slot.endCpys).saveWindow g with
    | (t, .ok _) =>
      let p := { p with st := t.stitch g w.slot.pc 1 }
      let t := (t.setSlot g own).modCore c fun k => { k with waitList := k.waitList.filter fun y => y.id != w.id }
      (match got with
        | some v => (t.unpark p v [], true)
        | none => ({ t with parked := insertParked p t.parked }, true))
    | (t, .bad _) => (t.setSlot g own, false)
    | (_, .wait h) => (s.ckWant h, false))
  | _ => (s, false)

/-- HOLD_LIMIT: a task HELD on a stream register, RECV or a local WAITA for HOLDLIM cycles moves to the core's wait list of 4; a
full list tries again after HOLDLIM more (R255). Hold counts stand still on a halted die (R336); a slot that a pre-empt stops does not move (R330). -/
def execHoldLimit (g : Nat) (s : State) : Ans :=
  let c := coreOf g
  let x := s.slot g
  let moves : Bool := match x.hold with | .stream .. | .recv | .waita .. => true | _ => false
  if x.state ≠ .held ∨ ¬ moves ∨ x.preempting ∨ s.cycle < x.heldSince + x.holdlim.toNat ∨ s.paused c ∨ s.loading g ∨ s.storing g then .next s else
  let s := if (s.core c).waitList.length < 4 then s else match s.swappable c with
    | some w => (s.swapOut c w).1
    | none => s
  if 4 ≤ (s.core c).waitList.length then .next (s.modSlot g fun x => { x with heldSince := s.cycle }) else
  let id := s.nextId + Config.slots
  let t := ({ s with nextId := s.nextId + 1 } : State).followTask g id
  let t := t.modCore c fun k => { k with waitList := k.waitList ++ [⟨id, g % 4, { x with stepping := false, stepDone := false, begun := false, stamped := false, sig := none, prevBlock := none }, s.cycle⟩] }
  .next (t.vacate g)

end Sys2Proof.Machine
end

