-- ==== Sys2Proof/Machine/WindowRead.lean ====
section
/-! DEFINITION. What reads of the windows return: tag 0x3 (R130, R150, R215, R271) and the blocks of tag 0xF (R78, R128,
R133, R303, R319, R322, R324, R326, R328, R338, R351). A register that is not there, or is write-only, reads 0. -/
namespace Sys2Proof.Machine

/-- Coding of a slot's state (R271). -/
def stateCode : SlotState → Nat
  | .empty => 0 | .running => 1 | .held => 2 | .frozen => 3 | .preempted => 4

/-- What the head of a queue tells in CPQSTAT and MXQSTAT: entries used, stopped, slot (R150, R215). -/
def Queue.stat (q : Queue) : Nat :=
  32 - q.room + (match q.cmds with
    | [] => 0
    | c :: _ => b2n (c.phase == .stopped) * 2 ^ 6 + c.g % 4 * 2 ^ 8)

/-! Whose a command is (R160, R255) -/

/-- The task that `g` names: a slot's, or that of a wait-list entry, by its number (R255). -/
def State.holder (s : State) (g : Nat) : Option (Nat × Slot) :=
  if g < Config.slots then (if (s.slot g).state = .empty then none else some (g, s.slot g))
  else s.cores.findSome? fun e => (e.2.waitList.find? fun w => w.id == g).map fun w => (4 * e.1 + w.k, w.slot)
/-- The task that pushed a command: in its slot, on its core's wait list, or gone (R255). -/
def State.pusher (s : State) (c : Nat) (k : Cmd) : Option Nat :=
  if (s.slot k.g).state ≠ .empty ∧ (s.slot k.g).task = k.task then some k.g
  else ((s.core c).waitList.find? fun w => w.k == k.g % 4 && w.slot.task == k.task).map (·.id)
/-- Whose register a CPYS binds: its task's, wherever that waits; its slot's once the task has left (R160, R255). -/
def State.binds (s : State) (c : Nat) (k : Cmd) : Nat := (s.pusher c k).getD k.g

/-- The copy engine's window (R150). -/
def State.copyWin (s : State) (cl i : Nat) : Nat :=
  if i < 0x100 then
    let q := (s.core (32 * cl + i / 8)).copyQ
    q.stat + (match q.cmds with
      | [] => 0
      | c :: _ => b2n (c.phase == .staging) * 2 ^ 7 +
          b2n (c.op == 2 && c.phase == .fresh && (match s.holder (s.binds (32 * cl + i / 8) c) with
            | some (_, x) => (x.st (fld c.w.toNat 144 2)).src.isSome
            | none => false)) * 2 ^ 10 + c.op * 2 ^ 11)
  else if i = 0x100 then (s.cluster cl).copyLines.toNat
  else if i = 0x108 then (s.cluster cl).copyStall.toNat
  else 0

/-! The passes of an array (R7, R228, R350) -/

/-- 16·ramp times the passes a unit makes in the `u` cycles after its permit: from one in 8 cycles, linearly, to one a cycle
(R228). -/
def rampSum (ramp u : Nat) : Nat := if u ≤ ramp then 2 * ramp * u + 7 * u * u else 9 * ramp * ramp + 16 * ramp * (u - ramp)
/-- The cycles that `n` passes take from `u` cycles after the permit on (R7, R228). -/
def rampCycles (ramp u n : Nat) : Nat :=
  if ramp ≤ u then n else ((List.range (8 * n + 1)).find? fun d => decide (rampSum ramp u + 16 * ramp * n ≤ rampSum ramp (u + d))).getD (8 * n)

/-- The same for cluster `cl` from cycle `at_`, under the throttle or not (R228, R350). -/
def State.passTime (s : State) (cl at_ n : Nat) (throttle : Bool) : Nat :=
  let d := rampCycles (s.die (cl / 32)).gov.ramp.toNat (at_ - (s.cluster cl).rampStart) n
  if throttle then Max.max d (2 * n) else d
/-- The passes of a block of `n`, begun `since`, that cluster `cl` has performed by now (R228, R350). -/
def State.passesDone (s : State) (cl since n : Nat) (throttle : Bool) : Nat :=
  let ramp := (s.die (cl / 32)).gov.ramp.toNat
  let u := since - (s.cluster cl).rampStart
  let d := s.cycle - since
  let done := if ramp ≤ u then d else (rampSum ramp (u + d) - rampSum ramp u) / (16 * ramp)
  Min.min n (if throttle then Min.min done (d / 2) else done)

/-- The passes that cluster `cl`'s array has performed: all of the blocks granted, less those of the block in it that are still to come
(R215). -/
def State.passesNow (s : State) (cl : Nat) : W64 :=
  let k := s.cluster cl
  match k.passing with
  | some (_, since, n, slow) => if s.cycle < k.lastPass then k.passes - w64 (n - s.passesDone cl since n slow) else k.passes
  | none => k.passes

/-- The matrix unit's window (R215). -/
def State.matrixWin (s : State) (cl i : Nat) : Nat :=
  if i < 0x100 then (s.core (32 * cl + i / 8)).share.toNat
  else if i < 0x200 then
    let c := s.core (32 * cl + (i - 0x100) / 8)
    c.mxQ.stat + (match c.mxQ.cmds with
      | k :: _ => (match k.phase with | .replay _ => 2 ^ 7 | _ => 0)
      | [] => 0) + b2n c.fmt.isSome * 2 ^ 10 + (List.range 8).foldl (fun n k => n + b2n (c.stages.get Stage.reset k).reg * 2 ^ (11 + k)) 0
  else if i = 0x200 then (s.passesNow cl).toNat
  else if i = 0x208 then
    let k := s.cluster cl
    k.permitWait.toNat + (if k.permitAsked then s.cycle - k.permitSince else 0)
  else 0

/-- The dispatcher's window (R271). -/
def State.dispWin (s : State) (cl i : Nat) : Nat :=
  let k := s.cluster cl
  if i < 0x100 then
    let c := 32 * cl + i / 8
    (List.range 4).foldl (fun n j => n + stateCode (s.slot (4 * c + j)).state * 2 ^ (3 * j)) 0 + (s.core c).waitList.length * 2 ^ 15 +
      b2n (s.quiet c) * 2 ^ 18 + s.coreFeat c * 2 ^ 32
  else match i with
    | 0x100 => k.exempt.toNat
    | 0x108 => k.cap.toNat
    | 0x110 => k.dispatched.toNat
    | 0x118 => k.deferred.toNat
    | _ => 0

/-- The slot view: live registers of a FROZEN slot, the context area of a PREEMPTED one, zero otherwise (R326). -/
def State.slotViewRead (s : State) (g off n : Nat) : Nat :=
  let x := s.slot g
  match x.state with
  | .frozen => memNat (x.save (s.chainsOf g) (s.mxOf g x.task) 0 []) off n
  | .preempted => s.nat (ctxKey g + off) n
  | _ => 0

/-- Slot control (R324). -/
def State.slotReg (s : State) (g i : Nat) : Nat :=
  let x := s.slot g
  match i with
  | 0x08 => stateCode x.state + x.lastCause.toNat * 2 ^ 3 + x.cmdStatus.toNat * 2 ^ 11 + b2n x.busy * 2 ^ 14 + b2n x.npre * 2 ^ 15
  | 0x10 => x.spillbase.toNat
  | 0x18 => x.faults.toNat
  | 0x20 => x.stepSeq.toNat
  | _ => 0

/-- Core debug: the trace buffer and its registers (R338). -/
def State.traceReg (s : State) (c i : Nat) : Nat :=
  let t := (s.core c).trace
  if i < 0x1000 then fld (t.recs.get 0 (i / 32)).toNat (8 * (i % 32)) 64
  else match i with
    | 0x1000 => t.ctl.toNat
    | 0x1008 => t.cmp.toNat
    | 0x1010 => t.idx.toNat + b2n t.wrapped * 2 ^ 7 + b2n t.triggered * 2 ^ 8 + b2n t.frozen * 2 ^ 9
    | _ => 0

/-- The home network interface (R78). -/
def State.homeReg (s : State) (d i : Nat) : Nat :=
  let x := s.die d
  match i with
  | 0x00 => x.ctxtab.toNat
  | 0x08 => x.tcva.toNat
  | 0x18 => b2n x.tcinv.isSome + b2n x.rhreq.isSome * 2 + x.migs.length * 4
  | 0x28 => x.rhstat.toNat + b2n x.rhdone * 2 ^ 8
  | 0x38 => x.smpctl.toNat
  | 0x40 => x.smpbase.toNat
  | 0x48 => x.smphead.toNat
  | 0x50 => x.smptail.toNat
  | 0x58 => x.smpdrop.toNat
  | 0x60 => x.fwdcnt.toNat
  | 0x68 => x.walkcnt.toNat
  | 0x70 => x.systab.toNat
  | _ => 0

/-- WLOAD commands queued or running on a die (R133). -/
def State.wloads (s : State) (d : Nat) : Nat :=
  s.cores.foldl (fun n e => if dieOf e.1 = d then n + (e.2.copyQ.cmds.filter fun c => c.op == 7).length else n) 0

/-- The weight store (R133). DESIGN CHOICE: WSSTAT counts its WLOADs modulo 256 in the 8 bits of the field; the spec names no value beyond
255 (log entry 85). -/
def State.wsReg (s : State) (d i : Nat) : Nat :=
  let x := s.die d
  match i with
  | 0x00 => b2n x.wsRead + x.wsCtx.toNat * 2 ^ 16
  | 0x08 => b2n x.wsWant.isSome + s.wloads d % 256 * 2
  | 0x10 => s.wsPhase d
  | 0x18 => x.wsStalls.toNat
  | 0x20 => x.wsStallCyc.toNat
  | _ => 0

/-- The NSE (R303). -/
def State.nseReg (s : State) (d i : Nat) : Nat :=
  let x := s.die d
  match i with
  | 0x00 => x.ovfbase.toNat
  | 0x08 => x.ovfsize.toNat
  | 0x10 => (s.names.filter fun e => ! e.dying && (Config.sliceOf (nmSerial e.name)).val == d).length
  | 0x18 => (s.parked.filter fun p => s.parkDie p == d).length
  | 0x20 => x.badname.toNat
  | 0x28 => x.tmwake.toNat
  | 0x30 => b2n (! anyFrom (fun c => ! s.quiet c) 1024 (1024 * d)) + b2n s.trapped * 2
  | _ => 0

/-- Whether a command has begun and is not done (R151, R213). -/
def Cmd.running (c : Cmd) : Bool := match c.phase with
  | .fresh | .stopped => false
  | _ => true

/-- Die debug (R328). -/
def State.debugReg (s : State) (d i : Nat) : Nat :=
  match i with
  | 0x00 => b2n (s.die d).halt
  | 0x08 => b2n (s.die d).halt + b2n ((s.die d).halt && s.cores.any fun e => dieOf e.1 == d && (e.2.copyQ.cmds ++ e.2.mxQ.cmds).any Cmd.running) * 2
  | 0x18 => b2n s.killing.isSome + s.lastKill.toNat * 2 ^ 16
  | _ => 0

/-- Whether core `c` is quarantined or in a fenced cluster. -/
def State.outOfUse (s : State) (c : Nat) : Bool := (s.core c).quarantined || (s.cluster (clusterOf c)).fenced
/-- Whether a cluster's matrix unit is quarantined or fenced. -/
def State.unitOut (s : State) (k : Nat) : Bool := (s.cluster k).matrixQuarantined || (s.cluster k).fenced

/-- Whether a write to memory that die `d` streams waits under R346: one has been turned away since its range was the next wanted, and the
range has not been streamed yet (log entry 27). -/
def State.ckWaits (s : State) (d : Nat) : Bool := (s.die d).ckstream && s.ckWants.any fun r => rangeDie r == d && s.rangeHeld r

/-- Governor and monitor (R351). -/
def State.govReg (s : State) (d i : Nat) : Nat :=
  let x := s.die d
  let v := x.gov
  if 0x40 ≤ i ∧ i < 0xC0 then (v.quota.get 0xFFFFFFFF ((i - 0x40) / 8)).toNat
  else if 0xC0 ≤ i ∧ i < 0x140 then (v.used.get 0 ((i - 0xC0) / 8)).toNat
  else if 0x200 ≤ i ∧ i < 0x400 then (v.sgwin.get 0 ((i - 0x200) / 8)).toNat
  else if 0x410 ≤ i ∧ i < 0x490 then
    (List.range 64).foldl (fun n j => n + b2n (s.outOfUse (1024 * d + 64 * ((i - 0x410) / 8) + j)) * 2 ^ j) 0
  else match i with
    | 0x00 => v.cap.toNat
    | 0x08 => v.didt.toNat
    | 0x10 => v.step.toNat
    | 0x18 => v.ramp.toNat
    | 0x20 => v.exempt.toNat
    | 0x28 => b2n v.throttled
    | 0x30 => v.permits.toNat
    | 0x38 => v.throttles.toNat
    | 0x140 => v.tlbase.toNat
    | 0x148 => v.tlctl.toNat
    | 0x150 => v.tlhead.toNat
    | 0x158 => v.tltail.toNat
    | 0x160 => v.tldrop.toNat
    | 0x180 => v.volt
    | 0x188 => v.rmctl.toNat
    | 0x190 => b2n v.frozen
    | 0x198 => v.ce.toNat
    | 0x1A0 => v.ue.toNat
    | 0x1A8 => ((List.range 1024).filter fun j => s.outOfUse (1024 * d + j)).length +
        (List.range 32).foldl (fun n k => n + b2n (s.unitOut (32 * d + k)) * 2 ^ (32 + k)) 0
    | 0x400 => x.ckround.toNat
    | 0x408 => b2n x.ckcut + b2n x.ckstream * 2 + b2n (s.ckWaits d) * 4
    | _ => 0

/-- The fault queue (R322). -/
def State.faultReg (s : State) (d i : Nat) : Nat :=
  let x := s.die d
  match i with
  | 0x00 => x.fqbase.toNat
  | 0x08 => x.fqctl.toNat
  | 0x10 => x.fqheld.length
  | 0x18 => x.fqsent.toNat
  | _ => 0

/-- Whether what a read of `n` bytes of the view of slot `g` returns lies in a poisoned line (R326, R339). -/
def State.slotViewHurt (s : State) (g off n : Nat) : Bool := (s.slot g).state == .preempted && s.poisoned (ctxKey g + off) n

/-- The core, slot and offset of an index of blocks 0 to 2 (R319). -/
def idxCore (cl i : Nat) : Nat := 32 * cl + fld i 13 5
def idxSlot (cl i : Nat) : Nat := 4 * idxCore cl i + fld i 11 2

/-- The 8-byte register at an aligned index of a block of tag 0xF (R319). -/
def State.blockReg (s : State) (cl blk i : Nat) : Nat :=
  match blk with
  | 1 => s.slotReg (idxSlot cl i) (fld i 0 11)
  | 2 => s.traceReg (idxCore cl i) (fld i 0 13)
  | 3 => ((s.cluster cl).prot.get 0 (i / 8)).toNat
  | 4 => s.matrixWin cl i
  | 5 => s.dispWin cl i
  | 8 => s.homeReg (cl / 32) i
  | 9 => s.wsReg (cl / 32) i
  | 10 => s.nseReg (cl / 32) i
  | 11 => s.debugReg (cl / 32) i
  | 12 => s.govReg (cl / 32) i
  | 13 => s.faultReg (cl / 32) i
  | _ => 0

/-- The access of `n` bytes at an address of tag 0xF is one that the windows accept (R319). -/
def winSizeOk (ea : W64) (n : Nat) : Bool := n == 8 || fld ea.toNat 18 5 == 0

/-- A window of a fenced cluster: slot views, slot control and the matrix unit's block. DEDUCED: R4 names its engine and slot windows
(log entry 67). -/
def State.winFenced (s : State) (a : Nat) : Bool := (fld a 18 5 == 0 || fld a 18 5 == 1 || fld a 18 5 == 4) && (s.cluster (fld a 23 11)).fenced

/-- Whether a read of `n` bytes of a window returns poisoned bytes: those of the context of a PREEMPTED slot (R326, R339). -/
def State.windowHurt (s : State) (ea : W64) (n : Nat) : Bool :=
  let a := ea.toNat
  tagOf ea == 15 && fld a 18 5 == 0 && s.slotViewHurt (idxSlot (fld a 23 11) (fld a 0 18)) (fld a 0 11) n

/-- A read of `n` aligned bytes of a window by core `c`; none where the window refuses it (R319). -/
def State.windowRead (s : State) (c : Nat) (ea : W64) (n : Nat) : Option Nat :=
  let a := ea.toNat
  let part := fun (v : Nat) => fld v (8 * (a % 8)) (8 * n)
  if tagOf ea = 15 then
    if fld a 23 11 ≥ Config.clusters || s.winFenced a then none
    else if ¬ winSizeOk ea n then none
    else if fld a 18 5 = 0 then some (s.slotViewRead (idxSlot (fld a 23 11) (fld a 0 18)) (fld a 0 11) n)
    else some (s.blockReg (fld a 23 11) (fld a 18 5) (fld a 0 18))
  else
    let i := fld a 0 20 / 8 * 8
    match fld a 20 4 with
    | 0 => some (part (s.copyWin (clusterOf c) i))
    | 1 => some (part (s.matrixWin (clusterOf c) i))
    | 2 =>
      let b := fld a 0 20 - 0xF0000
      some (if b < 0x120 then fld (s.core c).guardMap.toNat (8 * b) (8 * n) else 0)
    | _ => some (part (s.dispWin (clusterOf c) i))

end Sys2Proof.Machine
end

