-- ==== Sys2Proof/Machine/LoadStore.lean ====
section
/-! DEFINITION. Loads and stores of every kind as they issue: plain, ordered and flagged, and the memory functions of VXL
(R88 to R99, R192, R193, R208 to R210). -/
namespace Sys2Proof.Machine

/-! Loads (R89) -/

/-- A loaded value as its register takes it: zero- or sign-extended (R88). -/
def extLoad (n : Nat) (signed : Bool) (v : Nat) : W64 := if signed then sx (8 * n) v else w64 (v % 2 ^ (8 * n))

/-- A size code (R18). -/
def sizeCode (n : Nat) : Nat := if n = 1 then 0 else if n = 2 then 1 else if n = 4 then 2 else if n = 8 then 3 else 4

/-- Whether the slot's own stores or atomics still under way touch local bytes that it loads at once. -/
def State.ownPending (s : State) (g : Nat) (ea : W64) (n : Nat) : Bool :=
  (s.out.any fun o => o.g == g && touchesEntry o.e ea n) ||
    s.amos.any fun a => a.g == g && a.addr.toNat < ea.toNat + n && ea.toNat < a.addr.toNat + 16

/-- Slot `g` has 16 loads outstanding, a vector load counting as one; the next waits (R193). -/
def State.loadsFull (s : State) (g : Nat) : Bool := decide (16 ≤ (s.loads.filter fun l => l.g == g && l.id == l.grp).length)

/-- What slot `g` meets at issue of an access of kind `kind` to another module: PERM where it knows the module is absent, TOKEN, for a
load, where its module has lost the token of the region (R100, R102). -/
def State.peerGate (s : State) (g : Nat) (ea : W64) (kind : Nat) : Option FaultInfo :=
  let a := s.canon (coreOf g) ea
  if tagOf a ≠ 8 then none
  else if s.absent (coreOf g) a then some (permFault ea kind false)
  else match s.binding (s.slot g).ctx (fld a.toNat 44 16) (fld a.toNat 21 23) with
    | some b => if kind = 0 && ! b.held then some ⟨6, ea, 0⟩ else none
    | none => none

/-- A load at `ea` that has passed its checks at issue, for register `d`, as an acquire at scope `acq` (none for a plain load),
waiting for its value if `block`: newest from the segment buffer, then from the outbound queue, then from memory (R89, R92,
R193). DESIGN CHOICE: one by tag 0x1 or 0x2 that the slot's own buffer covers whole reaches no target; its rights are not checked, the
spec does not say (R129), and a marked granule sends its guard note at issue, the spec does not say (R131; log entry 83). -/
def State.issueLoad (s : State) (ea : W64) (n : Nat) (signed : Bool) (d : BitVec 5) (acq : Scope) (block : Bool) : Ans :=
  let g := s.cur
  let c := coreOf g
  let x := s.me
  let a := s.canon c ea
  let own := tagOf ea == 0
  if x.buf.any (fun e => pendingOn e a n) then
    (if s.storing g then .next s else .next (s.handOver g (upTo (fun e => pendingOn e a n) x.buf) .drain))
  else if own && s.ownPending g a n then .next s
  else if own && ! s.localOk g x.descs 0 a n then s.precise 2 ea 0
  else if ! own && s.loadsFull g then .next s
  else
    let (v, m) := known x.buf a n
    let (qv, qm, ids, ris) := s.queued (some g) (clusterOf c) x.ctx a n
    let full := 2 ^ n - 1
    let s := s.trace g 3 x.pc (sizeCode n) ea 0
    if m = full ∨ m ||| qm = full then
      let s := s.modMe fun x => if m = full then x else x.saw c acq ris ids
      let s := if tagOf a = 2 then s.guarded g a n 0 else s
      .next (s.passS d (extLoad n signed (overlay n qv v m)))
    else if own then
      (if s.poisoned (lKey a) n then .next (s.targetFault g ⟨7, ea, 0⟩ x.pc) else
        let s := s.modMe fun x => x.saw c acq (s.carried (lKey a) n) []
        .next ((s.guarded g a n 0).passS d (extLoad n signed (overlay n (s.nat (lKey a) n) v m))))
    else
      let (s, h, f) := s.homeOf (clusterOf c) x.ctx a
      let f := if tagOf a = 5 ∧ s.wsClosing (dieOf c) then some (permFault ea 0 true) else f
      let q : LoadReq := ⟨s.nextId, s.nextId, g, clusterOf c, x.ctx, a, n, BitVec.ofNat 256 v, BitVec.ofNat 32 m, .scalar d signed, h, false, acq, x.pc, false,
        f.map Reply.fault⟩
      let s : State := { s with loads := s.loads ++ [q], nextId := s.nextId + 1 }
      .next (if block then s.modMe fun x => { x with await := .load q.grp } else s.pass)

/-- A scalar load of `n` bytes at `ea`: the checks of R67 and alignment, then the window or memory (R89, R90). Loads of local
memory and of the weight store, whose faults are precise, and acquires wait for their value; other global and system ones run on (R95,
R122, R193; log entry 16). -/
def loadAt (n : Nat) (signed : Bool) (d : BitVec 5) (ea : W64) (acq : Scope) (s : State) : Ans :=
  let c := coreOf s.cur
  if ¬ addrOk (isSup c) ea then s.precise 2 ea 0
  else if ea.toNat % n ≠ 0 then s.precise 3 ea 0
  else if tagOf ea = 3 ∨ tagOf ea = 15 then
    match s.windowRead c ea n with
    | some v =>
      let s := s.trace s.cur 3 s.me.pc (sizeCode n) ea 0
      .next (if s.windowHurt ea n then s.targetFault s.cur ⟨7, ea, 0⟩ s.me.pc else s.passS d (extLoad n signed v))
    | none => s.precise 2 ea 0
  else
    match s.peerGate s.cur ea 0 with
    | some f => s.precise f.cause f.addr f.detail
    | none =>
      let a := s.canon c ea
      s.issueLoad ea n signed d acq (acq != .none || (tagOf a != 4 && tagOf a != 8))

/-- A plain load (R88). -/
def load (n : Nat) (signed : Bool) (d a : BitVec 5) (imm : BitVec 16) (s : State) : Ans :=
  loadAt n signed d (s.me.s a + sx 16 imm.toNat) .none s

/-- LDB (R88). -/
def execLdb (d a : BitVec 5) (imm : BitVec 16) (s : State) : Ans := load 1 false d a imm s
/-- LDBS (R88). -/
def execLdbs (d a : BitVec 5) (imm : BitVec 16) (s : State) : Ans := load 1 true d a imm s
/-- LDH (R88). -/
def execLdh (d a : BitVec 5) (imm : BitVec 16) (s : State) : Ans := load 2 false d a imm s
/-- LDHS (R88). -/
def execLdhs (d a : BitVec 5) (imm : BitVec 16) (s : State) : Ans := load 2 true d a imm s
/-- LDW (R88). -/
def execLdw (d a : BitVec 5) (imm : BitVec 16) (s : State) : Ans := load 4 false d a imm s
/-- LDWS (R88). -/
def execLdws (d a : BitVec 5) (imm : BitVec 16) (s : State) : Ans := load 4 true d a imm s
/-- LDD (R88). -/
def execLdd (d a : BitVec 5) (imm : BitVec 16) (s : State) : Ans := load 8 false d a imm s
/-- LDA: an acquire at its scope; nothing after it is performed before it (R95). -/
def execLda (d a : BitVec 5) (scope : Scope) (size : BitVec 2) (s : State) : Ans := loadAt (2 ^ size.toNat) false d (s.me.s a) scope s

/-! Stores (R90, R91) -/

/-- What the slot's own writes carry: the writes that happen-before them, and after FENCEs with release what those cover (R97,
R314). -/
def Slot.carries (x : Slot) (c : Nat) : List RelInfo :=
  relOf .none c [] x.hb ++ fencesAt c x.fence

/-- Entries added one after the other; none when one would be the 65th (R91). -/
def bufAll (b : List Entry) (es : List Entry) : Option (List Entry) := es.foldl (fun b e => b.bind fun b => bufAdd b e) (some b)

/-- An entry of the running slot into its buffer, or at once to its target in write-through mode, where the elements of one word in a
line stay together, or write-through mode for want of room (R91, R210, R260). -/
def State.bufferEntries (s : State) (es : List Entry) : Ans :=
  let g := s.cur
  if s.me.through then
    .next (((((bufAll [] es).getD es).foldl (fun s e => s.handOne g e false .none) s).modMe fun x => { x with mode := .through }).pass)
  else
    match bufAll s.me.buf es with
    | some b => .next ((s.modMe fun x => { x with buf := b }).pass)
    | none => .next ((s.abandon g).modMe fun x => { x with through := true })

/-- Whether what the FENCEs with release of slot `g` cover is visible at their scopes (R97). -/
def State.fenceOpen (s : State) (g : Nat) : Bool := (s.slot g).fence.all fun r => s.visible r.scope (coreOf g) r.obs
/-- Whether the slot may perform a store to own local memory now: the stores and atomics it has sent are performed (R90), and
what a FENCE with release covers is visible at its scope (R97). -/
def State.mayStore (s : State) (g : Nat) : Bool := ! s.storing g && s.fenceOpen g

/-- A drain up to the newest entry that `p` names, once earlier stores are performed (R89, R90). -/
def State.drain (s : State) (p : Entry → Bool) : Ans :=
  if s.storing s.cur then .next s else .next (s.handOver s.cur (upTo p s.me.buf) .drain)

/-- A scalar store of the low `n` bytes of `v` at `ea` (R89, R90). -/
def storeAt (n : Nat) (ea : W64) (v : Nat) (s : State) : Ans :=
  let g := s.cur
  let c := coreOf g
  let x := s.me
  if ¬ addrOk (isSup c) ea then s.precise 2 ea 1
  else if ea.toNat % n ≠ 0 then s.precise 3 ea 1
  else if tagOf ea = 5 then s.precise 2 ea 1
  else
    let a := s.canon c ea
    let v := v % 2 ^ (8 * n)
    let t := s.trace g 4 x.pc (sizeCode n) ea (w64 v)
    match s.peerGate g ea 1 with
    | some f => s.precise f.cause f.addr f.detail
    | none =>
    if tagOf ea = 0 then
      if ¬ (s.localOk g x.descs 1 a n && s.pageOk a n v) then s.precise 2 ea 1
      else if x.buf.any (fun e => touchesEntry e a n) then s.drain fun e => touchesEntry e a n
      else if ¬ s.mayStore g then .next s
      else if s.ckHold (lKey a) then .next (s.ckWant [lKey a])
      else .next (((t.writeLocal x.ctx a n v (x.carries c)).guarded g a n 1).pass)
    else t.bufferEntries [storeEntry a n v x.pc]

/-- A plain store of register `d` (R88). -/
def store (n : Nat) (d a : BitVec 5) (imm : BitVec 16) (s : State) : Ans := storeAt n (s.me.s a + sx 16 imm.toNat) (s.me.s d).toNat s

/-- STB (R88). -/
def execStb (d a : BitVec 5) (imm : BitVec 16) (s : State) : Ans := store 1 d a imm s
/-- STH (R88). -/
def execSth (d a : BitVec 5) (imm : BitVec 16) (s : State) : Ans := store 2 d a imm s
/-- STW (R88). -/
def execStw (d a : BitVec 5) (imm : BitVec 16) (s : State) : Ans := store 4 d a imm s
/-- STD (R88). -/
def execStd (d a : BitVec 5) (imm : BitVec 16) (s : State) : Ans := store 8 d a imm s

/-! Ordered and flagged stores (R94 to R98) -/

/-- The own entry of a word that has committed, sent to its target; the slot runs on, the restart point passes the word when
the entry is performed (R96, R98, R310). -/
def State.sendWord (s : State) (e : Entry) (rel : Scope) : Ans :=
  .next (s.handOne s.cur e true rel).pass

/-- STL: commits, then its own store as a release at its scope, never buffered (R96). A store of STL to own local memory is
performed at once when what it releases, and what a FENCE before it covers, is visible (R90, R96, R97). -/
def execStl (d a : BitVec 5) (scope : Scope) (size : BitVec 2) (s : State) : Ans :=
  let n := 2 ^ size.toNat
  let ea := s.me.s a
  let c := coreOf s.cur
  let v := (s.me.s d).toNat % 2 ^ (8 * n)
  if ¬ addrOk (isSup c) ea then s.precise 2 ea 1
  else if ea.toNat % n ≠ 0 then s.precise 3 ea 1
  else if tagOf ea = 5 then s.precise 2 ea 1
  else
    let a := s.canon c ea
    if (s.peerGate s.cur ea 1).isSome || decide (tagOf ea = 0 ∧ ¬ (s.localOk s.cur s.me.descs 1 a n && s.pageOk a n v)) then s.precise 2 ea 1
    else s.commitThen fun s =>
      let x := s.me
      let t := s.trace s.cur 4 x.pc size.toNat ea (w64 v)
      if tagOf ea = 0 then
        if ! s.visible scope c x.obs || ! s.fenceOpen s.cur then .next s
        else if s.ckHold (lKey a) then .next (s.ckWant [lKey a])
        else .next ((((t.writeLocal x.ctx a n v (relOf scope c x.obs x.hb ++ fencesAt c x.fence)).guarded s.cur a n 1).pass).modMe Slot.moved)
      else t.sendWord (storeEntry a n v x.pc) scope

/-- A flagged store's entry: its data, then the flag (R98). -/
def fstEntry (ea flag : W64) (n v : Nat) (rel : Bool) (scope : Scope) (pc : Pc) : Entry :=
  { storeEntry ea n v pc with kind := .fst flag rel scope }

/-- FST: an entry of its own, performed as data, then increment of the flag; with release a commit first and its own commit
after (R98). -/
def execFst (d a b : BitVec 5) (scope : Scope) (order : Order) (size : BitVec 2) (s : State) : Ans :=
  let n := 2 ^ size.toNat
  let ea := s.me.s a
  let fa := s.me.s b
  let c := coreOf s.cur
  let v := (s.me.s d).toNat % 2 ^ (8 * n)
  let ca := s.canon c ea
  let cf := s.canon c fa
  if ¬ addrOk (isSup c) ea then s.precise 2 ea 1
  else if ea.toNat % n ≠ 0 then s.precise 3 ea 1
  else if tagOf ea = 5 then s.precise 2 ea 1
  else if ¬ addrOk (isSup c) fa || tagOf fa == 3 || tagOf fa == 5 || tagOf fa == 15 then s.precise 2 fa 2
  else if fa.toNat % 8 ≠ 0 then s.precise 3 fa 2
  else if ca.toNat < cf.toNat + 8 ∧ cf.toNat < ca.toNat + n then s.precise 2 fa 2
  else if (s.peerGate s.cur ea 1).isSome then s.precise 2 ea 1
  else if (s.peerGate s.cur fa 2).isSome then s.precise 2 fa 2
  else
    let t := fun (s : State) => s.trace s.cur 4 s.me.pc size.toNat ea (w64 v)
    if ordRel order then s.commitThen fun s => (t s).sendWord (fstEntry ca cf n v true scope s.me.pc) scope
    else (t s).bufferEntries [fstEntry ca cf n v false scope s.me.pc]

/-- What FENCEs with release cover after one more at a scope: one of an earlier FENCE at a wider scope stands beside it, the new one
covers the others (R97, R315). -/
def fenceAdd (l : List RelInfo) (r : RelInfo) : List RelInfo := l.filter (fun o => decide (scopeCode r.scope < scopeCode o.scope)) ++ [r]

/-- FENCE: with acquire the loads before it act as acquires; with release it commits, and every later store acts as a release
of what came before it (R97). -/
def execFence (scope : Scope) (order : Order) (s : State) : Ans :=
  let c := coreOf s.cur
  let acq := fun (s : State) => if ordAcq order then s.modMe fun x =>
    let got := acqOf x.seen c scope
    { x with obs := union x.obs got, hb := union x.hb got } else s
  if s.loading s.cur then .next s
  else if ordRel order then s.commitThen fun s =>
    let s := acq s
    .next ((s.pass).modMe fun x => { x.moved with fence := fenceAdd x.fence ⟨x.obs, scope, c⟩ })
  else .next (acq s).pass

/-! Vector memory (R208 to R210) -/

/-- The check of one governed element before any is performed: the fault it raises (R209). -/
def State.elemFault (s : State) (ea : W64) (w : Nat) (st : Bool) : Option FaultInfo :=
  let c := coreOf s.cur
  let k := b2n st
  if ¬ addrOk (isSup c) ea || tagOf ea == 3 || tagOf ea == 15 || (st && tagOf ea == 5) then some (permFault ea k false)
  else if ea.toNat % w ≠ 0 then some ⟨3, ea, w64 k⟩
  else if tagOf ea ≤ 2 && ! s.localOk s.cur s.me.descs k (s.canon c ea) w then some (permFault ea k false)
  else s.peerGate s.cur ea k

/-- The first fault among the elements, in ascending order (log entry 23). -/
def State.elemsFault (s : State) (es : List (Nat × W64)) (w : Nat) (st : Bool) : Option FaultInfo :=
  es.findSome? fun e => s.elemFault e.2 w st

/-- An access that reads own local memory at once waits for entries that change it by an unknown amount to drain (R89). -/
def State.vecDrains (s : State) (as_ : List W64) (w : Nat) (p : Entry → W64 → Nat → Bool) : Bool :=
  s.me.buf.any fun e => as_.any fun a => p e a w

/-- A vector load: the governed elements, each from the buffer, the queue or memory; with every element in own local memory at
once, else as one outstanding load that writes vd when all have returned; of 32 aligned contiguous bytes in local memory in one access
(R123, R209, R210). -/
def vload (d : BitVec 4) (et : Et) (mk : BitVec 2) (contig : Bool) (addr : Slot → Nat → W64) (s : State) : Ans :=
  s.needs 1 fun s =>
  let g := s.cur
  let c := coreOf g
  let x := s.me
  let w := etWidth et / 8
  let es := ((List.range (etCount et)).filter fun k => bit (x.mr mk.toNat).toNat k).map fun k => (k, addr x k)
  match s.elemsFault es w false with
  | some f => s.precise f.cause f.addr f.detail
  | none =>
    let as_ := es.map fun e => s.canon c e.2
    let own := es.all fun e => tagOf e.2 == 0
    if s.vecDrains as_ w pendingOn then s.drain fun e => as_.any fun a => pendingOn e a w
    else if as_.any (fun a => tagOf a == 2 && lCore a == c && s.ownPending g a w) then .next s
    else if es = [] then .next s.pass
    else if ! own && s.loadsFull g then .next s
    else
      let s := s.trace g 3 x.pc (sizeCode w) ((es.map (·.2)).headD 0) 0
      let read := fun (a : W64) =>
        let (v, m) := known x.buf a w
        overlay w (s.nat (lKey a) w) v m
      if own then
        (match es.find? fun e => (known x.buf (s.canon c e.2) w).2 != 2 ^ w - 1 && s.poisoned (lKey (s.canon c e.2)) w with
        | some e => .next (s.targetFault g ⟨7, e.2, 0⟩ x.pc)
        | none =>
          let seen := as_.flatMap fun a => s.carried (lKey a) w
          let s := as_.foldl (fun s a => s.guarded g a w 0) (s.modMe fun x => x.saw c .none seen [])
          let v := pack (etWidth et) fun k => match es.find? fun e => e.1 == k with
            | some e => read (s.canon c e.2)
            | none => elem (x.vr d) (etWidth et) k
          .next (s.passV d v))
      else
        let grp := s.nextId
        let first := s.canon c (addr x 0)
        let one (s : State) (q : LoadReq) : State := { s with loads := s.loads ++ [q], nextId := s.nextId + 1 }
        if contig ∧ first.toNat % 32 = 0 ∧ tagOf first = 2 then
          let (v, m) := known x.buf first 32
          .next ((one s ⟨grp, grp, g, clusterOf c, x.ctx, first, 32, BitVec.ofNat 256 v, BitVec.ofNat 32 m, .whole d (etWidth et) (x.mr mk.toNat), 0, false,
            .none, x.pc, false, none⟩).modMe fun x => { x with await := .load grp })
        else
        let elt := fun (s : State) (e : Nat × W64) =>
          let a := s.canon c e.2
          let (v, m) := known x.buf a w
          let (qv, qm, ids, ris) := s.queued (some g) (clusterOf c) x.ctx a w
          let full := decide (m ||| qm = 2 ^ w - 1)
          let s := if full && m != 2 ^ w - 1 then s.modMe fun x => x.saw c .none ris ids else s
          let (s, h, f) := s.homeOf (clusterOf c) x.ctx a
          let f := if tagOf a = 5 ∧ s.wsClosing (dieOf c) then some (permFault a 0 true) else f
          let reply := if full then some (Reply.data (BitVec.ofNat 256 (overlay w qv v m))) else f.map Reply.fault
          let s := if full && tagOf a == 2 then s.guarded g a w 0 else s
          one s ⟨s.nextId, grp, g, clusterOf c, x.ctx, a, w, BitVec.ofNat 256 v, BitVec.ofNat 32 m, .vector d e.1 (etWidth et), h, false, .none, x.pc, false,
            reply⟩
        let s := es.foldl elt s
        .next (if as_.any fun a => tagOf a != 4 && tagOf a != 8 then s.modMe fun x => { x with await := .load grp } else s.pass)

/-- Entries of a word that is not done into the buffer, which then drains as far as `p` names them; in write-through mode, and for want of
room, as for a word's only entries (R90, R91, R260). -/
def State.bufferEarly (s : State) (es : List Entry) (p : Entry → Bool) : Ans :=
  let g := s.cur
  if s.storing g then .next s
  else if s.me.through then
    .next ((((bufAll [] es).getD es).foldl (fun s e => s.handOne g e false .none) s).modMe fun x => { x with mode := .through, woken := true })
  else match bufAll s.me.buf es with
    | some b => .next ((s.modMe fun x => { x with buf := b, woken := true }).handOver g (upTo p b) .drain)
    | none => .next ((s.abandon g).modMe fun x => { x with through := true })

/-- The elements that enter the buffer before the word's stores to own local memory are performed: where one by tag 0x1 or 0x2 lies at
the place of one of higher k by tag 0x0, every element by those tags up to the last such (R90, R209). -/
def State.earlyElems (s : State) (es : List (Nat × W64)) : List (Nat × W64) :=
  let c := coreOf s.cur
  let upon := es.filter fun o => tagOf o.2 == 0 && es.any fun e => tagOf e.2 != 0 && decide (e.1 < o.1) && s.canon c o.2 == s.canon c e.2
  match upon.getLast? with
  | some o => es.filter fun e => tagOf e.2 != 0 && decide (e.1 < o.1)
  | none => []

/-- A vector store: the governed elements disposed of by tag in ascending order; a whole aligned 32-byte VST to own local
memory is one write; where one by tag 0x0 lies over an element of lower k by another tag, that one is buffered and drained first (R90, R209,
R210). -/
def vstore (d : BitVec 4) (et : Et) (mk : BitVec 2) (contig : Bool) (addr : Slot → Nat → W64) (s : State) : Ans :=
  s.needs 1 fun s =>
  let g := s.cur
  let c := coreOf g
  let x := s.me
  let w := etWidth et / 8
  let es := ((List.range (etCount et)).filter fun k => bit (x.mr mk.toNat).toNat k).map fun k => (k, addr x k)
  match s.elemsFault es w true with
  | some f => s.precise f.cause f.addr f.detail
  | none =>
    let val := fun k => elem (x.vr d) (etWidth et) k
    match es.find? fun e => tagOf e.2 == 0 && ! s.pageOk (s.canon c e.2) w (val e.1) with
    | some e => s.precise 2 e.2 1
    | none =>
      let own := es.filter fun e => tagOf e.2 == 0
      let as_ := own.map fun e => s.canon c e.2
      if s.vecDrains as_ w touchesEntry then s.drain fun e => as_.any fun a => touchesEntry e a w
      else
      let early := s.earlyElems es
      let entry := fun (e : Nat × W64) => storeEntry (s.canon c e.2) w (val e.1) x.pc
      if ! early.isEmpty && ! x.woken then s.bufferEarly (early.map entry) fun e => as_.any fun a => touchesEntry e a w
      else if ¬ own.isEmpty ∧ ¬ s.mayStore g then .next s
      else if as_.any fun a => s.ckHold (lKey a) then .next (s.ckWant (as_.map lKey))
      else
        let s := es.foldl (fun s e => s.trace g 4 x.pc (sizeCode w) e.2 (w64 (val e.1))) s
        let whole := contig && es.length == etCount et && (addr x 0).toNat % 32 == 0 && own.length == es.length
        let s := if whole then s.writeLocal x.ctx (s.canon c (addr x 0)) 32 (x.vr d).toNat (x.carries c)
          else own.foldl (fun s e => s.writeLocal x.ctx (s.canon c e.2) w (val e.1) (x.carries c)) s
        let s := as_.foldl (fun s a => s.guarded g a w 1) s
        let rest := (es.filter fun e => tagOf e.2 != 0 && ! early.contains e).map entry
        if rest = [] then .next s.pass else s.bufferEntries rest

/-- The address of element `k`: contiguous, strided, or indexed by elements of vb (R208). -/
def contigAt (sa : BitVec 4) (et : Et) (x : Slot) (k : Nat) : W64 := x.s (sHi sa) + w64 (k * (etWidth et / 8))
def stridedAt (sa sb : BitVec 4) (x : Slot) (k : Nat) : W64 := x.s (sHi sa) + w64 k * x.s (sHi sb)
def indexedAt (sa b : BitVec 4) (x : Slot) (k : Nat) : W64 := x.s (sHi sa) + sx 32 (elem (x.vr b) 32 k)

/-- VLD (R208). -/
def execVld (d sa : BitVec 4) (et : Et) (mk : BitVec 2) (s : State) : Ans := vload d et mk true (contigAt sa et) s
/-- VST (R208). -/
def execVst (d sa : BitVec 4) (et : Et) (mk : BitVec 2) (s : State) : Ans := vstore d et mk true (contigAt sa et) s
/-- VLDS (R208). -/
def execVlds (d sa sb : BitVec 4) (et : Et) (mk : BitVec 2) (s : State) : Ans := vload d et mk false (stridedAt sa sb) s
/-- VSTS (R208). -/
def execVsts (d sa sb : BitVec 4) (et : Et) (mk : BitVec 2) (s : State) : Ans := vstore d et mk false (stridedAt sa sb) s
/-- VGATH (R208). -/
def execVgath (d sa b : BitVec 4) (et : Et) (mk : BitVec 2) (s : State) : Ans := vload d et mk false (indexedAt sa b) s
/-- VSCAT (R208). -/
def execVscat (d sa b : BitVec 4) (et : Et) (mk : BitVec 2) (s : State) : Ans := vstore d et mk false (indexedAt sa b) s

end Sys2Proof.Machine
end

