-- ==== Sys2Proof/Machine/SlotControl.lean ====
section
/-! DEFINITION. Slot control and die debug: resume, restart, kill, pre-empt, step, the slot view, held fault packets, halt,
context kill, quarantine, the trace; the records that the host is sent (R322 to R338, R344, R357, R358). -/
namespace Sys2Proof.Machine

/-- Whether `g` is a slot that block 1 names (R319). -/
def slotOk (g : Nat) : Bool := decide (g < 4 * Config.cores)

/-- Whether `g` is a slot that block 1 names in a cluster that is not fenced: a fenced cluster's slot windows answer with PERM and nothing
changes (R4, R319). -/
def State.slotReach (s : State) (g : Nat) : Bool := slotOk g && ! (s.cluster (clusterOf (coreOf g))).fenced

/-- What the writer of a register is told: performed, or it must wait. -/
def orStall (s : State) (r : Met State) : Ans :=
  match r with
  | .ok t => .next t
  | .bad _ => .next s
  | .wait h => .next (s.ckWant h)

/-- Whether issue of slot `g` stands at an instruction boundary: HELD, or after every instruction that has begun, its stores and
atomics performed (R327, R330). -/
def State.boundary (s : State) (g : Nat) : Bool :=
  let x := s.slot g
  match x.state with
  | .held => true
  | .running => ! x.begun && x.await == .none && x.mode == .none && ! x.restoring && ! s.storing g
  | _ => true

/-! Kill (R327) -/

/-- The commands of slot `g` whose MPASS is held for replay are to be retired (R327). -/
def retireReplay (g : Nat) (q : Queue) : Queue :=
  { q with cmds := q.cmds.map fun (c : Cmd) => match c.phase with
      | .replay _ => if c.g == g then { c with retire := true } else c
      | _ => c }

/-- The slot leaves the queues of engine room that it waits in (R32). -/
def leaveRoom (g : Nat) (q : Queue) : Queue := { q with waiters := q.waiters.filter fun w => w.1 != g % 4 }

/-- Slot `g` is killed at an instruction boundary: nothing it has buffered is performed, its chains and bindings end, a named
task's name dies with no release, the slot is EMPTY and no stitch is written (R327). -/
def State.killSlot (s : State) (g : Nat) : State :=
  let c := coreOf g
  let s : State := { s with
    loads := s.loads.filter (fun l => l.g != g)
    out := s.out.filter (fun o => o.g != g)
    amos := s.amos.filter (fun a => a.g != g)
    chains := s.chains.filter (fun h => h.g != g)
    notes := s.notes.filter (fun n => n.g != g) }
  let s := (s.modQueue c .copy (leaveRoom g)).modQueue c .matrix fun q => leaveRoom g (retireReplay g q)
  let s := (s.taskNameDies g).modSlot g fun x => { x with stepping := false, stepDone := false }
  s.vacate g

/-! Pre-emption (R330, R332) -/

/-- Where the spill buffer of slot `g` lies if it is mapped for write on a pinned page: translated in the task's context at its
home (R330). -/
def State.spillKey (s : State) (g : Nat) : Met (State × Option Nat) :=
  let x := s.slot g
  let ea := mkAddr 4 (fld x.spillbase.toNat 10 42 * 1024)
  let va := fld ea.toNat 0 52
  if ¬ bit x.spillbase.toNat 0 then .ok (s, none) else
  match s.findHome (clusterOf (coreOf g)) x.ctx ea with
  | (s, .error _) => .ok (s, none)
  | (s, .ok h) =>
    if s.handing h x.ctx va || s.migrating h x.ctx va then .wait [] else
    let marks := s.walkMarks h x.ctx va .write
    if marks.any s.ckHold then .wait marks else
    match s.translate h x.ctx va .write with
    | (t, .ok pa) => (match t.walk h x.ctx va with
      | .ok (_, e, _) => .ok (t, if bit e 6 then some (rimKey pa) else none)
      | .error _ => .ok (t, none))
    | (t, .error _) => .ok (t, none)

/-- Whether a stream register of a slot is bound or holds items (R330). -/
def Slot.streams (x : Slot) : Bool := (List.range 4).any fun k => (x.st k).src.isSome || ! (x.st k).items.isEmpty

/-- Where a pre-empt will put the slot's items: nowhere when it has no stream in use; none when the buffer cannot take them
(R330). -/
def State.spillPlace (s : State) (g : Nat) : Met (State × Option (Option Nat)) :=
  if ¬ (s.slot g).streams then .ok (s, some none) else
  match (s.slot g).spillAt with
  | some k => .ok (s, some (some k))
  | none => match s.spillKey g with
    | .ok (s, k) => .ok (s, k.map some)
    | .bad f => .bad f
    | .wait h => .wait h

/-- A pre-empt command: the checks of R330; then issue stops at the next instruction boundary. -/
def State.preEmpt (s : State) (g : Nat) : Met State :=
  let x := s.slot g
  if x.npre then .ok (s.modSlot g (·.status 2))
  else if x.state ≠ .running ∧ x.state ≠ .held then .ok (s.modSlot g (·.status 1))
  else match (s.modSlot g fun x => { x with spillAt := none }).spillPlace g with
    | .ok (s, some k) => .ok (s.modSlot g fun x => { x with busy := true, preempting := true, spillAt := k })
    | .ok (s, none) => .ok (s.modSlot g (·.status 3))
    | .bad f => .bad f
    | .wait h => .wait h

/-- A step command: as resume, for one instruction (R325, R335). -/
def State.stepCmd (s : State) (g : Nat) : State :=
  let s := s.comeBack g false
  if (s.slot g).state = .running ∧ (s.slot g).cmdStatus = 0 then
    s.modSlot g fun x => { x with stepping := true, stepDone := false, stepRep := (0, 0) } else s

/-- A kill command; a slot that runs is killed at its next instruction boundary (R325, R327). -/
def State.killCmd (s : State) (g : Nat) : Met State :=
  if (s.slot g).state = .empty then .ok (s.modSlot g (·.status 1))
  else if ¬ s.boundary g then .wait []
  else .ok ((s.killSlot g).modSlot g (·.status 0))

/-- A write of a command to SLCMD of slot `g`: it acts once the earlier command has completed and the slot keeps no packet; a
reserved command is dropped (R322, R324, R325). -/
def State.slcmd (s : State) (g v : Nat) : Met State :=
  let x := s.slot g
  if v < 1 ∨ 5 < v then .ok s
  else if x.busy ∨ x.packet.isSome then .wait []
  else match v with
    | 1 => .ok (s.comeBack g false)
    | 2 => .ok (s.comeBack g true)
    | 3 => s.killCmd g
    | 4 => s.preEmpt g
    | _ => .ok (s.stepCmd g)

/-- RESUME (R325). -/
def execResume (g : Nat) (s : State) : Ans := if s.slotReach g then orStall s (s.slcmd g 1) else .next s
/-- RESTART (R325). -/
def execRestart (g : Nat) (s : State) : Ans := if s.slotReach g then orStall s (s.slcmd g 2) else .next s
/-- KILL (R325, R327). -/
def execKill (g : Nat) (s : State) : Ans := if s.slotReach g then orStall s (s.slcmd g 3) else .next s
/-- PRE_EMPT (R330). -/
def execPreEmpt (g : Nat) (s : State) : Ans := if s.slotReach g then orStall s (s.slcmd g 4) else .next s
/-- STEP (R325, R335). -/
def execStep (g : Nat) (s : State) : Ans := if s.slotReach g then orStall s (s.slcmd g 5) else .next s

/-- The 1 KiB of a spill buffer: the items of register q at +128·q, the counts at +0x200 (R332). -/
def Slot.spillBytes (x : Slot) : Nat :=
  (List.range 4).foldl (fun n q =>
    let items := (x.st q).items.take 16
    n + items.length * 2 ^ (8 * (0x200 + 8 * q)) + items.zipIdx.foldl (fun m (v, i) => m + v.toNat * 2 ^ (8 * (128 * q + 8 * i))) 0) 0

/-! The slot view (R326, R331) -/

/-- The writable fields of a slot view, by offset: start and bytes of the field it lies in. -/
def viewField (off : Nat) : Option (Nat × Nat) :=
  if off < 0x68 then some (off / 8 * 8, 8)
  else if 0xC0 ≤ off ∧ off < 0xE0 then some (off / 4 * 4, 4)
  else if 0x100 ≤ off ∧ off < 0x300 then some (off / 32 * 32, 32)
  else if 0x300 ≤ off ∧ off < 0x700 then some (off / 8 * 8, 8)
  else none

/-- Whether a writable field may take a value (R189, R326). -/
def viewOk (field v : Nat) : Bool :=
  match field with
  | 0x38 | 0x40 => v % 4 == 0 && decide (v < 2 ^ 48)
  | 0x48 => fld v 7 7 % 4 == 0 && decide (fld v 7 7 ≤ 104)
  | 0x50 => fspOk (w64 v)
  | 0x60 => holdlimOk (w64 v)
  | _ => true

/-- The fields that an aligned write of `n` bytes at `off` reaches: all of one, or two mask registers. -/
def viewFields (off n : Nat) : List (Nat × Nat) :=
  match viewField off, viewField (off + n - 1) with
  | some a, some b => if a = b then [a] else [a, b]
  | some a, none => [a]
  | _, _ => []

/-- A write to the view of a PREEMPTED slot waits while its context area is still to be streamed (R326, R346). -/
def State.viewWaits (s : State) (g : Nat) : Bool := (s.slot g).state == .preempted && s.ckHold (ctxKey g)

/-- A write of the low `n` bytes of `v` to a slot view (R326). -/
def State.slotViewWrite (s : State) (g off v n : Nat) : State :=
  let x := s.slot g
  let fs := viewFields off n
  let patch := fun (m : Tab Byte) (base : Nat) =>
    let m' := memPut m (base + off) n v
    if fs.all fun f => viewOk f.1 (memNat m' (base + f.1) f.2) then
      (if off / 8 = 9 then memPut m' (base + 0x48) 8 (memNat m' (base + 0x48) 8 % 2 ^ 14) else m') else m
  if fs.isEmpty then s else
  match x.state with
  | .frozen => s.setSlot g (x.reload (patch (x.save (s.chainsOf g) (s.mxOf g x.task) 0 []) 0) 0)
  | .preempted => { s with mem := patch s.mem (ctxKey g) }
  | _ => s

/-- SLOT_VIEW (R326): `n` is 1, 2, 4 or 8, the offset aligned (R319). -/
def execSlotView (g off : Nat) (v : W64) (n : Nat) (s : State) : Ans :=
  .next (if ! (s.slotReach g && (n == 1 || n == 2 || n == 4 || n == 8) && off % n == 0 && decide (off + n ≤ 0x800)) then s
    else if s.viewWaits g then s.ckWant [ctxKey g] else s.slotViewWrite g off v.toNat n)

/-! Fault packets that wait (R322) -/

/-- The lowest slot of die `d` that keeps a packet. -/
def State.keeper (s : State) (d : Nat) : Option (Nat × W256) :=
  s.slots.findSome? fun e => if dieOf (coreOf e.1) = d then e.2.packet.map fun p => (e.1, p) else none

/-- FAULT_PACKET_RELEASE: the oldest held packet enters the ring once there is room; a slot's kept packet takes its place in the
holding queue (R322). -/
def execFaultPacketRelease (d : Nat) (s : State) : Ans :=
  match (s.die d).fqheld with
  | [] => .next s
  | (g, pkt) :: rest =>
    match s.ringWrite d g pkt with
    | (s, false) => .next s
    | (s, true) =>
      let s := s.modDie d fun x => { x with fqheld := rest }
      match s.keeper d with
      | some (g', p) => .next ((s.modSlot g' fun x => { x with packet := none }).modDie d fun x => { x with fqheld := x.fqheld ++ [(g', p)] })
      | none => .next s

/-! Debugger halt (R336) -/

/-- DHALT_SET: issue and command starts of the die stop. -/
def State.haltDie (s : State) (d : Nat) : State :=
  if (s.die d).halt then s else s.modDie d fun x => { x with halt := true, haltSince := s.cycle }
/-- The halted time counts for no hold (R336). -/
def unheld (cycle since d g : Nat) (x : Slot) : Slot :=
  if x.state == .held && dieOf (coreOf g) == d then { x with heldSince := x.heldSince + (cycle - Max.max since x.heldSince) } else x
/-- DHALT_CLEAR: issue and command starts go on. -/
def State.unhaltDie (s : State) (d : Nat) : State :=
  if ¬ (s.die d).halt then s else
  let since := (s.die d).haltSince
  let s := s.slots.foldl (fun t e => t.setSlot e.1 (unheld s.cycle since d e.1 (s.slot e.1))) s
  s.modDie d fun x => { x with halt := false }

/-- DHALT_SET (R336). -/
def execDhaltSet (d : Nat) (s : State) : Ans := .next (if d < Config.dies then s.haltDie d else s)
/-- DHALT_CLEAR (R336). -/
def execDhaltClear (d : Nat) (s : State) : Ans := .next (if d < Config.dies then s.unhaltDie d else s)

/-! Records to the host (R357, R358) -/

/-- A completion record without its cycle, which it takes when it is written. -/
def hostRecord (kind status : Nat) (ctx : BitVec 16) (info unit code : Nat) : W256 :=
  BitVec.ofNat 256 (kind + status % 256 * 2 ^ 8 + ctx.toNat * 2 ^ 16 + info % 2 ^ 32 * 2 ^ 32 + unit % 2 ^ 64 * 2 ^ 64 + code % 2 ^ 64 * 2 ^ 128)
/-- Whether a port's queue of 256 records has room. -/
def State.recordRoom (s : State) (p : Nat) : Bool := decide ((s.port p).queue.length < 256)
/-- A record queued at a port; COMPLETION_RECORD_RELEASE writes it. -/
def State.record (s : State) (p : Nat) (r : W256) : State := s.modPort p fun x => { x with queue := x.queue ++ [r] }
/-- The port of a record that answers no request: the lowest enabled one, or 0 while none is (R357). -/
def State.endPort (s : State) : Nat := ((List.range 4).find? fun p => bit (s.port p).crctl.toNat 0).getD 0

/-- A ring that the host has enabled receives the records the life-cycle controller owes it, those that its queue has room for (R357,
R363). -/
def State.payOwed (s : State) (p : Nat) : State :=
  if ¬ bit (s.port p).crctl.toNat 0 then s else
  let (mine, rest) := s.durable.owed.partition fun o => o.1 == p
  let n := 256 - (s.port p).queue.length
  (mine.take n).foldl (fun s o => s.record p o.2) { s with durable := { s.durable with owed := mine.drop n ++ rest } }

/-- COMPLETION_RECORD_RELEASE: the oldest waiting record is written to the ring, the head advances, the vector is raised when
the ring was empty; a record that is owed takes the room (R357, R358, R363). -/
def execCompletionRecordRelease (p : Nat) (s : State) : Ans :=
  let x := s.port p
  let n := 2 ^ fld x.crctl.toNat 8 5
  match x.queue with
  | [] => .next s
  | r :: rest =>
    if ¬ bit x.crctl.toNat 0 ∨ (x.crhead - x.crtail).toNat = n then .next s else
    let s := s.write (hostKey (x.crbase.toNat + 32 * (x.crhead.toNat % n))) 32 (putFld r.toNat 192 64 s.cycle)
    .next ((s.modPort p fun x => { x with queue := rest, crhead := x.crhead + 1, msix := x.msix + b2n (x.crhead == x.crtail) }).payOwed p)

/-! Context kill and quarantine (R153, R214, R249, R328, R344) -/

/-- Whether a command that a kill or a quarantine meets in this phase ends without effect: one that has not begun, a copy command at its
next line, an MPASS at its next block; any other matrix command that has begun runs on, and a failed one is retired by its error word
(R153, R170, R214). -/
def Phase.retires (eng : Eng) (p : Phase) : Bool :=
  match p with
  | .stopped => false
  | .fresh | .passing _ | .replay _ => true
  | _ => eng == .copy

/-- The commands of a queue that `p` names are marked to be retired. -/
def Queue.retire (eng : Eng) (p : Cmd → Bool) (q : Queue) : Queue :=
  { q with cmds := q.cmds.map fun (c : Cmd) => if p c && c.phase.retires eng then { c with retire := true } else c }

/-- The failed command of a queue that `p` names has its error word cleared, which retires it (R153, R170, R214). -/
def State.unstop (s : State) (c : Nat) (eng : Eng) (p : Cmd → Bool) : State :=
  match (s.queue c eng).cmds with
  | cmd :: _ => if p cmd && cmd.phase == .stopped then s.clearErr cmd.g eng else s
  | [] => s

/-- A stage that a killed context registered: invalid, once it is out of use (R214). -/
def Stage.killed (ctx : BitVec 16) (t : Stage) : Stage :=
  if ! t.reg || t.ctx != ctx then t else if t.inuse = 0 then Stage.reset else { t with kill := true }

/-- The engines of core `c` under a kill of a context: its commands are marked, the word of its failed command is cleared,
which retires it, format context and stages are invalidated (R153, R214). -/
def State.killEngines (s : State) (ctx : BitVec 16) (c : Nat) : State :=
  let its := fun (k : Cmd) => k.ctx == ctx
  let one := fun (s : State) (eng : Eng) => (s.unstop c eng its).modQueue c eng (Queue.retire eng its)
  (one (one s .copy) .matrix).modCore c fun k =>
    { k with fmt := k.fmt.bind (fun f => if f.ctx == ctx then none else some f)
             stages := (List.range 8).foldl (fun t i => t.set Stage.reset i ((t.get Stage.reset i).killed ctx)) k.stages
             waitList := k.waitList.filter fun w => w.slot.ctx != ctx }

/-- Steps 3 to 5 of R328: engines, tiles, names, stitches of a context. -/
def State.killRest (s : State) (ctx : BitVec 16) : State :=
  let waits := s.cores.flatMap fun e => (e.2.waitList.filter fun w => w.slot.ctx == ctx).map (·.id)
  let s := s.cores.foldl (fun s e => s.killEngines ctx e.1) s
  let s := s.clusters.foldl (fun s e => s.modCluster e.1 fun k =>
    { k with tiles := k.tiles.filter (fun t => t.ctx != ctx), ready := leaveReady s.cycle (fun _ r => stCtx r.st == ctx) k.ready }) s
  let s : State := { s with
    chains := s.chains.filter (fun h => ! waits.contains h.g)
    skeins := s.skeins.map (fun k => k.hold (k.items.filter fun i => stCtx i.st != ctx))
    parks := s.parks.filter (fun p => stCtx p.st != ctx)
    parked := s.parked.filter (fun p => stCtx p.st != ctx)
    graph := s.graph.filter (fun n => n.ctx != ctx) }
  (s.names.filter fun e => e.ctx == ctx).foldl (fun s e => s.nameDies (nmSerial e.name) none none) s

/-- A kill of a context asked for: begun at once, or in its turn (R328). -/
def State.askKill (s : State) (k : BitVec 16 × Nat × W64) : State :=
  if s.killing.isSome then { s with killWaits := s.killWaits ++ [k] } else { s with killing := some k, lastKill := k.1 }

/-- A write to CTXKILL: reserved bits and context 0 are dropped (R79, R328). -/
def State.ctxkill (s : State) (v : W64) : State :=
  if fld v.toNat 16 48 ≠ 0 ∨ fld v.toNat 0 16 = 0 then s else s.askKill (BitVec.ofNat 16 v.toNat, 1, 0)

/-- CTXKILL (R328). -/
def execCtxkill (v : W64) (s : State) : Ans := .next (s.ctxkill v)

/-- CTXKILL_COMPLETE: every slot of the context is killed at its boundary; when none is left the rest of R328 follows, the host
is told, and the next kill begins (R328, R358). -/
def execCtxkillComplete (s : State) : Ans :=
  match s.killing with
  | none => .next s
  | some (ctx, info, unit) =>
    let s := s.slots.foldl (fun s e =>
      let x := s.slot e.1
      if x.state != .empty && x.ctx == ctx && s.boundary e.1 && x.packet.isNone && ! x.busy then s.killSlot e.1 else s) s
    if s.slots.any (fun e => e.2.state != .empty && e.2.ctx == ctx) ∨ ¬ s.recordRoom s.endPort then .next s else
    let s := s.killRest ctx
    let s := s.record s.endPort (hostRecord 2 stOK ctx info (if info = 2 then unit.toNat + 2 ^ 63 else 0) 0)
    let t : State := { s with killing := none }
    match t.killWaits with
    | [] => .next t
    | k :: ks => .next ({ t with killWaits := ks }.askKill k)

/-- The detail of SIGCHK: cluster, core, kind 0 core or 1 matrix unit (R344). -/
def unitDetail (cl c kind : Nat) : W64 := w64 (cl + c % 32 * 2 ^ 11 + kind * 2 ^ 16)

/-- Slot `g` freezes with SIGCHK, a PREEMPTED one with its context back in its registers; an EMPTY one has no task to freeze (R326, R344;
log entry 24). -/
def State.sigFreeze (s : State) (g : Nat) (detail : W64) : State :=
  match (s.slot g).state with
  | .empty => s
  | .preempted => (s.restoreContext g).freeze g ⟨0x13, 0, detail⟩
  | _ => s.freeze g ⟨0x13, 0, detail⟩

/-- Core `c` is quarantined: its slots other than `g` freeze with the same detail (R344). -/
def State.quarantineCore (s : State) (c g : Nat) (detail : W64) : State :=
  let s := s.modCore c fun k => { k with quarantined := true }
  (List.range 4).foldl (fun s k =>
    if 4 * c + k = g then s else s.sigFreeze (4 * c + k) detail) s

/-- The matrix unit of cluster `cl` is quarantined: its commands are retired, its tiles abandoned without a report, their names
die (R344). -/
def State.quarantineMatrix (s : State) (cl : Nat) : State :=
  let s := s.modCluster cl fun k => { k with matrixQuarantined := true }
  let s := (List.range 32).foldl (fun s i =>
    if (s.core (32 * cl + i)).mxQ.cmds.isEmpty then s else
    (s.unstop (32 * cl + i) .matrix fun _ => true).modQueue (32 * cl + i) .matrix (Queue.retire .matrix fun _ => true)) s
  let s := (s.cluster cl).tiles.foldl (fun s t => s.nameDies (nmSerial t.name) none none) s
  s.modCluster cl fun k => { k with tiles := [] }

/-- A mismatch of slot `g`'s block (kind 0) or of its command of context `ctx` (kind 1): the slot freezes with SIGCHK, the suspected
unit is quarantined, the context of the frozen slot is killed unless it is 0; that of the block or the command where the slot is EMPTY by now
(R344; log entry 24). -/
def State.mismatch (s : State) (g kind : Nat) (ctx : BitVec 16) : State :=
  let c := coreOf g
  let d := unitDetail (clusterOf c) (if kind = 0 then c else 0) kind
  let ctx := if (s.slot g).state = .empty then ctx else (s.slot g).ctx
  let s := s.sigFreeze g d
  let s := if kind = 0 then s.quarantineCore c g d else s.quarantineMatrix (clusterOf c)
  if ctx = 0 then s else s.askKill (ctx, 2, d)

/-! The trace (R338) -/

/-- A write to TRSTAT: 1 in bit 9 clears frozen and triggered. -/
def Trace.status (t : Trace) (v : W64) : Trace := if bit v.toNat 9 then { t with frozen := false, triggered := false, after := 0 } else t

/-- TRSTAT_CLEAR (R338). -/
def execTrstatClear (c : Nat) (s : State) : Ans := .next (if c < Config.cores then s.modCore c fun k => { k with trace := k.trace.status 0x200 } else s)

end Sys2Proof.Machine
end

