-- ==== Sys2Proof/Machine/Homes.lean ====
section
/-! DEFINITION. The home network interface of a die: invalidation of translations, moves of a region's home, page migration,
sampling, the system table (R77 to R87, R361). -/
namespace Sys2Proof.Machine

/-- Whether `d` is a die scope of the module. -/
def dieOk (d : Nat) : Bool := decide (d < Config.dies)
/-! Translation caches (R77, R78) -/

/-- A write of TCINV: an invalidation starts; while one runs the writer waits (R79). -/
def State.tcinv (s : State) (d : Nat) (v : W64) : Met State :=
  if fld v.toNat 18 46 ≠ 0 then .ok s
  else if (s.die d).tcinv.isSome then .wait []
  else .ok (s.modDie d fun x => { x with tcinv := some v })
/-- TCINV (R77). -/
def execTcinv (d : Nat) (v : W64) (s : State) : Ans := if dieOk d then orStall s (s.tcinv d v) else .next s

/-- TCINV_DONE: the entries of the context, or of every one, that cover the page, or every page, are gone (R77, R78). The page is the one
that TCVA names then: DESIGN CHOICE, R77 does not say when TCVA is sampled (log entry 68). -/
def execTcinvDone (d : Nat) (s : State) : Ans :=
  match (s.die d).tcinv with
  | none => .next s
  | some v => .next (s.modDie d fun x =>
      let hit := fun (t : TcEntry) => (bit v.toNat 16 || t.ctx.toNat == fld v.toNat 0 16) &&
        (bit v.toNat 17 || decide (t.va ≤ x.tcva.toNat ∧ x.tcva.toNat < t.va + t.size))
      { x with tcinv := none, tc := x.tc.filter fun t => ! hit t })

/-! Moves of a region's home (R72, R80, R83) -/

/-- The home that a region's leaf entry names, none if it is not valid (R72) or a line read on the way is poisoned (log entry 61). -/
def State.leafHome (s : State) (d : Nat) (ctx : BitVec 16) (region : Nat) : Option Nat :=
  let desc := s.desc d ctx
  if ¬ bit desc 0 || ¬ bit desc 64 then none else
  let topAt := rimKey (fld desc 72 40 * 256 + 8 * fld region 16 15)
  let top := s.nat topAt 8
  if ¬ bit top 0 || s.poisoned topAt 8 || s.poisoned (rimKey ((s.die d).ctxtab.toNat + 64 * ctx.toNat)) 64 then none else
  let leafAt := rimKey (fld top 8 40 * 256 + 2 * fld region 0 16)
  let leaf := s.nat leafAt 2
  if bit leaf 15 && ! s.poisoned leafAt 2 then some (fld leaf 5 6) else none

/-- A write of RHREQ with op 0 or 1: while one runs the writer waits (R79). -/
def State.rhreq (s : State) (d : Nat) (v : W64) : Met State :=
  if fld v.toNat 17 4 ≠ 0 ∨ fld v.toNat 52 12 ≠ 0 then .ok s
  else if (s.die d).rhreq.isSome then .wait []
  else .ok (s.modDie d fun x => { x with rhreq := some v, rhdone := false })
/-- RHREQ_HAND_OVER (R80). -/
def execRhreqHandOver (d : Nat) (v : W64) (s : State) : Ans :=
  if dieOk d && ! bit v.toNat 16 then orStall s (s.rhreq d v) else .next s
/-- RHREQ_RETIRE (R83). -/
def execRhreqRetire (d : Nat) (v : W64) (s : State) : Ans :=
  if dieOk d && bit v.toNat 16 then orStall s (s.rhreq d v) else .next s

/-- The request of RHREQ ends with a status (R78). -/
def State.rhEnd (s : State) (d st : Nat) : State :=
  s.modDie d fun x => { x with rhreq := none, rhstat := BitVec.ofNat 8 st, rhdone := true }

/-- Barriers whose line lies in a region move with it: their names are held by the new home from now on (R80, R299). -/
def State.moveBarriers (s : State) (ctx : BitVec 16) (region h : Nat) : State :=
  let moved := fun (e : NameEntry) => e.cls == 2 && s.barriers.any fun b => b.name == e.name && b.ctx == ctx && b.line != 0 && fld b.line.toNat 21 31 == region
  { s with names := s.names.map fun (e : NameEntry) => if moved e then { e with home := 32 * h } else e }

/-- HAND_OVER_COMPLETE: what the leaf entry names decides; a migration in the region delays it (R80). -/
def execHandOverComplete (d : Nat) (s : State) : Ans :=
  match (s.die d).rhreq with
  | none => .next s
  | some v =>
    let ctx := BitVec.ofNat 16 v.toNat
    let region := fld v.toNat 21 31
    if bit v.toNat 16 ∨ (s.die d).migs.any (fun m => m.ctx == ctx && m.va / 2 ^ 21 == region) then .next s else
    let to' := s.leafHome d ctx region
    if to' = some d then .next (s.rhEnd d stDUP)
    else if 256 ≤ (s.die d).fwd.length then .next (s.rhEnd d stFULL)
    else
      let keep := fun (f : Fwd) => ! (f.ctx == ctx && f.region == region)
      let s := match to' with
        | some h => (s.modDie h fun x => { x with fwd := x.fwd.filter keep }).moveBarriers ctx region h
        | none => s
      let s := s.modDie d fun x =>
        { x with tc := x.tc.filter (fun t => ! (t.ctx == ctx && t.va / 2 ^ 21 == region)), fwd := x.fwd.filter keep ++ [⟨ctx, region, to'⟩] }
      .next (s.rhEnd d stOK)

/-- RETIRE_COMPLETE: the region's entry is gone from every cluster, then the forwarding entry (R83). -/
def execRetireComplete (d : Nat) (s : State) : Ans :=
  match (s.die d).rhreq with
  | none => .next s
  | some v =>
    if ¬ bit v.toNat 16 then .next s else
    let ctx := BitVec.ofNat 16 v.toNat
    let region := fld v.toNat 21 31
    if ¬ (s.die d).fwd.any (fun f => f.ctx == ctx && f.region == region) then .next (s.rhEnd d stDUP) else
    let s := s.clusters.foldl (fun s e => s.modCluster e.1 fun k =>
      { k with rhcache := k.rhcache.filter fun r => ! (r.ctx == ctx && r.region == region) }) s
    .next ((s.modDie d fun x => { x with fwd := x.fwd.filter fun f => ! (f.ctx == ctx && f.region == region) }).rhEnd d stOK)

/-! Page migration (R86, R87) -/

/-- The table without the keys of [k, k + n); with them moved to `k'` in place of what stood there. -/
def dropRange {α : Type} (t : Tab α) (k n : Nat) : Tab α := t.filter fun e => ! decide (k ≤ e.1 ∧ e.1 < k + n)
def copyRange {α : Type} [DecidableEq α] (d : α) (t : Tab α) (k k' n : Nat) : Tab α :=
  t.foldl (fun u e => if k ≤ e.1 ∧ e.1 < k + n then u.set d (k' + (e.1 - k)) e.2 else u) (dropRange t k' n)

/-- The completion record of a migration, written with a release at device scope. DESIGN CHOICE: at the address the descriptor names even
where that is misaligned, unpopulated or 2^48 or above, taken modulo the rim's key space; R86 and R87 give such a record no status (R86;
log entry 84). -/
def State.migRecord (s : State) (rec_ st : Nat) (freed : Bool) (src : Nat) : State :=
  s.write (rimKey rec_) 16 (st + b2n freed * 2 ^ 8 + src * 2 ^ 64) [⟨[], .device, outside⟩]

/-- A write of MIGREQ: the request is checked; a page that passes is held and copied (R86, R87). A refusal
records 0 for the source frame, as does a page that has no leaf of the stated size, which ends as an abort with nothing copied (log entry
37). DESIGN CHOICE: the migration's own walk sets no accessed bit, and it counts in WALKCNT for every request that the region's home checks,
one that is then refused included (log entry 84). A record whose memory has not been streamed makes the writer wait (R346). -/
def State.migreq (s : State) (d : Nat) (v : W64) : Met State :=
  if fld v.toNat 0 5 ≠ 0 ∨ fld v.toNat 48 16 ≠ 0 then .ok s else
  let r := s.nat (rimKey v.toNat) 32
  let ctx := BitVec.ofNat 16 r
  let big := bit r 16
  let va := fld r 64 64
  let pa := fld r 128 64
  let rec_ := fld r 192 64
  let size := if big then 2 ^ 21 else 2 ^ 16
  if s.ckHold (rimKey rec_) then .wait [rimKey rec_] else
  if (s.forward d ctx va).isSome || s.leafHome d ctx (fld va 21 31) != some d then .ok (s.migRecord rec_ stMOVED false 0) else
  let s := s.modDie d fun x => { x with walkcnt := x.walkcnt + 1 }
  let leaf := match s.walk d ctx va with
    | .ok (at_, e, lvl) => if lvl = (if big then 2 else 1) then some (at_, e) else none
    | .error _ => none
  let pinned : Bool := match leaf with | some (_, e) => bit e 6 | none => false
  let bad := fld r 17 47 != 0 || fld va 52 12 != 0 || va % size != 0 || pa % size != 0 || fld pa 48 16 != 0 || unpopulated pa || pinned
  if bad then .ok (s.migRecord rec_ stPERM false 0)
  else if 4 ≤ (s.die d).migs.length then .ok (s.migRecord rec_ stFULL false 0)
  else match leaf with
    | none => .ok (s.migRecord rec_ stXLATE true 0)
    | some (at_, e) =>
      let t : State := { s with nextId := s.nextId + 1 }
      .ok (t.modDie d fun x => { x with migs := x.migs ++ [⟨s.nextId, ctx, va, big, fld e 8 40 * 256, pa, rec_, at_, e⟩] })

/-- MIGREQ (R86). -/
def execMigreq (d : Nat) (v : W64) (s : State) : Ans := if dieOk d then orStall s (s.migreq d v) else .next s

/-- Words that are waited on, by stitches on a list, on their way to it or saved in their slots for want of room, and barrier lines, move with the frame that holds them (R86, R297, R299). -/
def State.moveWaiters (s : State) (k k' n : Nat) : State :=
  let mv := fun (w : Nat) => if k ≤ w ∧ w < k + n then k' + (w - k) else w
  let go := fun (p : Parked) => match p.on with
    | .word w t => { p with on := .word (mv w) t }
    | _ => p
  let s := s.slots.foldl (fun s e => match e.2.hold with
    | .listFull _ => s.modSlot e.1 fun x => match x.hold with
      | .listFull p => { x with hold := .listFull (go p) }
      | _ => x
    | _ => s) s
  { s with
    parked := s.parked.map go
    parks := s.parks.map go
    graph := s.graph.map (fun (g : GraphNode) => { g with key := mv g.key })
    barriers := s.barriers.map (fun (b : Barrier) => if b.line = 0 then b else { b with key := mv b.key }) }

/-- MIGRATION_COPY_DONE: a changed entry, or a poisoned source line, at which the copy stops, aborts, the parts of the target that were
copied zeroed; else the entry names the target, the page's translations are dropped, and held writes go there (R86, R87). DESIGN CHOICE:
the lines count in no cluster's CPLINES, the spec does not say which cluster's copy engine of the die copies the page (R86, R150; log entry
84). -/
def execMigrationCopyDone (d n : Nat) (s : State) : Ans :=
  match (s.die d).migs.find? fun m => m.id == n with
  | none => .next s
  | some m =>
    let size := if m.big then 2 ^ 21 else 2 ^ 16
    let (k, k') := (rimKey m.src, rimKey m.dst)
    let puts := [k', rimKey m.record, rimKey m.entryAt]
    if puts.any s.ckHold then .next (s.ckWant puts) else
    let done := fun (s : State) => s.modDie d fun x => { x with migs := x.migs.filter fun y => y.id != n }
    let bad := (s.poison.find? fun p => decide (k / 64 ≤ p.1 ∧ p.1 < (k + size) / 64) && bit p.2.toNat 2).map fun p => 64 * p.1 - k
    let got := bad.getD size
    let abort := fun (st : Nat) => .next (done (({ s with
      mem := dropRange s.mem k' got
      poison := dropRange s.poison (k' / 64) (got / 64)
      rel := dropRange s.rel k' got } : State).migRecord m.record st true m.src))
    if s.nat (rimKey m.entryAt) 8 ≠ m.entry.toNat then abort stXLATE
    else if bad.isSome then abort 7
    else
      let t : State := { s with
        mem := copyRange 0 s.mem k k' size
        poison := dropRange s.poison (k' / 64) (size / 64)
        rel := copyRange [] s.rel k k' size }
      let t := (t.put (rimKey m.entryAt) 8 (putFld m.entry.toNat 8 40 (m.dst / 256))).moveWaiters k k' size
      let t := t.modDie d fun x => { x with tc := x.tc.filter fun t => ! (t.ctx == m.ctx && decide (m.va ≤ t.va ∧ t.va < m.va + size)) }
      .next (done (t.migRecord m.record stOK false m.src))

/-! Sampling and the system table (R84, R361) -/

/-- A write of SMPCTL: the count restarts (R78, R84). -/
def State.smpctl (s : State) (d : Nat) (v : W64) : State :=
  let n := v.toNat
  if fld n 1 3 ≠ 0 ∨ fld n 9 7 ≠ 0 ∨ fld n 21 43 ≠ 0 ∨ fld n 4 5 < 4 ∨ 20 < fld n 4 5 ∨ fld n 16 5 < 8 ∨ 24 < fld n 16 5 then s
  else s.modDie d fun x => { x with smpctl := v, smpcount := 0 }
/-- SMPCTL (R84). -/
def execSmpctl (d : Nat) (v : W64) (s : State) : Ans := .next (if dieOk d then s.smpctl d v else s)

/-- The modules that a system table lists (R361). -/
def State.tableAt (s : State) (pa : Nat) : List (BitVec 16) :=
  (List.range 256).filterMap fun i =>
    let e := s.nat (rimKey (pa + 8 * i)) 8
    if bit e 16 then some (BitVec.ofNat 16 e) else none

/-- A link goes down: what is on its way to peers keeps the old route, and a packet on a new one waits for it (R106). -/
def State.linkDown (s : State) (l : Nat) : State :=
  let old := (s.items.filter fun i => tagOf i.ea == 8).map (·.id)
  s.modLink l fun x => { x with up := false, want := none, oldRoute := old, barred := false }

/-- A write of SYSTAB: the table is read, accesses that have begun keep the old one, ports whose peer it does not list go down as one that is lost does, and those it lists again
train (R349, R361). -/
def State.systab (s : State) (d : Nat) (v : W64) : State :=
  if fld v.toNat 0 12 ≠ 0 ∨ fld v.toNat 48 16 ≠ 0 then s else
  let l := s.tableAt v.toNat
  let s := s.modDie d fun x =>
    { x with systab := v, modules := l, oldTables := (x.oldTables.filter fun t => s.items.any fun i => decide (i.id < t.1)) ++ [(s.nextId, x.modules)] }
  if s.bringUp < 8 then s else
  s.links.foldl (fun s e =>
    let x := s.link e.1
    if x.up && ! l.contains x.peer then (s.linkDown e.1).modLink e.1 fun x => { x with barred := true }
    else if x.barred && l.contains x.peer then s.modLink e.1 fun x => { x with up := true, barred := false }
    else s) s
/-- SYSTAB (R361). -/
def execSystab (d : Nat) (v : W64) (s : State) : Ans := .next (if dieOk d then s.systab d v else s)

end Sys2Proof.Machine
end

