-- ==== Sys2Proof/Machine/WeightStore.lean ====
section
/-! DEFINITION. The weight store of a die: its state and the refresh of its bank groups (R132 to R135). -/
namespace Sys2Proof.Machine

/-- The WLOADs that stand in the copy queues of die `d`: core and sequence number. -/
def State.wloadsOf (s : State) (d : Nat) : List (Nat × W64) :=
  s.cores.flatMap fun e => if dieOf e.1 = d then (e.2.copyQ.cmds.filter fun c => c.op == 7).map fun c => (4 * e.1 + c.g % 4, c.seq) else []

/-- A write of WSRIGHTS: the state asked for; while a change waits the writer stalls (R133, R134). -/
def State.wsrights (s : State) (d : Nat) (v : W64) : Met State :=
  if fld v.toNat 1 15 ≠ 0 ∨ fld v.toNat 32 32 ≠ 0 then .ok s
  else if (s.die d).wsWant.isSome then .wait []
  else .ok (s.modDie d fun x => { x with wsWant := some v, wsAhead := s.wloadsOf d })
/-- WSRIGHTS_READ (R134). -/
def execWsrightsRead (d : Nat) (v : W64) (s : State) : Ans := if dieOk d && bit v.toNat 0 then orStall s (s.wsrights d v) else .next s
/-- WSRIGHTS_LOAD (R134). -/
def execWsrightsLoad (d : Nat) (v : W64) (s : State) : Ans := if dieOk d && ! bit v.toNat 0 then orStall s (s.wsrights d v) else .next s

/-- Whether a begun matrix command of die `d` may still read the weight store, itself, or through a stage or the scale arrays of its context
that lie there (R134, R216, R218). -/
def State.wsMatrix (s : State) (d : Nat) : Bool :=
  s.cores.any fun e => dieOf e.1 == d && e.2.mxQ.cmds.any fun c =>
    let staged := fun (lo : Nat) => tagOf (e.2.stages.get Stage.reset (fld c.w.toNat lo 3)).base == 5
    let scales := match e.2.fmt with
      | some f => ! bit f.blk.toNat 22 && (fld f.blk.toNat 124 4 == 5 || fld f.blk.toNat 188 4 == 5)
      | none => false
    match c.phase with | .passing _ | .replay _ => bit c.w.toNat 38 || staged 32 || staged 35 || scales | _ => false

/-- WS_STATE_CHANGE: READ once the WLOADs queued before are done, LOAD once the accepted reads are (R134). -/
def execWsStateChange (d : Nat) (s : State) : Ans :=
  match (s.die d).wsWant with
  | none => .next s
  | some v =>
    let waits := if bit v.toNat 0 then (s.wloadsOf d).any fun w => (s.die d).wsAhead.contains w
      else s.wsMatrix d || ((s.die d).wsHeld.any fun h => s.wsAsks h.1) || s.loads.any fun l => tagOf l.addr == 5 && l.cluster / 32 == d && l.reply.isNone
    .next (if waits then s else s.modDie d fun x =>
      { x with wsRead := bit v.toNat 0, wsCtx := BitVec.ofNat 16 (v.toNat / 2 ^ 16), wsWant := none, wsAhead := [] })

/-- The group in its refresh window at a phase (R135). -/
def refreshGroup (p : Nat) : Option Nat := if p % 3000000 < 30000 then some (p / 3000000) else none

/-- WS_REFRESH_START: a group becomes unavailable (R135). -/
def execWsRefreshStart (d : Nat) (s : State) : Ans :=
  match refreshGroup (s.wsPhase d) with
  | some g => .next (if dieOk d then s.modDie d fun x => { x with wsOpen := some g } else s)
  | none => .next s

/-- WS_REFRESH_END: the window is over; what it held counts as it is performed (R133, R135). -/
def execWsRefreshEnd (d : Nat) (s : State) : Ans :=
  if (refreshGroup (s.wsPhase d)).isSome then .next s else .next (s.modDie d fun x => { x with wsOpen := none })

end Sys2Proof.Machine
end

