-- ==== Sys2Proof/Machine/Tasks.lean ====
section
/-! DEFINITION. Tasks: SPAWN and the skeins' tails, SEND, RECV and the receive rings, SETPRIO, TASKNAME, graph replay (R262 to R268,
R274, R275). -/
namespace Sys2Proof.Machine

/-! Checks of address operands (R264, R265, R268, R286) -/

/-- An operand at an address that only tags 0x0, 0x1, 0x2 and 0x4 may carry (or only 0x0, if `own`), aligned to `n`: PERM, then
ALIGN; own local memory also by its rights for `len` bytes, `need` 0 read or 1 write. -/
def State.operandFault (s : State) (ea : W64) (own : Bool) (n len need kind : Nat) : Option FaultInfo :=
  let c := coreOf s.cur
  if (if own then tagOf ea != 0 else ! plainTag ea) || ! addrOk (isSup c) ea then some (permFault ea kind false)
  else if ea.toNat % n ≠ 0 then some ⟨3, ea, w64 kind⟩
  else if tagOf ea = 0 ∧ ¬ s.localOk s.cur s.me.descs need (s.canon c ea) len then some (permFault ea kind false)
  else none

/-- The first fault of some operands ends the word precisely; else it goes on. -/
def State.operands (s : State) (fs : List (Option FaultInfo)) (k : Ans) : Ans :=
  match fs.findSome? id with
  | some f => s.precise f.cause f.addr f.detail
  | none => k

/-- A word that has committed ends: its status into `d`, the restart point past it. -/
def State.finish (s : State) (d : BitVec 5) (v : W64) : Ans := .next ((s.passS d v).modMe Slot.moved)
/-- The same for a slot that waits for a reply. -/
def State.reply (s : State) (g : Nat) (d : BitVec 5) (v : W64) : State := s.modSlot g fun x => (({ x with await := .none }.setS d v).next).moved

/-! SPAWN (R264) -/

/-- A stitch that SPAWN refuses (R250, R264). -/
def stitchBad (st : W512) : Bool :=
  let n := st.toNat
  stState st != 0 || stNamed st || fld n 0 2 != 0 || fld n 57 7 != 0 || fld n 188 3 != 0 || fld (stFeat st) 7 25 != 0 || decide (4 < stScope st) ||
    (stFrame st != 0 && (fld (stFrame st).toNat 0 5 != 0 || ! plainTag (stFrame st)))

/-- A stitch joins the tail of a skein at its home, with the skein's prio, class and place, in context `ctx`, its frame named from
core `c`, or from outside every core from the stitch's preferred core (R251): the status and how many the skein has been given (R264). -/
def State.append (s : State) (nm : W128) (ctx : BitVec 16) (c : Nat) (st : W512) (obs pre : List Nat)
    (rep : Option (BitVec 16 × W64 × Nat)) : State × Nat × Nat :=
  match s.skeins.find? fun k => k.name == nm with
  | none => (s, stGONE, 0)
  | some k =>
    if stitchBad st then (s, stPERM, k.appended) else
    let st := stPut (stPut (stPut st 52 4 (skPrio k.desc)) 176 4 (fld k.desc.toNat 28 4)) 160 16 ctx.toNat
    let st := if stScope st = 0 then stPut st 180 12 (skPlace k.desc) else st
    let by_ := if c = outside then 32 * k.cluster + stPcore st else c
    let st := stPut st 64 64 (rewrite by_ (stFrame st)).toNat
    let st := stPut st 192 64 0
    if ¬ s.placeable (stScope st) k.cluster (32 * k.cluster + stPcore st) (stFrame st) (stFeat st) then (s, stPERM, k.appended)
    else if ¬ s.nseRoom (k.cluster / 32) then (s, stFULL, k.appended)
    else
      let add := fun (x : Skein) => if x.name == nm then
        { x with items := x.items ++ [⟨st, obs, pre, s.cycle, rep⟩], since := if x.items.isEmpty then s.cycle else x.since, appended := x.appended + 1 } else x
      ({ s with skeins := s.skeins.map add }, stOK, k.appended + 1)

/-- SPAWN: commits, reads stitch and name, and waits for the append (R264). -/
def execSpawn (d a b : BitVec 5) (s : State) : Ans :=
  let ea := s.me.s a
  let nb := s.me.s b
  s.operands [s.operandFault ea false 64 64 0 0, s.operandFault nb false 16 16 0 0] <| s.commitThen fun s =>
  let g := s.cur
  let c := coreOf g
  orFault s (s.readAt g ea 64) fun (s, st) => orFault s (s.readAt g nb 16) fun (s, nm) =>
  let (s, status, _) := s.resolve (clusterOf c) s.me.ctx (BitVec.ofNat 128 nm) 3
  if status ≠ stOK ∧ status ≠ stMOVED then s.finish d (w64 status) else
  let t : State := { s with
    spawns := s.spawns ++ [⟨s.nextId, g, d, c, clusterOf c, s.me.ctx, BitVec.ofNat 512 st, BitVec.ofNat 128 nm, s.me.obs, s.me.hb, none⟩], nextId := s.nextId + 1 }
  .next (t.modMe fun x => { x with await := .reply s.nextId })

/-- The status of a host push (R356). -/
def HostQueue.pushed (q : HostQueue) (status : Nat) : HostQueue :=
  { q with status := BitVec.ofNat 8 status, accepted := if status = stOK then q.accepted + 1 else q.accepted }
/-- A window after reset (R356). -/
def HostQueue.reset : HostQueue := ⟨0, 0, 0, 0, 0⟩

/-- SPAWN_APPEND: the spawn reaches its skein's home after those its cluster sent before; its status goes back (R264, R277). -/
def execSpawnAppend (n : Nat) (s : State) : Ans :=
  match s.spawns.find? fun r => r.id == n with
  | none => .next s
  | some r =>
    if s.spawns.any fun o => decide (o.id < n) && o.cluster == r.cluster && o.nm == r.nm then .next s else
    let home := nmCluster r.nm / 32
    if s.nseHold home then .next (s.wantRanges (nseRanges home)) else
    let (s, status, count) := s.append r.nm r.ctx r.core r.st r.obs r.pre r.rep
    let t : State := { s with spawns := s.spawns.filter fun o => o.id != n }
    if Config.slots ≤ r.g then
      .next { t with hostQueues := t.hostQueues.set HostQueue.reset (r.g - Config.slots) ((t.hostQueues.get HostQueue.reset (r.g - Config.slots)).pushed status) }
    else .next ((t.modSlot r.g fun x => { x with stepRep := if status = stOK then (3, w64 count) else (0, 0) }).reply r.g r.d (w64 status))

/-! Messages (R267, R268) -/

/-- SEND: commits, reads the message from own local memory, and waits for its status (R268). -/
def execSend (d a b : BitVec 5) (s : State) : Ans :=
  let mb := s.me.s b
  s.operands [s.operandFault mb true 32 32 0 0] <| s.commitThen fun s =>
  let g := s.cur
  let dest := (s.me.s a).toNat
  if 2 ^ 18 ≤ dest then (s.modMe fun x => { x with stepRep := (4, w64 stPERM) }).finish d (w64 stPERM) else
  orFault s (s.readAt g mb 32) fun (s, msg) =>
  let t : State := { s with
    sends := s.sends ++ [⟨s.nextId, g, d, dest, s.me.ctx, BitVec.ofNat 256 msg, w64 (slotId g + s.me.ctx.toNat * 2 ^ 32), s.me.obs, s.me.hb, none⟩], nextId := s.nextId + 1 }
  .next (t.modMe fun x => { x with await := .reply s.nextId })

/-- The message at its ring: refused, or an entry written, a release at the narrowest scope around both cores, and head one up
(R267, R268). -/
def State.deliver (s : State) (r : SendReq) : State × Nat :=
  let (w, h, t) := s.ring r.target
  let size := 2 ^ fld w 19 4
  let c := coreOf r.target
  if ¬ bit w 18 || fld w 32 16 != r.ctx.toNat || (s.cluster (clusterOf c)).fenced then (s, stPERM)
  else if (h + 2 ^ 32 - t) % 2 ^ 32 = size then (s, stFULL)
  else
    let s := s.write (localKey c (fld w 0 18 + 64 * (h % size))) 64 (r.msg.toNat + r.sender.toNat * 2 ^ 256) (relOf (narrowest (coreOf r.g) c) (coreOf r.g) r.obs r.pre)
    (s.write (pageKey r.target 0x28) 4 (h + 1), stOK)

/-- SEND_DELIVERY: what the message releases is visible at its scope first (R268, R315). -/
def execSendDelivery (n : Nat) (s : State) : Ans :=
  match s.sends.find? fun r => r.id == n && r.status.isNone with
  | none => .next s
  | some r =>
    let (w, h, _) := s.ring r.target
    let place := localKey (coreOf r.target) (fld w 0 18 + 64 * (h % 2 ^ fld w 19 4))
    if ! s.visible (narrowest (coreOf r.g) (coreOf r.target)) (coreOf r.g) r.obs then .next s else
    let puts := [place, pageKey r.target 0x28]
    if puts.any s.ckHold then .next (s.ckWant puts) else
    let (s, status) := s.deliver r
    let fix := fun (o : SendReq) => if o.id == n then { o with status := some (BitVec.ofNat 8 status) } else o
    .next { s with sends := s.sends.map fix }

/-- SEND_STATUS: the status reaches the sender, which goes on (R268). -/
def execSendStatus (g : Nat) (s : State) : Ans :=
  match s.sends.find? fun r => r.g == g && r.status.isSome with
  | none => .next s
  | some r =>
    let st := BitVec.zeroExtend 64 (r.status.getD 0)
    let t : State := { s with sends := s.sends.filter fun o => o.id != r.id }
    .next ((t.modSlot g fun x => { x with stepRep := (4, st) }).reply g r.d st)

/-- RECV: commits, waits HELD for a message, copies it to own local memory and takes it, an acquire (R268). -/
def execRecv (d a : BitVec 5) (s : State) : Ans :=
  let ea := s.me.s a
  let (w, _, _) := s.ring s.cur
  if tagOf ea = 0 ∧ addrOk (isSup (coreOf s.cur)) ea ∧ ea.toNat % 32 = 0 ∧ ¬ bit w 18 then s.precise 2 ea 0 else
  s.operands [s.operandFault ea true 32 32 1 0] <| s.commitThen fun s =>
  let g := s.cur
  let c := coreOf g
  let (w, h, t) := s.ring g
  if h = t then .next (s.holdFor .recv)
  else
  let puts := [lKey (s.canon c ea), pageKey g 0x2C]
  if puts.any s.ckHold then .next (s.ckWant puts) else
  let k := localKey c (fld w 0 18 + 64 * (t % 2 ^ fld w 19 4))
  if s.poisoned k 64 then .next (s.poisonFault g (mkAddr 0 (k % 2 ^ 18))) else
  let msg := s.nat k 32
  let sender := w64 (s.nat (k + 32) 8)
  let s := s.modMe fun x => x.saw c .device (s.carried k 64) []
  let s := (s.writeLocal s.me.ctx (s.canon c ea) 32 msg (relOf .none c [] s.me.hb)).guarded g (s.canon c ea) 32 1
  (s.write (pageKey g 0x2C) 4 (t + 1)).finish d sender

/-- RXRING: a store of an agent of slot `w`'s context to word +0x020 of slot `g`'s page is performed: the ring is set, head and tail
are 0, unless the word would break it (R267). -/
def execRxring (g w : Nat) (v : W64) (s : State) : Ans :=
  if ¬ s.slotReach g ∨ ¬ ringOk (putFld v.toNat 32 16 0) then .next s
  else .next (s.writeLocal (s.slot w).ctx (mkAddr 2 (pageKey g 0x20)) 8 v.toNat [])

/-! SETPRIO and TASKNAME (R265, R266) -/

/-- SETPRIO (R266). -/
def execSetprio (d a : BitVec 5) (s : State) : Ans :=
  let v := (s.me.s a).toNat
  if 16 ≤ v then s.illegal ((encode (.setprio d a)).getD 0)
  else if (s.cluster (clusterOf (coreOf s.cur))).cap.toNat < v then .next (s.passS d (w64 stPERM))
  else .next ((s.modMe fun x => { x with prio := BitVec.ofNat 4 v }).passS d (w64 stOK))

/-- A name issued at die `d` with its live entry in place: FULL where there is no serial or no room; it waits while the slice's memory
has still to be streamed (R281, R282, R346). -/
def State.newName (s : State) (d cls cluster home : Nat) (ctx : BitVec 16) (value : W64) : Met (State × Option W128) :=
  match s.issue d with
  | .wait h => .wait h
  | .bad _ => .ok (s, none)
  | .ok (s, n) =>
    let slice := (Config.sliceOf (w64 n)).val
    if ¬ s.sliceRoom (w64 n) then .ok (s, none)
    else if s.nseHold slice then .wait ((nseRanges slice).map rangeKey) else
    let nm := s.makeName cls n cluster
    .ok ({ s with names := s.names ++ [⟨nm, BitVec.ofNat 6 cls, false, ctx, home, value, 0⟩] }, some nm)

/-- TASKNAME: the name is written to own local memory at once; it is no commit boundary (R265). -/
def execTaskname (d a : BitVec 5) (s : State) : Ans :=
  let ea := s.me.s a
  s.operands [s.operandFault ea true 16 16 1 1] <|
  let g := s.cur
  let c := coreOf g
  let e := s.canon c ea
  if s.me.buf.any (fun x => touchesEntry x e 16) then s.drain fun x => touchesEntry x e 16
  else if ¬ s.mayStore g then .next s
  else if s.ckHold (lKey e) then .next (s.ckWant [lKey e])
  else
    let put := fun (s : State) (nm : W128) => (s.writeLocal s.me.ctx e 16 nm.toNat (s.me.carries c)).guarded g e 16 1
    if s.me.named then .next ((put s s.me.name).passS d (w64 stDUP))
    else if s.me.fsp = 0 then .next (s.passS d (w64 stPERM))
    else match s.newName (dieOf c) 5 (clusterOf c) (clusterOf c) s.me.ctx 0 with
      | .ok (s, some nm) => .next ((put (s.modMe fun x => { x with named := true, name := nm, taskid := nmSerial nm }) nm).passS d (w64 stOK))
      | .ok (s, none) => .next (s.passS d (w64 stFULL))
      | .wait h => .next (s.ckWant h)
      | .bad _ => .next s

/-! Graph replay (R275) -/

/-- An access of a replay ends with this status. -/
def faultStatus (f : FaultInfo) : Nat :=
  if f.cause = 4 then stXLATE else if f.cause = 7 then 7 else if f.cause = 6 then 15 else stPERM

/-- An access of a replay in the context of its slot: a fault is a status, none a wait. -/
def grMet {α : Type} : Got α → Except (Option Nat) α
  | .ok a => .ok a
  | .bad _ f => .error (some (faultStatus f))
  | .wait _ => .error none
/-- The `n` bytes that a replay started by slot `g` reads at `ea`, line by line, where they lie: it is an agent outside every core, to
which no outbound queue is visible (R304, R309). -/
def State.grRead (s : State) (g : Nat) (ctx : BitVec 16) : Nat → W64 → Nat → Except (Option Nat) (State × Nat)
  | 0, _, _ => .ok (s, 0)
  | f + 1, ea, n =>
    if n = 0 then .ok (s, 0) else
    let c := coreOf g
    let m := Min.min n (64 - ea.toNat % 64)
    let line : Except (Option Nat) (State × Nat) := (grMet (s.access g ctx (s.protSet (clusterOf c) ctx) ea m .read 0)).bind fun (s, k) =>
      if s.poisoned k m then .error (some 7) else .ok ({ s with grSeen := union s.grSeen (preOf (s.carried k m)) }, s.nat k m)
    line.bind fun (s, v) => (s.grRead g ctx f (ea + w64 m) (n - m)).map fun (s, w) => (s, v + w * 2 ^ (8 * m))
/-- The low `n` bytes of `v` that it writes there, which carry nothing (R314). -/
def State.grWrite (s : State) (g : Nat) (ctx : BitVec 16) : Nat → W64 → Nat → Nat → Except (Option Nat) State
  | 0, _, _, _ => .ok s
  | f + 1, ea, n, v =>
    if n = 0 then .ok s else
    let c := coreOf g
    let m := Min.min n (64 - ea.toNat % 64)
    (grMet (s.access g ctx (s.protSet (clusterOf c) ctx) ea m .write 1)).bind fun (s, k) =>
      let a := s.canon c ea
      if tagOf a = 2 ∧ ¬ s.pageOk a m v then .error (some stPERM) else
      (if tagOf a = 2 then s.writeLocal ctx a m (v % 2 ^ (8 * m)) [] else s.write k m (v % 2 ^ (8 * m)) []).grWrite g ctx f (ea + w64 m) (n - m) (v / 2 ^ (8 * m))

/-- A node of a graph: record, template, and the offset of its parameters in the copy. -/
structure GrNode where
  rec_ : W512
  tmpl : W512
  off : Nat
  deriving DecidableEq, Repr

def grLen (r : W512) : Nat := fld r.toNat 256 16
def grBytes (r : W512) : Nat := (grLen r + 63) / 64 * 64
def grBad (r : W512) : Bool := grLen r % 8 != 0 || decide (grLen r < 8 ∨ 1024 < grLen r) || fld r.toNat 272 48 != 0 || fld r.toNat 448 64 != 0

/-- Every node record and template, in order, from node `i` on; the bytes of one copy last (R275). -/
def State.grNodes (s : State) (g : Nat) (ctx : BitVec 16) (tab : W64) (off : Nat) : Nat → Nat → Except (Option Nat) (State × List GrNode × Nat)
  | _, 0 => .ok (s, [], off)
  | i, n + 1 =>
    (s.grRead g ctx 2 (tab + w64 (64 * i)) 64).bind fun (s, r) =>
      let r := BitVec.ofNat 512 r
      if grBad r then .error (some stPERM) else
      (s.grRead g ctx 2 (w64 (fld r.toNat 128 64)) 64).bind fun (s, t) =>
      (State.grNodes s g ctx tab (off + grBytes r) (i + 1) n).map fun (s, l, a) => (s, ⟨r, BitVec.ofNat 512 t, off⟩ :: l, a)

/-- The parameters of every node copied to its place at `base`. -/
def State.grCopy (s : State) (g : Nat) (ctx : BitVec 16) (base : W64) : List GrNode → Except (Option Nat) State
  | [] => .ok s
  | n :: l =>
    (s.grRead g ctx 17 (w64 (fld n.rec_.toNat 192 64)) (grLen n.rec_)).bind fun (s, v) =>
    (s.grWrite g ctx 17 (base + w64 n.off) (grLen n.rec_) v).bind fun s => State.grCopy s g ctx base l

/-- A node's stitch spawned as SPAWN does, a release at device scope of what the replay has observed: the status (R275, R304). -/
def State.grSpawn (s : State) (g : Nat) (ctx : BitVec 16) (nm : W128) (st : W512) (rep : Option (BitVec 16 × W64 × Nat)) : State × Nat :=
  let c := coreOf g
  let (s, status, _) := s.resolve (clusterOf c) ctx nm 3
  if status ≠ stOK ∧ status ≠ stMOVED then (s, status) else
  let (s, status, _) := s.append nm ctx c st s.grSeen [] rep
  (s, status)

/-- The nodes of replay `n` spawned or parked in order; the first failing status. -/
def State.grRun (s : State) (g : Nat) (ctx : BitVec 16) (stat base : W64) (n : Nat) : List GrNode → Nat → Met (State × Nat)
  | [], e => .ok (s, e)
  | x :: l, e =>
    let nm := BitVec.ofNat 128 x.rec_.toNat
    let st := stPut (stPut x.tmpl 256 64 (base + w64 x.off).toNat) 320 64 n
    let flag := w64 (fld x.rec_.toNat 320 64)
    let thr := w64 (fld x.rec_.toNat 384 64)
    let rep := some (ctx, stat, n)
    let go := fun (r : State × Nat) => State.grRun r.1 g ctx stat base n l (if e = stOK then r.2 else e)
    if flag = 0 then (if s.settled s.grSeen then go (s.grSpawn g ctx nm st rep) else .wait []) else
    match s.access g ctx (s.protSet (clusterOf (coreOf g)) ctx) flag 8 .read 0 with
    | .ok (s, k) =>
      let node : GraphNode := ⟨s.nextId, g, s.grSeen, ctx, nm, st, k, thr, stat, decide (thr.toNat ≤ s.nat k 8), rep⟩
      go ({ s with graph := s.graph ++ [node], nextId := s.nextId + 1 }, stOK)
    | .bad s f => go (s, faultStatus f)
    | .wait h => .wait h

/-- Whether a stitch of a replay has not been dispatched (R275). -/
def State.grWaiting (s : State) (rep : BitVec 16 × W64 × Nat) : Bool :=
  s.skeins.any (fun k => k.items.any fun i => i.rep == some rep) || s.graph.any fun x => x.rep == some rep

/-- A write of GRREPLAY by slot `g`: every block is bound, the parameters are copied, the nodes are spawned or parked, the status word
tells; it waits as a whole where one of its accesses must (R275). -/
def State.grreplay (s : State) (g : Nat) (v : W64) : Met State :=
  if tagOf v ≠ 4 ∨ v.toNat % 64 ≠ 0 ∨ ¬ addrOk false v then .ok s else
  let ctx := (s.slot g).ctx
  let met := fun (t : State) (r : Except (Option Nat) State) => match r with
    | .ok t => Met.ok t
    | .error (some _) => .ok t
    | .error none => .wait []
  match ({ s with grSeen := [] } : State).grRead g ctx 2 v 64 with
  | .error none => .wait []
  | .error (some _) => .ok s
  | .ok (s, d) =>
    let stat := w64 (fld d 192 64)
    let args := fld d 128 64
    let count := fld d 0 32
    match s.grRead g ctx 2 stat 8 with
    | .error none => .wait []
    | .error (some _) => .ok s
    | .ok (s, old) =>
      let fin := fun (s : State) (replays status : Nat) => met s (s.grWrite g ctx 2 stat 8 (replays % 2 ^ 32 + status * 2 ^ 32))
      let fail := fun (e : Option Nat) => match e with
        | none => Met.wait []
        | some e => fin s (fld old 0 32) e
      if fld d 32 32 ≠ 0 ∨ fld d 256 256 ≠ 0 ∨ count < 1 ∨ 4096 < count ∨ fld d 64 6 ≠ 0 ∨ args % 64 ≠ 0 then fin s (fld old 0 32) stPERM else
      match s.grNodes g ctx (w64 (fld d 64 64)) 0 0 count with
      | .error e => fail e
      | .ok (s, nodes, size) =>
        let n := (fld old 0 32 + 1) % 2 ^ 32
        let base := args + n % 2 * size
        if s.grWaiting (ctx, stat, (n + 2 ^ 32 - 2) % 2 ^ 32) then fin s (fld old 0 32) stFULL else
        match s.grCopy g ctx (w64 base) nodes with
        | .error e => fail e
        | .ok s => match s.grRun g ctx stat (w64 base) n nodes stOK with
          | .ok (s, e) => fin s n e
          | _ => .wait []

/-- GRREPLAY (R275). -/
def execGrreplay (g : Nat) (v : W64) (s : State) : Ans := if s.slotReach g then orStall s (s.grreplay g v) else .next s

/-- GRAPH_NODE_SPAWN: a parked node whose flag is satisfied is spawned, once what the replay and the read of the flag have observed is
visible; a failing status is kept (R275, R314). -/
def execGraphNodeSpawn (n : Nat) (s : State) : Ans :=
  match s.graph.find? fun x => x.id == n && x.due with
  | none => .next s
  | some x =>
    let seen := union x.obs (preOf (s.carried x.key 8))
    if ¬ s.settled seen then .next s else
    let t : State := { s with graph := s.graph.filter (fun y => y.id != n), grSeen := seen }
    let (t, e) := t.grSpawn x.g x.ctx x.nm x.st x.rep
    if e = stOK then .next t else
    match (t.grRead x.g x.ctx 2 x.stat 8).bind fun (u, v) => if fld v 32 8 = 0 then u.grWrite x.g x.ctx 2 x.stat 8 (putFld v 32 8 e) else .ok u with
    | .ok u => .next u
    | .error none => .next s
    | .error (some _) => .next t

end Sys2Proof.Machine
end

