-- ==== Sys2Proof/Machine/Windows.lean ====
section
/-! DEFINITION. Writes of the windows: tag 0x3 (R130, R150, R215, R271) and the blocks of tag 0xF (R78, R128, R133, R303, R319, R322,
R324, R326, R328, R338, R351). A write that sets a reserved bit or leaves a field's range is dropped whole (R79); one that no
register takes is refused with PERM (R319, log entry 25). -/
namespace Sys2Proof.Machine

/-- A register write that takes effect if the value is in range. -/
def keepIf (ok : Bool) (s t : State) : Met State := .ok (if ok then t else s)
/-- The refusal of a window (R319). -/
def refuse : Met State := .bad ⟨2, 0, 0⟩
/-- Whether `v` sets no bit outside [lo, lo + n). -/
def only (v lo n : Nat) : Bool := putFld v lo n 0 == 0
/-- Whether `v` is an enable bit and a ring size of 4 to 16 in [12:8] (R322, R351, R355). -/
def ringCtlOk (v : Nat) : Bool := only (putFld v 0 1 0) 8 5 && decide (4 ≤ fld v 8 5 ∧ fld v 8 5 ≤ 16)

/-- Slot control (R324). -/
def State.slotRegWrite (s : State) (g i v : Nat) : Met State :=
  match i with
  | 0x00 => s.slcmd g v
  | 0x10 => keepIf (only (putFld v 0 1 0) 10 42) s (s.modSlot g fun x => { x with spillbase := w64 v })
  | _ => refuse

/-- Core debug (R338). -/
def State.traceRegWrite (s : State) (c i v : Nat) : Met State :=
  match i with
  | 0x1000 => keepIf (only v 0 23 && decide (fld v 13 3 ≤ 3)) s (s.modCore c fun k => { k with trace := { k.trace with ctl := w64 v } })
  | 0x1008 => .ok (s.modCore c fun k => { k with trace := { k.trace with cmp := w64 v } })
  | 0x1010 => .ok (s.modCore c fun k => { k with trace := k.trace.status (w64 v) })
  | _ => refuse

/-- Whether two valid sets of a protection table name one context (R128). -/
def protClash (t : Tab W64) : Bool :=
  let l := ((List.range 16).map fun k => (t.get 0 (32 * k)).toNat).filter fun v => bit v 16
  (List.range l.length).any fun i => (List.range i).any fun j => fld (l.getD i 0) 0 16 == fld (l.getD j 0) 0 16

/-- The protection table (R128). -/
def State.protWrite (s : State) (cl i v : Nat) : Met State :=
  let off := i % 0x100
  let t := (s.cluster cl).prot.set 0 (i / 8) (w64 v)
  let put := s.modCluster cl fun k => { k with prot := t }
  if off = 0 then keepIf (only v 0 17 && ! protClash t) s put
  else if off < 0x10 ∨ 0x90 ≤ off then refuse
  else if off / 8 % 2 = 0 then keepIf ((fld v 60 4 == 2 || fld v 60 4 == 5) && v % 8 == 0) s put
  else keepIf (only v 0 52 && fld v 0 48 % 8 == 0) s put

/-- The matrix unit's MXSHARE (R215). -/
def State.shareWrite (s : State) (cl i v : Nat) : Met State :=
  if i < 0x100 then keepIf (decide (1 ≤ v ∧ v ≤ 255)) s (s.modCore (32 * cl + i / 8) fun k => { k with share := BitVec.ofNat 8 v }) else refuse

/-- The dispatcher's registers (R271). -/
def State.dispWrite (s : State) (cl i v : Nat) : Met State :=
  match i with
  | 0x100 => keepIf (decide (v < 16)) s (s.modCluster cl fun k => { k with exempt := BitVec.ofNat 4 v })
  | 0x108 => keepIf (decide (v < 16)) s (s.modCluster cl fun k => { k with cap := BitVec.ofNat 4 v })
  | _ => refuse

/-- The home network interface (R78). DESIGN CHOICE: a write of SMPTAIL takes the low 32 bits, and a write of SMPDROP the value written,
where R78 has software write 0; the spec says neither (R79; log entry 85). -/
def State.homeRegWrite (s : State) (d i v : Nat) : Met State :=
  let set := fun (ok : Bool) (f : Die → Die) => keepIf ok s (s.modDie d f)
  match i with
  | 0x00 => set (only v 12 36) fun x => { x with ctxtab := w64 v }
  | 0x08 => set (only v 16 36) fun x => { x with tcva := w64 v }
  | 0x10 => s.tcinv d (w64 v)
  | 0x20 => s.rhreq d (w64 v)
  | 0x30 => s.migreq d (w64 v)
  | 0x38 => .ok (s.smpctl d (w64 v))
  | 0x40 => set (only v 12 36) fun x => { x with smpbase := w64 v }
  | 0x50 => .ok (s.modDie d fun x => { x with smptail := BitVec.ofNat 32 v })
  | 0x58 => .ok (s.modDie d fun x => { x with smpdrop := w64 v })
  | 0x70 => .ok (s.systab d (w64 v))
  | _ => refuse

/-- The weight store (R133). -/
def State.wsRegWrite (s : State) (d i v : Nat) : Met State :=
  match i with
  | 0x00 => s.wsrights d (w64 v)
  | 0x18 => .ok (s.modDie d fun x => { x with wsStalls := w64 v })
  | 0x20 => .ok (s.modDie d fun x => { x with wsStallCyc := w64 v })
  | _ => refuse

/-- The NSE (R303). -/
def State.nseRegWrite (s : State) (d i v : Nat) : Met State :=
  match i with
  | 0x00 => keepIf (only v 12 36) s (s.modDie d fun x => { x with ovfbase := w64 v })
  | 0x08 => keepIf (decide (v < 2 ^ 24) && decide ((s.die d).ovfsize.toNat ≤ v)) s (s.modDie d fun x => { x with ovfsize := w64 v })
  | 0x20 => .ok (s.modDie d fun x => { x with badname := w64 v })
  | 0x28 => .ok (s.modDie d fun x => { x with tmwake := w64 v })
  | _ => refuse

/-- Die debug (R328). -/
def State.debugRegWrite (s : State) (d i v : Nat) : Met State :=
  match i with
  | 0x00 => .ok (if v = 0 then s.unhaltDie d else if v = 1 then s.haltDie d else s)
  | 0x10 => if s.killing.isSome && only v 0 16 && v != 0 then .wait [] else .ok (s.ctxkill (w64 v))
  | _ => refuse

/-- GVEXEMPT: the exempt level of the die, alike in its 32 clusters (R351). -/
def State.gvexempt (s : State) (d v : Nat) : State :=
  if 16 ≤ v then s else
  let s := s.modDie d fun x => { x with gov := { x.gov with exempt := BitVec.ofNat 4 v } }
  (List.range 32).foldl (fun s i => s.modCluster (32 * d + i) fun k => { k with exempt := BitVec.ofNat 4 v }) s

/-- RMFREEZE: a host write of 1 clears frozen (R348). -/
def State.unfreeze (s : State) (d : Nat) : State := s.modDie d fun x => { x with gov := { x.gov with frozen := false } }

/-- Whether a word of a signature window may take a value (R351). -/
def sgwinOk (i v : Nat) : Bool :=
  match i % 32 with
  | 8 => only v 0 32
  | 24 => only v 0 17
  | _ => only v 0 52

/-- Governor and monitor, written by a core or by the host (R351). -/
def State.govRegWrite (s : State) (d i v : Nat) (host : Bool) : Met State :=
  let set := fun (ok : Bool) (f : Governor → Governor) => keepIf ok s (s.modDie d fun x => { x with gov := f x.gov })
  if 0x40 ≤ i ∧ i < 0xC0 then set (decide (v < 2 ^ 32)) fun g => { g with quota := g.quota.set 0xFFFFFFFF ((i - 0x40) / 8) (w64 v) }
  else if 0x200 ≤ i ∧ i < 0x400 then set (sgwinOk i v) fun g => { g with sgwin := g.sgwin.set 0 ((i - 0x200) / 8) (w64 v) }
  else match i with
    | 0x00 => set (decide (100 ≤ v ∧ v ≤ 1000)) fun g => { g with cap := w64 v }
    | 0x08 => set (decide (1 ≤ v ∧ v ≤ 128)) fun g => { g with didt := w64 v }
    | 0x10 => set (decide (1 ≤ v ∧ v ≤ 100)) fun g => { g with step := w64 v }
    | 0x18 => set (decide (512 ≤ v ∧ v ≤ 131072)) fun g => { g with ramp := w64 v }
    | 0x20 => .ok (s.gvexempt d v)
    | 0x140 => set (v % 64 == 0) fun g => { g with tlbase := w64 v }
    | 0x148 => set (ringCtlOk v) fun g => { g with tlctl := w64 v }
    | 0x158 => set true fun g => { g with tltail := BitVec.ofNat 32 v }
    | 0x160 => set true fun g => { g with tldrop := w64 v }
    | 0x188 => set (only (putFld v 0 1 0) 8 16 && fld v 8 16 != 0) fun g => { g with rmctl := w64 v }
    | 0x190 => .ok (if host && v == 1 then s.unfreeze d else s)
    | _ => refuse

/-- The fault queue (R322). -/
def State.faultRegWrite (s : State) (d i v : Nat) : Met State :=
  match i with
  | 0x00 => keepIf (only v 6 46) s (s.modDie d fun x => { x with fqbase := w64 v })
  | 0x08 => keepIf (ringCtlOk v) s (s.modDie d fun x => { x with fqctl := w64 v })
  | _ => refuse

/-- A write of `n` bytes of a block of tag 0xF (R319). -/
def State.blockWrite (s : State) (a n v : Nat) (host : Bool) : Met State :=
  let cl := fld a 23 11
  let i := fld a 0 18
  if s.winFenced a then refuse else
  match fld a 18 5 with
  | 0 => if s.viewWaits (idxSlot cl i) then .wait [ctxKey (idxSlot cl i)] else .ok (s.slotViewWrite (idxSlot cl i) (fld i 0 11) v n)
  | 1 => s.slotRegWrite (idxSlot cl i) (fld i 0 11) v
  | 2 => s.traceRegWrite (idxCore cl i) (fld i 0 13) v
  | 3 => s.protWrite cl i v
  | 4 => s.shareWrite cl i v
  | 5 => s.dispWrite cl i v
  | 8 => s.homeRegWrite (cl / 32) i v
  | 9 => s.wsRegWrite (cl / 32) i v
  | 10 => s.nseRegWrite (cl / 32) i v
  | 11 => s.debugRegWrite (cl / 32) i v
  | 12 => s.govRegWrite (cl / 32) i v host
  | 13 => s.faultRegWrite (cl / 32) i v
  | _ => refuse

/-- A write of `n` aligned bytes of a window by slot `g` when its store is performed; `.bad` where the window refuses it (R319). -/
def State.windowWrite (s : State) (g : Nat) (ea : W64) (n v : Nat) : Met State :=
  let a := ea.toNat
  let c := coreOf g
  if tagOf ea = 15 then
    if fld a 23 11 ≥ Config.clusters ∨ ¬ winSizeOk ea n then refuse else s.blockWrite a n v false
  else match fld a 20 4 with
    | 2 =>
      let b := fld a 0 20 - 0xF0000
      .ok (if b < 0x120 then s.modCore c fun k => { k with guardMap := BitVec.ofNat 2560 (putFld k.guardMap.toNat (8 * b) (8 * n) v) } else s)
    | 3 => if fld a 0 20 = 0x120 ∧ n = 8 then s.grreplay g (w64 v) else refuse
    | _ => refuse

/-- GVEXEMPT (R351). -/
def execGvexempt (d : Nat) (v : W64) (s : State) : Ans := .next (if dieOk d then s.gvexempt d v.toNat else s)
/-- RMFREEZE (R348). -/
def execRmfreeze (d : Nat) (s : State) : Ans := .next (if dieOk d then s.unfreeze d else s)

end Sys2Proof.Machine
end

