-- ==== Sys2Proof/Machine/Requests.lean ====
section
/-! DEFINITION. Requests in flight at their targets: homes, peers, local memories, windows, weight stores; replies, guard notes,
acknowledgements and refusals of a commit (R75, R80 to R82, R89, R92, R93, R98, R100, R129 to R131, R134, R193). -/
namespace Sys2Proof.Machine

/-! The way to the home (R80 to R82) -/

/-- What becomes of a request at the home it has reached. -/
inductive Route where
  /-- performed here -/
  | here
  /-- on to another home, forwarded or sent anew -/
  | moved (home : Nat) (forwarded : Bool)
  /-- no home -/
  | gone
  /-- its correction has not reached the requester yet, or a request that came before it is still to be forwarded -/
  | wait
  deriving DecidableEq, Repr

/-- What becomes of a request there; a home forwards those of one cluster to one region in the order in which they came (R81, R82). -/
def State.route (s : State) (i : Item) (forwarded : Bool) : Route :=
  if ! forwarded && (s.cluster i.cluster).corrections.any fun c => c.1 == i.id then .wait else
  match s.forward i.home i.ctx (fld i.ea.toNat 0 52) with
  | none => .here
  | some e => match e.succ with
    | none => .gone
    | some h =>
      if s.items.any fun o => decide (o.id < i.id) && o.cluster == i.cluster && o.ctx == i.ctx && o.home == i.home && tagOf o.ea == 4 &&
        fld o.ea.toNat 21 31 == fld i.ea.toNat 21 31 then .wait else .moved h (! forwarded)

/-- A home forwards or corrects: it counts, and the correction is on its way to the cluster (R81). -/
def State.correct (s : State) (i : Item) (h : Nat) : State :=
  let s := s.modDie i.home fun x => { x with fwdcnt := x.fwdcnt + 1 }
  s.modCluster i.cluster fun k =>
    { k with corrections := k.corrections.filter (fun c => c.1 != i.id) ++ [(i.id, ⟨i.ctx, fld i.ea.toNat 21 31, h⟩)] }

/-- The corrections of a cluster that requests older than them still stand for (R82). -/
def State.keepFixes (s : State) (cl : Nat) : State :=
  if (s.cluster cl).fixes.isEmpty then s else
  let old := fun (f : RhEntry × Nat) => s.items.any fun o =>
    decide (o.id < f.2) && o.cluster == cl && o.ctx == f.1.ctx && tagOf o.ea == 4 && fld o.ea.toNat 21 31 == f.1.region
  s.modCluster cl fun k => { k with fixes := k.fixes.filter old }

/-- HOME_CORRECTION: a correction reaches its cluster with the response, or with a request returned unperformed (R81, R82). -/
def execHomeCorrection (n : Nat) (s : State) : Ans :=
  match s.clusters.findSome? fun e => (e.2.corrections.find? fun c => c.1 == n).map fun c => (e.1, c.2) with
  | none => .next s
  | some (cl, r) =>
    let away := s.out.any (fun o => o.id == n && o.forwarded) || s.loads.any (fun l => l.id == n && l.forwarded && l.reply.isNone) ||
      s.amos.any (fun a => a.id == n && a.forwarded && a.reply.isNone)
    .next (if away then s else
      ((s.modCluster cl fun k => { k with corrections := k.corrections.filter fun c => c.1 != n }).keepFixes cl).corrected cl r)

/-! Changes of one request -/

def State.modOut (s : State) (n : Nat) (f : OutEntry → OutEntry) : State := { s with out := s.out.map fun o => if o.id = n then f o else o }
def State.modLoad (s : State) (n : Nat) (f : LoadReq → LoadReq) : State := { s with loads := s.loads.map fun l => if l.id = n then f l else l }
def State.modAmo (s : State) (n : Nat) (f : AmoReq → AmoReq) : State := { s with amos := s.amos.map fun a => if a.id = n then f a else a }

/-- A target refuses an entry (R93). -/
def State.refuseOut (s : State) (n : Nat) (f : FaultInfo) : State := s.modOut n fun o => { o with refused := some f }
/-- A target answers a load with a fault. -/
def State.failLoad (s : State) (n : Nat) (f : FaultInfo) : State := s.modLoad n fun l => { l with reply := some (.fault f) }

/-- An entry has been performed and acknowledged; the own store of a word moves the restart point past it (R96, R98). -/
def State.performed (s : State) (o : OutEntry) : State :=
  let s : State := { s with out := s.out.filter fun p => p.id != o.id }
  if o.word then s.modSlot o.g fun x => { x with rstpc := o.e.ipc + 4 } else s

/-- The stored bytes of an entry are in place: a plain entry is done, a flagged store goes on to its flag's home (R98). -/
def State.stored (s : State) (o : OutEntry) : State :=
  match o.e.kind with
  | .fst flag _ _ =>
    let (s, h, f) := s.homeOf o.cluster o.ctx flag
    s.modOut o.id fun o => { o with half := true, home := h, forwarded := false, refused := f }
  | _ => s.performed o

/-- Whether an entry's store may be performed now: it stores data, in its order, and what its release covers is visible
(R92, R96, R98, R315). -/
def State.outReady (s : State) (o : OutEntry) : Bool :=
  o.refused.isNone && ! o.half && (match o.e.kind with | .amo .. => false | _ => true) &&
    s.first ⟨o.id, o.cluster, o.ctx, o.home, o.e.line⟩ && s.releasable o

/-- The bytes of a load, as a mask, that its register takes. -/
def LoadReq.want (l : LoadReq) : Nat :=
  match l.dst with
  | .whole _ w mask => (List.range (256 / w)).foldl (fun m k => if bit mask.toNat k then m + (2 ^ (w / 8) - 1) * 2 ^ (w / 8 * k) else m) 0
  | _ => 2 ^ l.n - 1

/-- A load's bytes read at the flat key: POISON, unless none of them is needed, or the value, with what the slot learns from it (R89,
R309, R312, R340). -/
def State.serve (s : State) (l : LoadReq) (k : Nat) : State :=
  if s.poisoned k l.n ∧ l.want &&& l.kmask.toNat ≠ l.want then s.failLoad l.id ⟨7, l.addr, 0⟩ else
  let s := s.modSlot l.g fun x => x.saw (coreOf l.g) l.acq (s.carried k l.n) []
  s.modLoad l.id fun l => { l with reply := some (.data (BitVec.ofNat 256 (s.nat k l.n))) }

/-! Homes and peers (R75, R100, R102) -/

/-- HOME_REQUEST: a global or system request at its home; `peer` is what another module answers (log entry 1). -/
def execHomeRequest (n : Nat) (peer : BitVec 8) (s : State) : Ans :=
  match s.out.find? fun o => o.id == n with
  | some o =>
    let i : Item := ⟨n, o.cluster, o.ctx, o.home, o.e.line⟩
    if ¬ s.outReady o then .next s
    else if tagOf o.e.line = 8 then
      match s.atPeer o.home n o.ctx o.e.line .write peer with
      | .ok (s, k) => .next ((s.writeMask k o.e.data o.e.mask o.carries).stored o)
      | .bad t f => .next (t.refuseOut n f)
      | .wait h => .next (s.ckWant h)
    else if tagOf o.e.line ≠ 4 then .next s
    else match s.route i o.forwarded with
      | .wait => .next s
      | .gone => .next (s.refuseOut n (xlateFault o.e.line 1 0))
      | .moved h fw => .next ((s.correct i h).modOut n fun o => { o with home := h, forwarded := fw })
      | .here => match s.atHome o.home o.cluster o.ctx o.e.line 64 .write false 1 with
        | .ok (s, k) => .next ((s.writeMask k o.e.data o.e.mask o.carries).stored o)
        | .bad t f => .next (t.refuseOut n f)
        | .wait h => .next (s.ckWant h)
  | none =>
    match s.loads.find? fun l => l.id == n && l.reply.isNone with
    | none => .next s
    | some l =>
      let i : Item := ⟨n, l.cluster, l.ctx, l.home, l.addr⟩
      if ¬ s.first i then .next s
      else if tagOf l.addr = 8 then
        match s.atPeer l.home n l.ctx l.addr .read peer with
        | .ok (s, k) => .next (s.serve l k)
        | .bad t f => .next (t.failLoad n f)
        | .wait h => .next (s.ckWant h)
      else if tagOf l.addr ≠ 4 then .next s
      else match s.route i l.forwarded with
        | .wait => .next s
        | .gone => .next (s.failLoad n (xlateFault l.addr 1 0))
        | .moved h fw => .next ((s.correct i h).modLoad n fun l => { l with home := h, forwarded := fw })
        | .here => match s.atHome l.home l.cluster l.ctx l.addr l.n .read false 0 with
          | .ok (s, k) => .next (s.serve l k)
          | .bad t f => .next (t.failLoad n f)
          | .wait h => .next (s.ckWant h)

/-! Local memory and windows (R122 to R131, R319) -/

/-- The value that an entry stores with one of its accesses. -/
def Entry.part (e : Entry) (a : Nat × Nat) : Nat := fld e.data.toNat (8 * a.1) (8 * a.2)

/-- The accesses of an entry written to local memory: slot-page words act, guard notes are sent (R127, R131). -/
def State.storeLocal (s : State) (o : OutEntry) : State :=
  let s := if lOff o.e.line < 0x27000 then s.writeMask (lKey o.e.line) o.e.data o.e.mask o.carries
    else o.e.accs.foldl (fun s a => s.writeLocal o.ctx (o.e.line + w64 a.1) a.2 (o.e.part a) o.carries) s
  o.e.accs.foldl (fun s a => s.guarded o.g (o.e.line + w64 a.1) a.2 1) s

/-- The accesses of an entry at a window, in order, until one is refused or must wait: what is left of them. -/
def State.storeWindow (s : State) (o : OutEntry) : List (Nat × Nat) → State × Met (List (Nat × Nat))
  | [] => (s, .ok [])
  | a :: l =>
    match s.windowWrite o.g (o.e.line + w64 a.1) a.2 (o.e.part a) with
    | .ok s => State.storeWindow s o l
    | .bad f => (s, .bad { f with addr := o.e.line + w64 a.1, detail := 0x101 })
    | .wait _ => (s, .ok (a :: l))

/-- The accesses that a load makes: itself, or its governed elements, address and bytes (R123, R209). -/
def LoadReq.parts (l : LoadReq) : List (W64 × Nat) :=
  match l.dst with
  | .whole _ w mask => ((List.range (256 / w)).filter fun k => bit mask.toNat k).map fun k => (l.addr + w64 (w / 8 * k), w / 8)
  | _ => [(l.addr, l.n)]

/-- LOCAL_MEMORY_REQUEST: a request at a bank of local memory, decided by the protection unit there, or a store at a window
(R129, R131, R319). -/
def execLocalMemoryRequest (n : Nat) (s : State) : Ans :=
  match s.out.find? fun o => o.id == n with
  | some o =>
    if ¬ s.outReady o then .next s
    else if tagOf o.e.line = 2 then
      if s.ckHold (lKey o.e.line) then .next (s.ckWant [lKey o.e.line]) else
      let bad := o.e.accs.find? fun a =>
        ! (s.localOk o.g (s.slot o.g).descs 1 (o.e.line + w64 a.1) a.2 && s.pageOk (o.e.line + w64 a.1) a.2 (o.e.part a))
      .next (match bad with
        | some a => s.refuseOut n (permFault (o.e.line + w64 a.1) 1 true)
        | none => (s.storeLocal o).stored o)
    else if tagOf o.e.line = 3 ∨ tagOf o.e.line = 15 then
      match s.storeWindow o o.e.accs with
      | (s, .ok []) => .next (s.stored o)
      | (s, .ok l) => .next (s.modOut n fun o => { o with e := { o.e with accs := l } })
      | (s, .bad f) => .next (s.refuseOut n f)
      | (s, .wait h) => .next (s.ckWant h)
    else .next s
  | none =>
    match s.loads.find? fun l => l.id == n && l.reply.isNone && tagOf l.addr == 2 with
    | none => .next s
    | some l =>
      if ¬ s.first ⟨n, l.cluster, l.ctx, l.home, l.addr⟩ then .next s
      else match l.parts.find? fun p => ! s.localOk l.g (s.slot l.g).descs 0 p.1 p.2 with
        | some p => .next (s.failLoad n (permFault p.1 0 true))
        | none => .next (l.parts.foldl (fun s p => s.guarded l.g p.1 p.2 0) (s.serve l (lKey l.addr)))

/-- WEIGHT_STORE_REQUEST: a load at the weight store; held while its group is refreshed, and behind those that were held
there before it (R134, R135). -/
def execWeightStoreRequest (n : Nat) (s : State) : Ans :=
  match s.loads.find? fun l => l.id == n && l.reply.isNone && tagOf l.addr == 5 with
  | none => .next s
  | some l =>
    let d := l.cluster / 32
    let off := fld l.addr.toNat 0 29
    if ¬ s.wsReadable d l.ctx (s.slot l.g).descs l.addr l.n then .next (s.failLoad n (permFault l.addr 0 true))
    else if s.wsFree d off n then .next ((s.wsDone d n).serve l (wsKey d off))
    else .next ((s.wsHold d off n).modLoad n fun l => { l with held := true })

/-! Back at the slot -/

/-- The bytes of a load that has its reply: those of the slot's own buffer over what its target returned (R89). -/
def LoadReq.value (l : LoadReq) : Nat :=
  match l.reply with
  | some (.data v) => overlay l.n v.toNat l.known.toNat l.kmask.toNat
  | _ => 0

/-- The value of a load in its register. -/
def LoadReq.into (x : Slot) (l : LoadReq) : Slot :=
  match l.dst with
  | .scalar d signed => x.setS d (extLoad l.n signed l.value)
  | .vector d k w => x.setV d (BitVec.ofNat 256 (putFld (x.vr d).toNat (w * k) w l.value))
  | .whole d w mask => x.setV d (pack w fun k => if bit mask.toNat k then fld l.value (w * k) w else elem (x.vr d) w k)

/-- The first fault among some loads, in the order of elements (log entry 23). -/
def firstFault (ls : List LoadReq) : Option (FaultInfo × LoadReq) :=
  ls.findSome? fun l => match l.reply with
    | some (.fault f) => some (f, l)
    | _ => none

/-- A fault of a load or atomic for which its slot waits: precise at the word for local memory, weight store and TOKEN, in write-through
mode WTFAULT, else the fate of R258. A slot that went on, and a vector load, has its segment abandoned (R193, R209). -/
def State.replyFault (s : State) (g : Nat) (f : FaultInfo) (ipc : Pc) (wait : Bool) : State :=
  if wait && ! (s.slot g).through && (f.cause == 2 && tagOf f.addr != 4 && tagOf f.addr != 8 || f.cause == 6) then
    s.freeze g f
  else s.targetFault g f ipc

/-- Whether a load is a scalar one. -/
def LoadReq.single (l : LoadReq) : Bool := match l.dst with | .scalar .. => true | _ => false

/-- LOAD_RETURN: every element of a load has its reply: the register is written, or the fault takes its course (R93, R193, R209).
A frozen slot takes no fault until it runs again. -/
def execLoadReturn (n : Nat) (s : State) : Ans :=
  match s.loads.filter fun l => l.grp == n with
  | [] => .next s
  | l :: ls =>
    let g := l.g
    let x := s.slot g
    if (l :: ls).any fun l => l.reply.isNone then .next s else
    let wait := x.await == .load n
    let t : State := { s with loads := s.loads.filter fun l => l.grp != n }
    match firstFault (l :: ls) with
    | some (f, b) => if x.state = .frozen then .next s
      else if s.evictWaits g f then .next (s.ckWant [ctxKey g]) else .next (t.replyFault g f b.ipc (wait && b.single))
    | none => .next (t.modSlot g fun x =>
        let x := (l :: ls).foldl LoadReq.into x
        if wait then { x with await := .none }.next else x)

/-- The same task with its registers changed; a slot with no task stays. -/
def State.modHolder (s : State) (g : Nat) (f : Slot → Slot) : State :=
  if g < Config.slots then (if (s.slot g).state = .empty then s else s.modSlot g f)
  else
    let fix := fun (w : WaitEntry) => if w.id = g then { w with slot := f w.slot } else w
    s.cores.foldl (fun s e => if e.2.waitList.isEmpty then s else s.modCore e.1 fun c => { c with waitList := c.waitList.map fix }) s

/-- The task whose register a CPYS is bound to: its slot, or the wait-list entry it has moved to. -/
def State.feeds (s : State) (c : Nat) (k : Cmd) : Option Nat :=
  let bound := fun (x : Slot) => (x.st (fld k.w.toNat 144 2)).src == some (.cpys k.seq)
  if bound (s.slot k.g) then some k.g
  else ((s.core c).waitList.find? fun w => w.k == k.g % 4 && bound w.slot).map (·.id)
/-- Whether a CPYS may bring its next item: its register holds fewer than 16 and its slot is not PREEMPTED (R160, R332). -/
def State.feedRoom (s : State) (h : Nat) (k : Cmd) : Bool :=
  match s.holder h with
  | some (_, x) => x.state != .preempted && decide ((x.st (fld k.w.toNat 144 2)).items.length < 16)
  | none => false

/-- A CPYS that has not begun waits while its register is bound, and while a pre-empt of its slot is under way (R160, R330). -/
def State.cpysWaits (s : State) (c : Nat) (k : Cmd) : Bool :=
  match s.holder (s.binds c k) with
  | some (_, x) => x.preempting || (x.st (fld k.w.toNat 144 2)).src.isSome
  | none => false
/-- The skip-list items that stand ready for an MPASS which needs one for its next block; none when it needs none, or when its binding
has ended, or its task is gone. A register that has not been bound since the command stood in its unit is waited for: DEDUCED, R161 has
both wait for ever (R222; log entry 87). -/
def State.skipNeeds (s : State) (c : Nat) (k : Cmd) (r : MpRun) : Option (List W64) :=
  if ! bit k.w.toNat 39 || decide (0 < r.skipLeft + r.runLeft) || r.ended || ! r.replay.isEmpty then none else
  match (s.core c).fmt, (s.pusher c k).bind s.holder with
  | some f, some (_, x) =>
    let st := x.st (fld f.blk.toNat 24 2)
    if st.items.isEmpty && st.src.isNone && r.bound then none else some st.items
  | _, _ => none

/-- Register `q` of the task `h` on core `c` is bound: an MPASS of that task which takes its items from it has its binding now, and one that
had another before has seen that end (R160, R222, R229). -/
def State.bindSkip (s : State) (c h q : Nat) : State :=
  match (s.core c).mxQ.cmds, (s.core c).fmt with
  | k :: _, some f =>
    if ! bit k.w.toNat 39 || fld f.blk.toNat 24 2 != q || s.pusher c k != some h then s else
    let on := fun (r : MpRun) => if r.bound then { r with ended := true } else { r with bound := true }
    let f := fun (k : Cmd) => match k.phase with
      | .passing r => { k with phase := .passing (on r) }
      | .replay r => { k with phase := .replay (on r) }
      | _ => k
    s.modQueue c .matrix fun q => { q with cmds := match q.cmds with | [] => [] | k :: ks => f k :: ks }
  | _, _ => s

/-- GUARD_NOTE: the first note fills the slot's record, each later one counts; the notes that one cluster's memories send to a slot arrive
in the order sent (R106, R131). -/
def execGuardNote (n : Nat) (s : State) : Ans :=
  match s.notes.find? fun k => k.id == n with
  | none => .next s
  | some k =>
    if s.notes.any fun m => decide (m.id < n) && m.g == k.g && clusterOf (lCore m.addr) == clusterOf (lCore k.addr) then .next s else
    let t : State := { s with notes := s.notes.filter fun m => m.id != n }
    .next (t.modHolder k.g fun x => { x with guard := match x.guard with
      | none => some ⟨k.addr, k.kind, 0⟩
      | some r => some { r with count := if r.count = 255 then 255 else r.count + 1 } })

/-- COMMIT_COMPLETE: every entry handed over has been performed and acknowledged; the restart point moves where the commit says
(R92, R256). -/
def execCommitComplete (g : Nat) (s : State) : Ans :=
  if s.storing g then .next s else
  .next (match (s.slot g).mode with
    | .none => s
    | .drain | .through => s.modSlot g fun x => { x with mode := .none }
    | .ordinary => (s.commitDone g).modSlot g fun x => { x with mode := .none }
    | .self | .preempt => (s.commitDone g).modSlot g fun x => { x with mode := .none, stamped := true })

/-- COMMIT_REFUSAL: a refusal reaches the slot: what is left of the segment is discarded and the fault takes its course (R93, R258
to R260). -/
def execCommitRefusal (g : Nat) (s : State) : Ans :=
  match s.out.find? fun o => o.g == g && o.refused.isSome with
  | none => .next s
  | some o =>
    if (s.slot g).state = .frozen then .next s else
    match o.refused with
    | some f => if s.evictWaits g f then .next (s.ckWant [ctxKey g]) else
      .next ((({ s with out := s.out.filter fun p => p.g != g } : State)).targetFault g f o.e.ipc)
    | none => .next s

end Sys2Proof.Machine
end

