-- ==== Sys2Proof/Machine/Atomics.lean ====
section
/-! DEFINITION. Atomics and flag increments at the NSE, and the tokens of peer regions (R98, R101 to R104, R256, R290, R292, R293). -/
namespace Sys2Proof.Machine

/-! What an atomic computes (R292) -/

/-- The smaller or larger of two values of `w` bits, as signed if asked. -/
def pick (w : Nat) (signed max : Bool) (x y : Nat) : Nat :=
  let k := fun (v : Nat) => if signed then (v + 2 ^ (w - 1)) % 2 ^ w else v
  if (k x < k y) = max then y else x

/-- The value that function `f` writes, of `w` bits; AMOCAS128 and NCAS are functions 11 and 12, and write nothing where their compare
fails, while AMOCAS then writes the old value (R290, R292). -/
def amoNew (f w old b expect : Nat) : Option Nat :=
  let b := b % 2 ^ w
  match f with
  | 0 => some ((old + b) % 2 ^ w)
  | 1 => some (old &&& b)
  | 2 => some (old ||| b)
  | 3 => some (old ^^^ b)
  | 4 => some (pick w true false old b)
  | 5 => some (pick w true true old b)
  | 6 => some (pick w false false old b)
  | 7 => some (pick w false true old b)
  | 8 => some b
  | 9 => some (if old = expect % 2 ^ w then b else old)
  | 10 => some (flEnc fp32 0 (flAdd (flDec fp32 old) (flDec fp32 b)))
  | _ => if old = expect % 2 ^ w then some b else none

/-- Bytes of an atomic by its size code. -/
def amoBytes (size : Nat) : Nat := 2 ^ size

/-! The words (R256, R292, R293) -/

/-- The request of an atomic that has committed, on its way to its NSE; its slot waits for the reply (R256, R330). -/
def State.sendAmo (s : State) (f size : Nat) (ea : W64) (b expect : W128) (d : BitVec 5) (blk : W64) (check : Bool) (scope : Scope) (order : Order) : Ans :=
  let g := s.cur
  let c := coreOf g
  let x := s.me
  let a := s.canon c ea
  let s := s.trace g 5 x.pc size ea 0
  let (s, h, fault) := s.homeOf (clusterOf c) x.ctx a
  let q : AmoReq := ⟨s.nextId, g, clusterOf c, x.ctx, a, f, size, b, expect, d, blk, check, order, scope, h, false, x.pc, s.live x.obs, s.live x.hb,
    fault.map AmoReply.fault⟩
  let t : State := { s with amos := s.amos ++ [q], nextId := s.nextId + 1 }
  .next (t.modMe fun x => { x with await := .reply q.id })

/-- An AMO word: PERM and ALIGN first; relaxed with sd = s0 it enters the segment buffer, else it commits and is performed at its
NSE. One with sd = s0 and order release is an entry of its own behind the commit, and its slot runs on (R310); else the slot waits for the
reply, and the restart point stays at the word, with sd = s0 and order acquire too: DESIGN CHOICE, R49 and R256 name only sd other than s0
and releases (log entry 69). -/
def amo (f size : Nat) (d a b : BitVec 5) (scope : Scope) (order : Order) (s : State) : Ans :=
  let g := s.cur
  let c := coreOf g
  let ea := s.me.s a
  let n := amoBytes size
  let e := s.canon c ea
  let blk := s.me.s b
  if ¬ addrOk (isSup c) ea || tagOf ea == 3 || tagOf ea == 5 || tagOf ea == 15 then s.precise 2 ea 2
  else if ea.toNat % n ≠ 0 then s.precise 3 ea 2
  else if tagOf ea = 0 ∧ ¬ s.localOk g s.me.descs 2 e n then s.precise 2 ea 2
  else if (s.peerGate g ea 2).isSome then s.precise 2 ea 2
  else
    s.operands [if f = 11 then s.operandFault blk true 32 32 1 1 else none] <|
    let cb := s.canon c blk
    let go := fun (s : State) (v : Nat) =>
      let b' : W128 := if f = 11 then BitVec.ofNat 128 (v / 2 ^ 128) else BitVec.zeroExtend 128 (s.me.s b)
      let ex : W128 := if f = 11 then BitVec.ofNat 128 v else BitVec.zeroExtend 128 (s.me.s d)
      (b', ex)
    let entry := fun (p : W128 × W128) => (⟨lineOf e, 0, BitVec.ofNat 64 ((2 ^ n - 1) * 2 ^ inLine e), [(inLine e, n)],
      .amo f size p.1 p.2 (if f = 11 then cb else 0), s.me.pc⟩ : Entry)
    if d = 0 ∧ order = .relaxed then
      if f = 11 ∧ s.me.buf.any (fun y => touchesEntry y cb 32) then s.drain fun y => touchesEntry y cb 32
      else if f = 11 ∧ s.ownPending g cb 32 then .next s
      else if f = 11 ∧ s.poisoned (lKey cb) 32 then .next (s.targetFault g ⟨7, blk, 0⟩ s.me.pc)
      else
        let p := go s (if f = 11 then s.nat (lKey cb) 32 else 0)
        ((if f = 11 then s.guarded g cb 32 0 else s).trace g 5 s.me.pc size ea 0).bufferEntries [entry p]
    else s.commitThen fun s =>
      let send := fun (s : State) (p : W128 × W128) =>
        if d = 0 ∧ order = .release then (s.trace g 5 s.me.pc size ea 0).sendWord (entry p) scope
        else s.sendAmo f size ea p.1 p.2 d (if f = 11 then cb else 0) false scope order
      if f = 11 then orFault s (s.readAt g blk 32) fun (s, v) => send s (go s v)
      else send s (go s 0)

/-- AMOADD (R292). -/
def execAmoadd (d a b : BitVec 5) (scope : Scope) (order : Order) (size : BitVec 2) (s : State) : Ans := amo 0 size.toNat d a b scope order s
/-- AMOAND (R292). -/
def execAmoand (d a b : BitVec 5) (scope : Scope) (order : Order) (size : BitVec 2) (s : State) : Ans := amo 1 size.toNat d a b scope order s
/-- AMOOR (R292). -/
def execAmoor (d a b : BitVec 5) (scope : Scope) (order : Order) (size : BitVec 2) (s : State) : Ans := amo 2 size.toNat d a b scope order s
/-- AMOXOR (R292). -/
def execAmoxor (d a b : BitVec 5) (scope : Scope) (order : Order) (size : BitVec 2) (s : State) : Ans := amo 3 size.toNat d a b scope order s
/-- AMOSMIN (R292). -/
def execAmosmin (d a b : BitVec 5) (scope : Scope) (order : Order) (size : BitVec 2) (s : State) : Ans := amo 4 size.toNat d a b scope order s
/-- AMOSMAX (R292). -/
def execAmosmax (d a b : BitVec 5) (scope : Scope) (order : Order) (size : BitVec 2) (s : State) : Ans := amo 5 size.toNat d a b scope order s
/-- AMOUMIN (R292). -/
def execAmoumin (d a b : BitVec 5) (scope : Scope) (order : Order) (size : BitVec 2) (s : State) : Ans := amo 6 size.toNat d a b scope order s
/-- AMOUMAX (R292). -/
def execAmoumax (d a b : BitVec 5) (scope : Scope) (order : Order) (size : BitVec 2) (s : State) : Ans := amo 7 size.toNat d a b scope order s
/-- AMOSWAP (R292). -/
def execAmoswap (d a b : BitVec 5) (scope : Scope) (order : Order) (size : BitVec 2) (s : State) : Ans := amo 8 size.toNat d a b scope order s
/-- AMOCAS: the expected value is sd's (R292). -/
def execAmocas (d a b : BitVec 5) (scope : Scope) (order : Order) (size : BitVec 2) (s : State) : Ans := amo 9 size.toNat d a b scope order s
/-- AMOFADD: binary32 (R292). -/
def execAmofadd (d a b : BitVec 5) (scope : Scope) (order : Order) (s : State) : Ans := amo 10 2 d a b scope order s
/-- AMOCAS128: 16 bytes, operands in a block of own local memory (R292). -/
def execAmocas128 (d a b : BitVec 5) (scope : Scope) (order : Order) (s : State) : Ans := amo 11 4 d a b scope order s

/-! At the NSE (R98, R290, R293) -/

/-- An atomic's bytes changed at the flat key: old value and status (whether a compare swapped, for NCAS in bit 8); an ill-formed name
counts at die `d`, the requester's; `ri` is what its write carries (R290, R303). -/
def State.atomicAt (s : State) (d k f size : Nat) (b expect : W128) (check : Bool) (ctx : BitVec 16) (ri : List RelInfo) : State × W128 × W64 :=
  let n := amoBytes size
  let old := s.nat k n
  let st := if f = 12 ∧ check ∧ b ≠ 0 then s.liveStatus ctx b else stOK
  let res := if st = stOK then amoNew f (8 * n) old b.toNat expect.toNat else none
  let s := if st = stBADNAME then s.modDie d fun x => { x with badname := x.badname + 1 } else s
  let s := match res with | some v => s.writeAtomic k n v ri | none => s
  (s, BitVec.ofNat 128 old, w64 (if f = 12 then st + b2n res.isSome * 256 else b2n res.isSome))

/-- What an atomic request that is an acquire takes over at its flat key (R312). -/
def State.amoGot (s : State) (a : AmoReq) (k : Nat) : List Nat :=
  if ordAcq a.order then acqOf (s.carried k (amoBytes a.size)) (coreOf a.g) a.scope else []
/-- The scope at which an atomic request releases. -/
def AmoReq.rel (a : AmoReq) : Scope := if ordRel a.order then a.scope else .none
/-- Whether all that an atomic request releases is visible at its scope, what it takes over itself among it (R313, R314). -/
def State.amoOpen (s : State) (a : AmoReq) (k : Nat) : Bool := s.visible a.rel (coreOf a.g) (union a.obs (s.amoGot a k))

/-- An atomic request performed at its flat key: POISON changes nothing; else old value, guard note, what the slot acquires, which its
own write carries on. -/
def State.amoAt (s : State) (a : AmoReq) (k : Nat) : State :=
  if s.poisoned k (amoBytes a.size) then s.modAmo a.id fun q => { q with reply := some (.fault ⟨7, a.addr, 0⟩) } else
  let c := coreOf a.g
  let got := s.amoGot a k
  let s := s.modSlot a.g fun x => x.saw c (if ordAcq a.order then a.scope else .none) (s.carried k (amoBytes a.size)) []
  let (s, old, st) := s.atomicAt (a.cluster / 32) k a.f a.size a.b a.expect a.check a.ctx (relOf a.rel c (union a.obs got) (union a.pre got))
  let s := if tagOf a.addr = 2 then s.guarded a.g a.addr (amoBytes a.size) 2 else s
  s.modAmo a.id fun q => { q with reply := some (.old old st) }

/-- An atomic's NSE answers with a fault. -/
def State.failAmo (s : State) (n : Nat) (f : FaultInfo) : State := s.modAmo n fun q => { q with reply := some (.fault f) }

/-- What an outbound entry does at its NSE: function, size, operand, expected value, operand block; a flag's increment adds 1. -/
def OutEntry.atomic (o : OutEntry) : Option (W64 × Nat × Nat × W128 × W128 × W64) :=
  match o.e.kind with
  | .amo f size b expect blk => some (o.e.line + w64 ((o.e.accs.headD (0, 0)).1), f, size, b, expect, blk)
  | .fst flag _ _ => if o.half then some (flag, 0, 3, 1, 0, 0) else none
  | .store => none

/-- An entry's atomic performed at its flat key (R98, R256). -/
def State.outAmoAt (s : State) (o : OutEntry) (ea : W64) (k f size : Nat) (b expect : W128) (blk : W64) : State :=
  if s.poisoned k (amoBytes size) then s.refuseOut o.id ⟨7, ea, 0⟩ else
  let (s, old, _) := s.atomicAt (o.cluster / 32) k f size b expect false o.ctx (relOf o.scope (coreOf o.g) o.obs o.pre ++ o.fence)
  let s := if tagOf ea = 2 then s.guarded o.g ea (amoBytes size) 2 else s
  let s := if f = 11 then (s.writeLocal o.ctx blk 16 old.toNat (relOf .none (coreOf o.g) [] o.pre)).guarded o.g blk 16 1 else s
  s.performed o

/-- ATOMIC_AT_NSE: an atomic or flag increment is performed where R293 says; `peer` is what another module answers (log entry
1). -/
def execAtomicAtNse (n : Nat) (peer : BitVec 8) (s : State) : Ans :=
  match s.amos.find? fun a => a.id == n && a.reply.isNone with
  | some a =>
    let i : Item := ⟨n, a.cluster, a.ctx, a.home, a.addr⟩
    if ¬ s.first i ∨ ¬ s.visible a.rel (coreOf a.g) a.obs then .next s
    else match tagOf a.addr with
    | 2 => .next (if s.ckHold (lKey a.addr) then s.ckWant [lKey a.addr]
        else if ¬ s.localOk a.g (s.slot a.g).descs 2 a.addr (amoBytes a.size) then s.failAmo n (permFault a.addr 2 true)
        else if s.amoOpen a (lKey a.addr) then s.amoAt a (lKey a.addr) else s)
    | 8 => match s.atPeer a.home n a.ctx a.addr .rmw peer with
      | .ok (t, k) => .next (if t.amoOpen a k then t.amoAt a k else s)
      | .bad t f => .next (t.failAmo n f)
      | .wait h => .next (s.ckWant h)
    | _ => match s.route i a.forwarded with
      | .wait => .next s
      | .gone => .next (s.failAmo n (xlateFault a.addr 1 0))
      | .moved h fw => .next ((s.correct i h).modAmo n fun q => { q with home := h, forwarded := fw })
      | .here => match s.atHome a.home a.cluster a.ctx a.addr (amoBytes a.size) .rmw false 2 with
        | .ok (t, k) => .next (if t.amoOpen a k then t.amoAt a k else s)
        | .bad t f => .next (t.failAmo n f)
        | .wait h => .next (s.ckWant h)
  | none =>
    match s.out.find? fun o => o.id == n && o.refused.isNone with
    | none => .next s
    | some o => match o.atomic with
      | none => .next s
      | some (ea, f, size, b, expect, blk) =>
        let i : Item := ⟨n, o.cluster, o.ctx, o.home, ea⟩
        if ¬ s.first i ∨ ¬ s.releasable o then .next s
        else if f = 11 ∧ s.ckHold (lKey blk) then .next (s.ckWant [lKey blk])
        else match tagOf ea with
        | 2 => .next (if s.ckHold (lKey ea) then s.ckWant [lKey ea] else if s.localOk o.g (s.slot o.g).descs 2 ea (amoBytes size) then s.outAmoAt o ea (lKey ea) f size b expect blk
            else s.refuseOut n (permFault ea 2 true))
        | 8 => match s.atPeer o.home n o.ctx ea .rmw peer with
          | .ok (s, k) => .next (s.outAmoAt o ea k f size b expect blk)
          | .bad t f => .next (t.refuseOut n f)
          | .wait h => .next (s.ckWant h)
        | _ => match s.route i o.forwarded with
          | .wait => .next s
          | .gone => .next (s.refuseOut n (xlateFault ea 1 0))
          | .moved h fw => .next ((s.correct i h).modOut n fun q => { q with home := h, forwarded := fw })
          | .here => match s.atHome o.home o.cluster o.ctx ea (amoBytes size) .rmw false 2 with
            | .ok (s, k) => .next (s.outAmoAt o ea k f size b expect blk)
            | .bad t e => .next (t.refuseOut n e)
            | .wait h => .next (s.ckWant h)

/-- ATOMIC_RETURN: the old value, or the status of a 16-byte compare, reaches register sd, and the restart point moves past the word
(R256, R290, R292); or the fault takes its course (R258). -/
def execAtomicReturn (g : Nat) (s : State) : Ans :=
  match s.amos.find? fun a => a.g == g && a.reply.isSome with
  | none => .next s
  | some a =>
    let x := s.slot g
    let t : State := { s with amos := s.amos.filter fun q => q.id != a.id }
    if x.await ≠ .reply a.id then .next t else
    if 11 ≤ a.f ∧ s.ckHold (lKey a.blk) then .next (s.ckWant [lKey a.blk]) else
    match a.reply with
    | some (.fault f) => if s.evictWaits g f then .next (s.ckWant [ctxKey g]) else .next (t.replyFault g f a.ipc true)
    | some (.old old st) =>
      let t := if 11 ≤ a.f then (t.writeLocal a.ctx a.blk 16 old.toNat (relOf .none (coreOf g) [] x.hb)).guarded g a.blk 16 1 else t
      .next (t.reply g a.d (if 11 ≤ a.f then st else w64 (old.toNat % 2 ^ 64)))
    | none => .next s

/-! Tokens (R101 to R104) -/

/-- A token word's operand: a system address (R101). -/
def State.tokenFault (s : State) (ea : W64) : Option FaultInfo :=
  if tagOf ea = 8 ∧ addrOk (isSup (coreOf s.cur)) ea then none else some (permFault ea 2 false)

/-- The die that holds the binding of an address's region (R102). -/
def bindDie (ctx : BitVec 16) (ea : W64) : Nat :=
  (Config.bindingDie ((ctx.toNat * 2 ^ 16 + fld ea.toNat 44 16) * 2 ^ 23 + fld ea.toNat 21 23)).val
/-- The bindings that a die holds. -/
def State.bindingsOf (s : State) (d : Nat) : Nat :=
  (s.bindings.filter fun b => (Config.bindingDie ((b.ctx.toNat * 2 ^ 16 + b.module.toNat) * 2 ^ 23 + b.region)).val == d).length

/-- TOKACQ: the token of a peer region; whether the peer's context is valid is the peer's (log entry 1) (R103). Where two statuses apply the
order is PERM of the own or an unreachable module, DUP, FULL, PERM of the peer's context: DESIGN CHOICE, R103 lists them without an
order (log entry 70). -/
def execTokacq (d a : BitVec 5) (s : State) : Ans :=
  s.needs 64 fun s =>
  let ea := s.me.s a
  s.operands [s.tokenFault ea] <|
  let ctx := s.me.ctx
  let module := fld ea.toNat 44 16
  let region := fld ea.toNat 21 23
  let die := bindDie ctx ea
  let held := s.binding ctx module region
  if module = s.durable.module.toNat ∨ ¬ s.reachable die s.nextId module then .next (s.passS d (w64 stPERM))
  else if held.any (·.held) then .next (s.passS d (w64 stDUP))
  else if held.isNone ∧ 512 ≤ s.bindingsOf die then .next (s.passS d (w64 stFULL))
  else
    let (v, s) := s.free
    if bit v.toNat 0 then .next (s.passS d (w64 stPERM)) else
    let new : Binding := ⟨ctx, BitVec.ofNat 16 module, region, true, [], []⟩
    let rest := s.bindings.filter fun b => ! (b.ctx == ctx && b.module.toNat == module && b.region == region)
    .next ({ s with bindings := rest ++ [new] }.passS d (w64 stOK))

/-- TOKREL: commits, a release at system scope; dirty lines go back and the binding ends (R104). -/
def execTokrel (d a : BitVec 5) (s : State) : Ans :=
  s.needs 64 fun s =>
  let ea := s.me.s a
  s.operands [s.tokenFault ea] <| s.commitThen fun s =>
  if ¬ s.settled s.me.obs then .next s else
  let ctx := s.me.ctx
  let module := fld ea.toNat 44 16
  let region := fld ea.toNat 21 23
  if (s.binding ctx module region).isNone then s.finish d (w64 stDUP) else
  let t : State := { s with bindings := s.bindings.filter fun b => ! (b.ctx == ctx && b.module.toNat == module && b.region == region) }
  t.finish d (w64 stOK)

/-- TOKEN_RECALL: the peer home takes the token of the `n`-th binding back; its lines are written back and invalid (R102). -/
def execTokenRecall (n : Nat) (s : State) : Ans :=
  match s.bindings[n]? with
  | none => .next s
  | some b => .next (s.modBinding b.ctx b.module.toNat b.region fun b => { b with held := false, lines := [], dirty := [] })

end Sys2Proof.Machine
end

