-- ==== Sys2Proof/Machine/NameOps.lean ====
section
/-! DEFINITION. The NAME words and what they set going: operations at slices and objects, shoot-downs, blocks of serials (R281 to
R291). -/
namespace Sys2Proof.Machine

/-- An operation of the running slot, which has committed, on its way to its slice; the slot waits for its status. -/
def State.sendName (s : State) (fn : NameFn) (nm : W128) (sb : W64) (d : BitVec 5) (scope : Scope) (order : Order) : Ans :=
  let c := coreOf s.cur
  let t : State := { s with
    nameOps := s.nameOps ++ [⟨s.nextId, s.cur, clusterOf c, c, s.me.ctx, fn, nm, sb, d, order, scope, false, [], s.me.obs, s.me.hb, none⟩], nextId := s.nextId + 1 }
  .next (t.modMe fun x => { x with await := .reply s.nextId })

/-- NNEW: commits, reads the creation block (R287). -/
def execNnew (d a b : BitVec 5) (scope : Scope) (order : Order) (s : State) : Ans :=
  let ea := s.me.s a
  let rb := s.me.s b
  s.operands [s.operandFault ea false 128 128 0 0, s.operandFault rb true 16 16 1 1] <| s.commitThen fun s =>
  let c := coreOf s.cur
  orFault s (s.readAt s.cur ea 128) fun (s, v) =>
  s.sendName (.nnew (BitVec.ofNat 1024 v)) (BitVec.zeroExtend 128 (s.canon c ea + 64)) (s.canon c rb) d scope order

/-- NKILL (R288). -/
def execNkill (d a : BitVec 5) (scope : Scope) (order : Order) (sync : BitVec 1) (s : State) : Ans :=
  let ea := s.me.s a
  s.operands [s.operandFault ea false 16 16 0 0] <| s.commitThen fun s =>
  orFault s (s.readAt s.cur ea 16) fun (s, v) =>
  s.sendName (.nkill (sync == 1)) (BitVec.ofNat 128 v) 0 d scope order

/-- NRES; as an acquire it acquires where the name is read and where it is resolved (R289, R311). -/
def execNres (d a b : BitVec 5) (scope : Scope) (order : Order) (s : State) : Ans :=
  let ea := s.me.s a
  let rb := s.me.s b
  s.operands [s.operandFault ea false 16 16 0 0, s.operandFault rb true 32 32 1 1] <| s.commitThen fun s =>
  orFault s (s.readAt s.cur ea 16 (if ordAcq order then scope else .none)) fun (s, v) =>
  s.sendName .nres (BitVec.ofNat 128 v) (s.canon (coreOf s.cur) rb) d scope order

/-- NCAS: a 16-byte compare-and-swap by the NSE of the location (R290). -/
def execNcas (d a b : BitVec 5) (scope : Scope) (order : Order) (live : BitVec 1) (s : State) : Ans :=
  let ea := s.me.s a
  let blk := s.me.s b
  let right := if tagOf ea = 0 ∧ ¬ s.localOk s.cur s.me.descs 2 (s.canon (coreOf s.cur) ea) 16 then some (permFault ea 2 false) else none
  s.operands [s.operandFault ea false 16 16 0 2, right, s.operandFault blk true 32 32 1 1] <| s.commitThen fun s =>
  orFault s (s.readAt s.cur blk 32) fun (s, v) =>
  s.sendAmo 12 4 ea (BitVec.ofNat 128 (v / 2 ^ 128)) (BitVec.ofNat 128 v) d (s.canon (coreOf s.cur) blk) (live == 1) scope order

/-! NNEW at its NSE (R287) -/

/-- Whether a creation block is one that NNEW accepts, its line aside. -/
def nnewOk (blk : BitVec 1024) : Bool :=
  let n := blk.toNat
  let p := fld n 512 512
  let v := fld n 64 64
  fld n 6 10 == 0 && fld n 28 36 == 0 && fld n 128 384 == 0 &&
  match fld n 0 6 with
  | 2 => decide (1 ≤ fld p 0 32) && decide (1 ≤ fld p 32 3 ∧ fld p 32 3 ≤ 5) && fld p 35 477 == 0 &&
      (v == 0 || (tagOf (w64 v) == 4 && v % 64 == 0 && addrOk false (w64 v)))
  | 3 => v == 0 && skeinOk (BitVec.ofNat 512 p)
  | 4 | 6 | 7 => p == 0
  | _ => false

/-- The object of a creation block, named `nm`, in place: a skein, or a barrier with its line (R269, R287, R299). -/
def State.makeObject (s : State) (op : NameOp) (blk : BitVec 1024) (nm : W128) (hint : Nat) (key : Nat) : State :=
  let n := blk.toNat
  let p := fld n 512 512
  match fld n 0 6 with
  | 2 =>
    let k := if fld n 64 64 = 0 then nseKey (nmSerial nm).toNat else key
    let b : Barrier := ⟨nm, op.ctx, w64 (fld n 64 64), k, BitVec.ofNat 32 p, 0, 0, scopeOf (fld p 32 3), [], []⟩
    ({ s with barriers := s.barriers ++ [b] } : State).putBarrier b
  | 3 =>
    let d := BitVec.ofNat 512 (putFld p 64 64 (rewrite op.core (w64 (fld p 64 64))).toNat)
    { s with skeins := s.skeins ++ [⟨nm, op.ctx, d, BitVec.ofNat 64 op.nm.toNat, false, hint, op.core, [], 0, 0, none, 0⟩] }
  | _ => s

/-- An object made from a creation block: its name, or the status; a serial is lost where no room is found for its entry or object
(R287). -/
def State.make (s : State) (op : NameOp) (blk : BitVec 1024) : Met (State × Except Nat W128) :=
  let n := blk.toNat
  let hint := if bit n 27 then fld n 16 11 else op.cluster
  let cls := fld n 0 6
  let line := w64 (fld n 64 64)
  if ¬ nnewOk blk then .ok (s, .error stPERM) else
  let own := decide (cls ≠ 2 ∨ line = 0)
  let place : Got (State × Nat × Nat) := if own then .ok (s, 0, hint) else
    match s.findHome op.cluster op.ctx line with
    | (s, .error f) => .bad s f
    | (s, .ok h) => match s.atHome h op.cluster op.ctx line 64 .write false 1 with
      | .ok (s, k) => .ok (s, k, 32 * h)
      | .bad s f => .bad s f
      | .wait h => .wait h
  match place with
  | .wait h => .wait h
  | .bad s f => .ok (s, .error (if f.cause = 7 ∨ f.cause = 4 ∧ fld f.detail.toNat 0 4 ≠ 4 then stXLATE else stPERM))
  | .ok (s, key, home) =>
    match s.newName (home / 32) cls hint home op.ctx (if cls = 3 then 0 else line) with
    | .wait h => .wait h
    | .bad _ => .ok (s, .error stFULL)
    | .ok (t, none) => .ok (t, .error stFULL)
    | .ok (t, some nm) =>
      if own ∧ (cls = 2 ∧ ¬ s.overflowRoom (home / 32) 64 ∨ cls = 3 ∧ ¬ s.nseRoom (home / 32)) then .ok ({ t with names := s.names }, .error stFULL)
      else .ok (t.makeObject op blk nm hint key, .ok nm)

/-- The creation: the status; OK has the name written at the result block, a release if asked (R287). -/
def State.create (s : State) (op : NameOp) (blk : BitVec 1024) : Met (State × Nat) :=
  match s.make op blk with
  | .wait h => .wait h
  | .bad f => .bad f
  | .ok (t, .error st) => .ok (t, st)
  | .ok (t, .ok nm) =>
    let rel := if ordRel op.order then op.scope else .none
    let t : State := { t with births := (t.births.filter fun x => ! (t.live x.2.obs).isEmpty) ++
      if rel = .none then [] else [(nmSerial nm, ⟨op.obs, rel, op.core⟩)] }
    .ok (t.writeLocal op.ctx op.sb 16 nm.toNat (relOf rel op.core op.obs op.pre), stOK)

/-! At the slice (R283, R285, R288, R289) -/

/-- A kill of name `nm`: resolved through the cluster's cache, then at its slice; the status; the name dies on OK (R283, R288). -/
def State.killName (s : State) (op : NameOp) (sync : Bool) : State × Nat :=
  let rel := if ordRel op.order then some (⟨op.obs, op.scope, op.core⟩ : RelInfo) else none
  if nmClass op.nm = 5 ∧ ! s.badName op.nm 0 then (s, stPERM) else
  match s.resolve op.cluster op.ctx op.nm 0 with
  | (s, st, none) => (s, st)
  | (s, _, some _) => match s.entry (nmSerial op.nm) with
    | none => (s, stGONE)
    | some _ => (s.nameDies (nmSerial op.nm) (if sync then some op.id else none) rel, stOK)

/-- The result block of NRES (R289). -/
def nresBlock (nm : W128) (e : NcEntry) : Nat :=
  let keeps := e.cls.toNat == 2 || e.cls.toNat == 4 || e.cls.toNat == 6 || e.cls.toNat == 7
  (if keeps then e.value.toNat else 0) + (e.ctx.toNat + e.home % 2 ^ 11 * 2 ^ 16 + e.cls.toNat * 2 ^ 27) * 2 ^ 64 + (nmSerial nm).toNat * 2 ^ 128

/-- The status of an operation decided. -/
def State.nameDone (s : State) (n st : Nat) : State :=
  { s with nameOps := s.nameOps.map fun (o : NameOp) => if o.id = n then { o with status := some (w64 st) } else o }

/-- The NSE whose SRAM an operation writes: that of the hint's die for a creation, of the name's slice for any other (R282, R287). -/
def NameOp.nse (op : NameOp) : Nat := match op.fn with
  | .nnew blk => (if bit blk.toNat 27 then fld blk.toNat 16 11 else op.cluster) / 32 % 64
  | _ => (Config.sliceOf (nmSerial op.nm)).val

/-- NAME_OP_AT_SLICE: an operation is resolved and performed; a release first waits for what it covers (R283, R287 to R289, R315).
The death of a task that was killed answers nobody (R263, R327). -/
def execNameOpAtSlice (n : Nat) (s : State) : Ans :=
  match s.nameOps.find? fun o => o.id == n && o.status.isNone with
  | none => .next s
  | some op =>
    if ordRel op.order ∧ ¬ s.visible op.scope op.core op.obs then .next s
    else if op.sb ≠ 0 ∧ s.ckHold (lKey op.sb) then .next (s.ckWant [lKey op.sb])
    else if s.nseHold op.nse then .next (s.wantRanges (nseRanges op.nse)) else
    match op.fn with
    | .nnew blk => match s.create op blk with
      | .ok (s, st) => .next (s.nameDone n st)
      | .bad _ => .next s
      | .wait h => .next (s.ckWant h)
    | .nkill sync =>
      let (s, st) := s.killName op sync
      .next (s.nameDone n st)
    | .nres =>
      let (s, st, e) := s.resolve op.cluster op.ctx op.nm 0
      let told := ((if st = stGONE then s.deaths else s.births).filter fun x => x.1 == nmSerial op.nm).map (·.2)
      let s := s.modSlot op.g fun x => x.saw op.core (if ordAcq op.order then op.scope else .none) told []
      (match e with
        | some e => .next ((s.writeLocal op.ctx op.sb 32 (nresBlock op.nm e) (relOf .none op.core [] op.pre)).nameDone n st)
        | none => .next (s.nameDone n st))
    | .death =>
      let s := s.nameDies (nmSerial op.nm) (some n) (if ordRel op.order then some ⟨op.obs, op.scope, op.core⟩ else none)
      .next (if op.g < Config.slots then s.nameDone n stOK else { s with nameOps := s.nameOps.filter fun o => o.id != n })

/-- NAME_OP_RETURN: the status reaches sd once every acknowledgement a synchronous kill waits for is in; a task that ended leaves its
slot (R263, R286, R288). -/
def execNameOpReturn (g : Nat) (s : State) : Ans :=
  if Config.slots ≤ g then .next s else
  match s.nameOps.find? fun o => o.g == g && o.status.isSome && o.acks.isEmpty with
  | none => .next s
  | some o =>
    let t : State := { s with nameOps := s.nameOps.filter fun p => p.id != o.id }
    .next (match o.fn with
      | .death => t.vacate g
      | _ => t.reply g o.d (o.status.getD 0))

/-- SHOOT_DOWN: a die drops the serial from the name caches of its 32 clusters and acknowledges (R284). -/
def execShootDown (n : Nat) (s : State) : Ans :=
  match s.shoots.find? fun h => h.id == n && ! h.ack with
  | none => .next s
  | some h =>
    let s := (List.range 32).foldl (fun s i =>
      if (s.cluster (32 * h.die + i)).ncache.isEmpty then s
      else s.modCluster (32 * h.die + i) fun k => { k with ncache := k.ncache.filter fun e => e.serial != h.serial }) s
    .next { s with shoots := s.shoots.map fun (k : Shoot) => if k.id = n then { k with ack := true } else k }

/-- SHOOT_DOWN_ACK: the acknowledgement is back at the slice (R288). -/
def execShootDownAck (n : Nat) (s : State) : Ans :=
  if ¬ s.shoots.any (fun h => h.id == n && h.ack) then .next s else
  .next { s with
    shoots := s.shoots.filter (fun h => h.id != n)
    nameOps := s.nameOps.map fun (o : NameOp) => { o with acks := o.acks.filter (· != n) } }

/-- The counter in non-volatile storage moved on by a block: the serials before it are the module's from now on (R281). -/
def State.takeBlock (s : State) : State :=
  let b := s.durable.serialCounter
  { s with serialNext := b, serialEnd := b + 2 ^ 40, serialFail := false, durable := { s.durable with serialCounter := b + 2 ^ 40 } }

/-- SERIAL_BLOCK_RESERVE: the write of the counter is confirmed or not (R281). -/
def execSerialBlockReserve (ok : Bool) (s : State) : Ans :=
  if s.serialNext < s.serialEnd ∨ 2 ^ 64 ≤ s.durable.serialCounter + 2 ^ 40 then .next s
  else if ¬ ok then .next { s with serialFail := true }
  else .next s.takeBlock

end Sys2Proof.Machine
end

