-- ==== Sys2Proof/Machine/Sync.lean ====
section
/-! DEFINITION. Waiting and waking: WAITA, WAKE, BARA, BARW, NWAIT, parks at the NSE, the deadlock trap, timers (R291, R294 to R303). -/
namespace Sys2Proof.Machine

/-! Parks (R297) -/

/-- Whether the running slot has a guard record, or a note on its way to it (R131). -/
def State.noted (s : State) : Bool := s.me.guard.isSome || s.notes.any fun n => n.g == s.cur
/-- A word that is about to park: a guard record freezes the slot first (R131). -/
def State.parkGate (s : State) (parks : Bool) (k : Ans) : Ans := if parks then s.guardGate fun _ => k else k

/-- The park of a word that has committed: chains, window and name are saved, then the stitch is on its way to the NSE; the slot
waits for it to join, its window as it stood at the word, from which a pre-empt while it waits for room lets the word run again (R253,
R254, R297, R330). -/
def State.park (s : State) (on : WaitOn) (d : BitVec 5) (scope : Scope) (addr : W64) : Ans :=
  s.guardGate fun s =>
  let x := s.me
  s.suspend fun s =>
  let g := s.cur
  let c := coreOf g
  let p : Parked := ⟨s.nextId, g, on, s.stitch g s.me.pc 1, d, scope, clusterOf c, c, addr, s.me.obs, s.me.seen, s.me.fence⟩
  let t : State := { s with parks := s.parks ++ [p], nextId := s.nextId + 1 }
  .next (t.modMe fun y => { y with fsp := x.fsp, res := x.res, await := .reply s.nextId })

/-- The wake of a stitch whose condition holds when it arrives: its result and what it acquires; none while it must wait (R291,
R295, R301). -/
def State.parkTest (s : State) (p : Parked) : Option (W64 × List Nat) :=
  match p.on with
  | .word k thr => if thr.toNat ≤ s.nat k 8 then some (w64 (s.nat k 8), s.observed k p.core p.scope) else none
  | .barrier n ph => match s.barrier n with
    | none => some (w64 (2 ^ 63 + stGONE), [])
    | some b => if b.phase ≠ ph then
        some (w64 (b.phase.toNat * 2 ^ 32), b.obs.flatMap fun r => if scopeHas r.scope r.core p.core then r.obs else []) else none
  | .name n => if (s.entry n).isSome then none else
      some (w64 stGONE, acqOf ((s.deaths.filter fun x => x.1 == n).map (·.2)) p.core p.scope)

/-- Whether a parking stitch waits on a word in a poisoned line (R339). -/
def State.parkHurt (s : State) (p : Parked) : Bool := match p.on with
  | .word k _ => s.poisoned k 8
  | _ => false

/-- A park at its NSE: released at once where its condition holds by now, else on the wait list; its slot is EMPTY. None where the NSE has
no room (R297). A poisoned word sends the stitch back to its word (log entry 79). -/
def State.join (s : State) (p : Parked) : Option State :=
  if s.parkHurt p then some ((s.again p).vacate p.g) else
  match s.parkTest p with
  | some (v, obs) => some ((s.unpark p v obs).vacate p.g)
  | none =>
    if ¬ s.nseRoom (s.parkDie p) then none
    else some (({ s with parked := s.parked ++ [{ p with id := s.nextId }], nextId := s.nextId + 1 } : State).vacate p.g)

/-- PARK: a stitch joins the wait list at its NSE; without room the task stays in its slot, HELD until room appears (R297). -/
def execPark (n : Nat) (s : State) : Ans :=
  match s.parks.find? fun p => p.id == n with
  | none => .next s
  | some p =>
    if s.nseHold (s.parkDie p) then .next (s.wantRanges (nseRanges (s.parkDie p))) else
    let t : State := { s with parks := s.parks.filter fun q => q.id != n }
    .next ((t.join p).getD (t.modSlot p.g fun x => { x with state := .held, hold := .listFull p, heldSince := s.cycle, await := .none }))

/-! WAITA and WAKE (R294 to R296) -/

/-- The 8-byte word that a WAITA would read now, if it can be read. -/
def State.peek (s : State) (ea : W64) : Nat :=
  match s.access s.cur s.me.ctx s.me.descs ea 8 .read 0 with
  | .ok (t, k) => t.nat k 8
  | _ => 0

/-- WAITA: done at once if the word is at least the threshold; else parks on a global word, HELD on a local one (R295). -/
def execWaita (d a b : BitVec 5) (scope : Scope) (s : State) : Ans :=
  let ea := s.me.s a
  let thr := s.me.s b
  s.operands [s.operandFault ea false 8 8 0 0] <|
  s.parkGate (tagOf ea == 4 && s.noted && decide (s.peek ea < thr.toNat)) <| s.commitThen fun s =>
  let g := s.cur
  let c := coreOf g
  let e := s.canon c ea
  match s.access g s.me.ctx s.me.descs ea 8 .read 0 with
  | .wait h => .next (s.ckWant h)
  | .bad t f => if tagOf ea = 4 then .next (t.lateFault g f) else t.precise f.cause f.addr f.detail
  | .ok (s, k) =>
    if s.poisoned k 8 then .next (s.lateFault g ⟨7, ea, 0⟩)
    else
      let v := w64 (s.nat k 8)
      let s := if tagOf e = 2 then s.guarded g e 8 0 else s
      if thr.toNat ≤ v.toNat then (s.modMe fun x => x.saw c scope (s.carried k 8) []).finish d v
      else if tagOf ea = 4 then s.park (.word k thr) d scope e
      else .next (({ s with nextId := s.nextId + 1 } : State).holdFor (.waita k thr d scope s.nextId none))

/-- `n` into a rising list. -/
def insertNat (n : Nat) : List Nat → List Nat
  | [] => [n]
  | m :: l => if n ≤ m then n :: m :: l else m :: insertNat n l

/-- The waiters of the word at `k` in order of arrival: HELD slots, wait-list entries, parked stitches. -/
def State.waiters (s : State) (k : Nat) : List Nat :=
  let slots := s.slots.filterMap fun e => match e.2.state, e.2.hold with
    | .held, .waita w _ _ _ n none => if w = k then some n else none
    | _, _ => none
  let lists := s.cores.flatMap fun e => e.2.waitList.filterMap fun w => match w.slot.hold with
    | .waita a _ _ _ n none => if a = k then some n else none
    | _ => none
  let parked := s.parked.filterMap fun p => match p.on with
    | .word w _ => if w = k then some p.id else none
    | _ => none
  (slots ++ lists ++ parked).foldr insertNat []

/-- The waiter that arrived as number `n` is released with the word at `k`, which it observes; it acquires the WAKE's release `rel` (R296,
R314). One that waits on a poisoned word goes back to it (R339; log entry 79). -/
def State.wakeOne (s : State) (k : Nat) (rel : Option RelInfo) (n : Nat) : State :=
  let v := w64 (s.nat k 8)
  let hurt := s.poisoned k 8
  let got := fun (c : Nat) (sc : Scope) => acqOf rel.toList c sc
  let all := fun (c : Nat) (sc : Scope) => union (got c sc) (preOf (s.carried k 8))
  let s := s.slots.foldl (fun s e => match (s.slot e.1).state, (s.slot e.1).hold with
    | .held, .waita _ _ d sc m none => if m = n then if hurt then s.run e.1 else s.wakeHeld e.1 d v (all (coreOf e.1) sc) (got (coreOf e.1) sc) else s
    | _, _ => s) s
  let s := s.cores.foldl (fun s e => if e.2.waitList.isEmpty then s else
    let fix := fun (w : WaitEntry) => match w.slot.hold with
      | .waita a thr d sc m none => if m = n then if hurt then { w with slot := { w.slot with hold := .none } } else
          { w with slot := { w.slot with hold := .waita a thr d sc m (some v), obs := union w.slot.obs (all e.1 sc), hb := union w.slot.hb (got e.1 sc) } }
        else w
      | _ => w
    s.modCore e.1 fun c => { c with waitList := c.waitList.map fix }) s
  match s.parked.find? fun p => p.id == n with
  | some p => if hurt then s.again p else s.unpark p v (all p.core p.scope)
  | none => s

/-- WAKE: the first waiters of the word are released in order of arrival, whatever their conditions (R296). -/
def execWake (d a b : BitVec 5) (scope : Scope) (order : Order) (s : State) : Ans :=
  let ea := s.me.s a
  let n := (s.me.s b).toNat
  s.operands [s.operandFault ea false 8 8 0 0] <| s.commitThen fun s =>
  if ordRel order ∧ ¬ s.visible scope (coreOf s.cur) s.me.obs then .next s else
  match s.access s.cur s.me.ctx s.me.descs ea 8 .read 0 with
  | .wait h => .next (s.ckWant h)
  | .bad t f => if tagOf ea = 4 then .next (t.lateFault t.cur f) else t.precise f.cause f.addr f.detail
  | .ok (s, k) =>
    let ws := (s.waiters k).take n
    let rel := if ordRel order then some (⟨s.me.obs, scope, coreOf s.cur⟩ : RelInfo) else none
    (ws.foldl (fun s w => s.wakeOne k rel w) s).finish d (w64 ws.length)

/-! Barriers (R299 to R301) -/

/-- A barrier resolved for the running slot; a failure is the word's result (R300). -/
def State.barrierOf (s : State) (nm : W128) : State × Except W64 Barrier :=
  let (s, st, _) := s.resolve (clusterOf (coreOf s.cur)) s.me.ctx nm 2
  if st ≠ stOK ∧ st ≠ stMOVED then (s, .error (w64 (2 ^ 63 + st))) else
  match s.barrier (nmSerial nm) with
  | some b => (s, .ok b)
  | none => (s, .error (w64 (2 ^ 63 + stGONE)))

/-- A write of a barrier's line, or of its record in the NSE's SRAM, waits (R299, R346). -/
def State.barrierHeld (s : State) (b : Barrier) : Bool := if b.line = 0 then s.nseHold (nmCluster b.name / 32) else s.ckHold b.key
/-- It waits. -/
def State.wantBarrier (s : State) (b : Barrier) : State :=
  if b.line = 0 then s.wantRanges (nseRanges (nmCluster b.name / 32)) else s.ckWant [b.key]

/-- BARA: an arrival, a release at the barrier's scope; the last of a phase starts the next and releases every BARW parked on it
(R131, R300). -/
def execBara (d a : BitVec 5) (s : State) : Ans :=
  let ea := s.me.s a
  s.operands [s.operandFault ea false 16 16 0 0] <| s.guardGate fun s => s.commitThen fun s =>
  orFault s (s.readAt s.cur ea 16) fun (s, nm) =>
  match s.barrierOf (BitVec.ofNat 128 nm) with
  | (s, .error v) => s.finish d v
  | (s, .ok b) =>
    if ¬ s.visible b.scope (coreOf s.cur) s.me.obs then .next s
    else if s.barrierHeld b then .next (s.wantBarrier b) else
    let r : RelInfo := ⟨s.live s.me.obs, b.scope, coreOf s.cur⟩
    let now := union' b.now [r]
    let old := w64 (b.phase.toNat * 2 ^ 32 + b.arrived.toNat)
    if b.arrived + 1 = b.count then
      let keep := (b.obs ++ now).filter fun r => ! (s.live r.obs).isEmpty
      let b' := { b with arrived := 0, phase := b.phase + 1, obs := keep, now := [] }
      ((s.putBarrier b').freeBarrier (nmSerial b.name) (w64 (b'.phase.toNat * 2 ^ 32)) now).finish d old
    else (s.putBarrier { b with arrived := b.arrived + 1, now := now }).finish d old

/-- BARW: done at once if the phase differs, an acquire of the ended phases; else parks (R301). -/
def execBarw (d a b : BitVec 5) (s : State) : Ans :=
  let ea := s.me.s a
  let ph := BitVec.ofNat 31 (s.me.s b).toNat
  let waits := fun (s : State) => match s.access s.cur s.me.ctx s.me.descs ea 16 .read 0 with
    | .ok (t, k) => (match (t.barrierOf (BitVec.ofNat 128 (t.nat k 16))).2 with | .ok y => y.phase == ph | .error _ => false)
    | _ => false
  s.operands [s.operandFault ea false 16 16 0 0] <|
  s.parkGate (s.noted && waits s) <| s.commitThen fun s =>
  orFault s (s.readAt s.cur ea 16) fun (s, nm) =>
  match s.barrierOf (BitVec.ofNat 128 nm) with
  | (s, .error v) => s.finish d v
  | (s, .ok y) =>
    if y.phase ≠ ph then
      let c := coreOf s.cur
      let got := y.obs.flatMap fun r => if scopeHas r.scope r.core c then r.obs else []
      (s.modMe fun x => { x with obs := union x.obs got, hb := union x.hb got }).finish d (w64 (y.phase.toNat * 2 ^ 32))
    else s.park (.barrier (nmSerial y.name) ph) d y.scope 0

/-- NWAIT: the name is resolved through the cluster's cache, then at its slice; parks on a live one of the context until it dies; else its
status at once (R283, R291). -/
def execNwait (d a : BitVec 5) (scope : Scope) (s : State) : Ans :=
  let ea := s.me.s a
  let waits := fun (s : State) => match s.access s.cur s.me.ctx s.me.descs ea 16 .read 0 with
    | .ok (t, k) => t.liveStatus t.me.ctx (BitVec.ofNat 128 (t.nat k 16)) == stOK
    | _ => false
  s.operands [s.operandFault ea false 16 16 0 0] <|
  s.parkGate (s.noted && waits s) <| s.commitThen fun s =>
  orFault s (s.readAt s.cur ea 16) fun (s, nm) =>
  let c := coreOf s.cur
  let nm := BitVec.ofNat 128 nm
  let (s, st, e) := s.resolve (clusterOf c) s.me.ctx nm 0
  let st := if e.isSome then (if (s.entry (nmSerial nm)).isSome then stOK else stGONE) else st
  if st = stOK then s.park (.name (nmSerial nm)) d scope 0
  else
    let got := if st = stGONE then acqOf ((s.deaths.filter fun x => x.1 == nmSerial nm).map (·.2)) c scope else []
    (s.modMe fun x => { x with obs := union x.obs got, hb := union x.hb got }).finish d (w64 st)

/-! The deadlock trap and the timer (R302, R303) -/

/-- The stage a stage copy names (R166). -/
def Cmd.stageIx (k : Cmd) : Nat :=
  match k.op with
  | 1 => fld k.w.toNat 224 3
  | 3 => fld k.w.toNat 203 3
  | _ => fld k.w.toNat 192 3

/-- Whether an engine of core `c` may still do something: not one whose head has failed, waits for a stage in use, for a stream register
to be unbound, for room or an item in one, or for a slot that is PREEMPTED (R302). -/
def State.engineMoves (s : State) (c : Nat) (eng : Eng) : Bool :=
  match (s.queue c eng).cmds with
  | [] => false
  | k :: _ => k.retire || match k.phase with
    | .stopped => false
    | .staging => ((s.core c).stages.get Stage.reset k.stageIx).inuse == 0
    | .feeding .. => (match s.feeds c k with | some h => s.feedRoom h k | none => true)
    | .replay _ => (s.slot k.g).state != .preempted
    | .passing r => s.skipNeeds c k r != some []
    | .fresh => if eng = .copy then ! (k.op == 2 && s.cpysWaits c k) else (s.slot k.g).state != .preempted
    | _ => true

/-- Whether every engine, chain, NSE operation and packet is idle (R302). -/
def State.idle (s : State) : Bool :=
  s.cores.all (fun e => ! s.engineMoves e.1 .copy && ! s.engineMoves e.1 .matrix) && s.loads.isEmpty && s.out.isEmpty && s.amos.isEmpty && s.chains.isEmpty &&
    s.nameOps.isEmpty && s.shoots.isEmpty && s.spawns.isEmpty && s.sends.isEmpty && s.notes.isEmpty && s.parks.isEmpty && s.contribs.isEmpty &&
    s.ksyncs.isEmpty && s.graph.all (fun n => ! n.due) && s.clusters.all fun e => e.2.icFlush.isEmpty && e.2.corrections.isEmpty

/-- Whether some task waits (R302). -/
def State.waiting (s : State) : Bool :=
  ! s.parked.isEmpty || s.slots.any (fun e => e.2.state == .held) || s.cores.any fun e => ! e.2.waitList.isEmpty

/-- The conditions of the deadlock trap (R302). -/
def State.deadlocked (s : State) : Bool :=
  ! s.trapped && s.waiting && s.idle && s.hostQueues.all (fun e => fld e.2.ctl.toNat 16 2 != 3) &&
    s.dies.all (fun e => e.2.tmwake == 0 && ! e.2.halt) && ! anyFrom (fun c => ! s.quiet c) Config.cores 0

/-- Whether two stitches wait on the same wait list. -/
def sameList (p q : Parked) : Bool :=
  match p.on, q.on with
  | .word k _, .word l _ => k == l
  | .barrier n _, .barrier m _ => n == m
  | .name n, .name m => n == m
  | _, _ => false
/-- The first stitch of each wait list. -/
def listHeads : List Parked → List Parked
  | [] => []
  | p :: l => p :: (listHeads l).filter fun q => ! sameList p q

/-- The record of a wait list for the host (R302). -/
def State.listRecord (s : State) (p : Parked) : W256 :=
  let n := (s.parked.filter fun q => sameList p q).length
  let (kind, what) := match p.on with
    | .word _ _ => (0, p.addr.toNat)
    | .barrier k _ => (1, match s.barrier k with | some b => b.name.toNat | none => 0)
    | .name k => (2, match s.entry k with | some e => e.name.toNat | none => 0)
  BitVec.ofNat 256 (kind + (stCtx p.st).toNat * 2 ^ 16 + n * 2 ^ 32 + what * 2 ^ 64)

/-- The packet of an NSE: a cause and a detail, the lowest cluster of the die (R320). -/
def nsePacket (d cause detail : Nat) : W256 := BitVec.ofNat 256 (cause + 32 * d * 2 ^ 15 + detail % 2 ^ 64 * 2 ^ 192)

/-- DEADLOCK_TRAP: each NSE tells its supervisor, and the host learns every non-empty wait list; nothing is killed (R302). -/
def execDeadlockTrap (s : State) : Ans :=
  if ¬ s.deadlocked then .next s else
  let heads := listHeads s.parked
  let s := (List.range 64).foldl (fun s d =>
    s.sendPacket d Config.slots (nsePacket d 0x14 (heads.filter fun p => s.parkDie p == d).length)) s
  .next { s with trapped := true, hostOut := s.hostOut ++ heads.map s.listRecord }

/-- TMWAKE: the time has come: the NSE sends a TIMER packet and clears the register (R303). -/
def execTmwake (d : Nat) (s : State) : Ans :=
  let t := (s.die d).tmwake
  if t = 0 ∨ s.cycle < t.toNat then .next s else
  .next ((s.modDie d fun x => { x with tmwake := 0 }).sendPacket d Config.slots (nsePacket d 0x15 s.cycle))

end Sys2Proof.Machine
end

