-- ==== Sys2Proof/Machine/Chains.lean ====
section
/-! DEFINITION. Chained loads: the descriptor and its checks, the steps at their owners, the return (R108 to R121). -/
namespace Sys2Proof.Machine

/-! The descriptor (R109 to R111) -/

/-- Step `i`, 0 to 5, and its kind. -/
def chStep (d : W256) (i : Nat) : Nat := fld d.toNat (64 + 32 * i) 32
def chKind (st : Nat) : Nat := fld st 30 2
/-- The index of the first END step. -/
def chEnd (d : W256) : Option Nat := (List.range 6).find? fun i => chKind (chStep d i) == 0
/-- Bytes of the final data; the return block's offset; whether a stream register takes the result, and which. -/
def chSize (st : Nat) : Nat := 8 * 2 ^ fld st 27 2
def chDest (st : Nat) : Nat := 32 * fld st 10 13
def chStream (st : Nat) : Bool := bit st 23
def chQ (st : Nat) : Nat := fld st 10 2
/-- The signed offset of a step, added to the pointer. -/
def chOff (st : Nat) : W64 := if chKind st = 0 then sx 10 (fld st 0 10) else sx 16 (fld st 0 16)
/-- The scope at which a step acquires, none if it does not. -/
def chScope (st : Nat) : Scope := if chKind st = 0 then scopeOf (fld st 24 3) else if chKind st = 3 then scopeOf (fld st 27 3) else .none

/-- A step with a reserved value or bit (R112). -/
def chStepBad (st : Nat) : Bool :=
  let keep := fld st 16 6
  let sc := if chKind st = 0 then fld st 24 3 else fld st 27 3
  match chKind st with
  | 0 => decide (5 < sc) || bit st 29 || (chStream st && fld st 12 11 != 0)
  | 2 => keep != 0 || fld st 22 4 != 0 || bit st 26 || sc != 0
  | k => decide (60 < keep) || (bit st 26 && keep == 0) || (if k = 3 then decide (sc < 1 ∨ 5 < sc) else sc != 0)

/-- Whether a descriptor is ILLEGAL (R112). -/
def chBad (d : W256) : Bool :=
  match chEnd d with
  | none => true
  | some e =>
    (List.range (e + 1)).any (fun i => chStepBad (chStep d i)) || (List.range 6).any (fun i => decide (e < i) && chStep d i != 0) ||
      (let st := chStep d e
       ! chStream st && decide (0x24000 < chDest st + 16 + chSize st))

/-- CHLD: the checks of R112, then the chain is on its way; a stream register it names is bound (R108, R112, R117). -/
def execChld (vs : BitVec 4) (s : State) : Ans :=
  s.needs 32 fun s =>
  let g := s.cur
  let c := coreOf g
  let x := s.me
  let d := x.vr vs
  let start := w64 (fld d.toNat 0 64)
  let st := chStep d ((chEnd d).getD 0)
  if chBad d then s.illegal ((encode (.chld vs)).getD 0)
  else if ¬ addrOk (isSup c) start ∨ tagOf start = 3 ∨ tagOf start = 15 then s.precise 2 start 0
  else if chStream st ∧ (x.st (chQ st)).src.isSome then s.precise 9 0 (w64 (chQ st))
  else if 8 ≤ s.chainsOf g then .next (s.holdFor (.chains 8))
  else
    let s := s.trace g 3 x.pc (sizeCode (chSize st)) start 0
    let ch : Chain := ⟨s.nextId, g, c, x.ctx, x.seg, d, 0, start, 0, clusterOf c, none, none, [], [], []⟩
    let t : State := { s with chains := s.chains ++ [ch], nextId := s.nextId + 1 }
    let t := if chStream st then (t.modMe fun x => x.modSt (chQ st) fun r => { r with src := some (.chain ch.id), last := false, fail := false, seg := x.seg }).bindSkip c g (chQ st) else t
    .next ((t.modMe fun x => { x with stepRep := (5, w64 (s.chainsOf g + 1)) }).pass)

/-! The steps (R113 to R115) -/

/-- The header of a result (R116). -/
def chHeader (status k xkind hops : Nat) (base : W64) : BitVec 128 :=
  BitVec.ofNat 128 (status + k * 2 ^ 8 + xkind * 2 ^ 11 + 2 ^ 15 + Min.min hops 255 * 2 ^ 16 + base.toNat * 2 ^ 64)
/-- A chain changed. -/
def State.modChain (s : State) (n : Nat) (f : Chain → Chain) : State := { s with chains := s.chains.map fun h => if h.id = n then f h else h }

/-- The router of a step's owner: a cluster, or a unit of a die, or a home of another module (R113, R370). DESIGN CHOICE: a step whose region
has no home goes to the home interface of the requester's own die; NOHOME is found at the requester (R73), and the spec names no owner whose
hops such a step counts (log entry 86). -/
def State.owner (s : State) (h : Chain) (a : W64) : Nat :=
  let c := clusterOf h.core
  match tagOf a with
  | 2 => clusterOf (lCore a)
  | 4 => 4096 + match (s.findHome c h.ctx a).2 with | .ok d => d | .error _ => c / 32
  | 5 => 8192 + c / 32
  | _ => 16384 + 64 * fld a.toNat 44 16 + (Config.peerHome ((h.ctx.toNat * 2 ^ 16 + fld a.toNat 44 16) * 2 ^ 23 + fld a.toNat 21 23)).val
/-- The wafer of a router: 0 for this module's, else one of each peer. -/
def chWafer (p : Nat) : Nat := if p < 16384 then 0 else 1 + (p - 16384) / 64
/-- Hops from router to router: none within a cluster, 1 to 94 on a wafer; between modules those on each wafer passed, one more than the
links crossed, and 1 for each link (R370). -/
def chHops (p q : Nat) : Nat :=
  if p = q then 0 else if chWafer p = chWafer q then (Config.route p q).val + 1 else
  let links := (Config.peerLinks p q).val + 1
  links + ((List.range (links + 1)).map fun i => (Config.peerLeg p q i).val + 1).sum

/-- What a fault of an access is as a status and an xkind (R115). -/
def chFault (f : FaultInfo) : Nat × Nat :=
  if f.cause = 4 then (stXLATE, fld f.detail.toNat 0 4) else if f.cause = 6 then (15, 0) else if f.cause = 7 then (7, 0) else (stPERM, 0)

/-- What a step reads at its owner: the value, what its writes carry, those of them still in the cluster's outbound queue, and whether it
is poisoned. -/
structure ChRead where
  v : Nat
  carried : List RelInfo
  ids : List Nat
  bad : Bool

/-- Bytes read at a flat key. -/
def State.chAt (s : State) (k n : Nat) : ChRead := ⟨s.nat k n, s.carried k n, [], s.poisoned k n⟩

/-- The bytes of a step at its owner: rights as of a load by the requesting slot, translation, token; from its cluster's outbound queue
where that holds them, else behind the older requests of its cluster to the location (R92, R113, R118, R309). -/
def State.chAccess (s : State) (h : Chain) (a : W64) (n : Nat) (peer : BitVec 8) : Got (State × ChRead) :=
  let (g, descs) := match s.holder h.g with | some (g, x) => (g, x.descs) | none => (4 * h.core, [])
  let cl := clusterOf h.core
  let read := fun (r : Got (State × Nat)) => match r with
    | .ok (s, k) => Got.ok (s, s.chAt k n)
    | .bad s f => .bad s f
    | .wait h => .wait h
  match s.look none cl h.ctx a n with
  | some (v, ids, ris) => .ok (s, ⟨v, ris, ids, false⟩)
  | none => match tagOf a with
    | 2 => if s.localOk g descs 0 a n then .ok (s.guarded h.g a n 3, s.chAt (lKey a) n) else .bad s (permFault a 0 true)
    | 4 => if s.first (s.nowItem cl h.ctx a) then read (s.global cl h.ctx a n .read 4) else .wait []
    | 5 =>
      let off := fld a.toNat 0 29
      if (s.wsClosing (cl / 32) && ! s.wsHolds (cl / 32) (wsChain h.id)) || ! s.wsReadable (cl / 32) h.ctx descs a n then .bad s (permFault a 0 true)
      else if s.wsFree (cl / 32) off (wsChain h.id) then .ok (s.wsDone (cl / 32) (wsChain h.id), s.chAt (wsKey (cl / 32) off) n)
      else .wait []
    | _ =>
      if s.absent h.core a then .bad s (permFault a 0 true)
      else if s.first (s.nowItem cl h.ctx a) then read (s.atPeer (bindDie h.ctx a) h.id h.ctx a .read peer) else .wait []

/-- The state before an access of a step that ends its chain, with what was counted and corrected on the way: such a step has no effect on
memory (R115). The free values drawn on the way stay drawn. -/
def State.unread (s t : State) : State :=
  let u := t.dies.foldl (fun u e => u.modDie e.1 fun x =>
    { x with walkcnt := e.2.walkcnt, fwdcnt := e.2.fwdcnt, wsHeld := e.2.wsHeld, wsStalls := e.2.wsStalls, wsStallCyc := e.2.wsStallCyc, badname := e.2.badname }) s
  { u with clusters := t.clusters, chains := t.chains, notes := t.notes, nextId := t.nextId, fresh := t.fresh }

/-- A chain ends with a status at step `h.k`. -/
def State.chStop (s : State) (h : Chain) (status xkind hops : Nat) : State :=
  s.modChain h.id fun x => { x with hops := hops, result := some (chHeader status h.k xkind hops h.base, []) }

/-- The name of a NAME128 step before this one is a barrier whose line no longer holds it (R114). -/
def State.chGone (s : State) (h : Chain) : Bool := match h.prevName with
  | some nm => nmClass nm == 2 && ! s.barriers.any fun b => b.name == nm
  | none => false

/-- The first `n` 8-byte items of a value, in ascending order. -/
def items8 (v : Nat) : Nat → List W64
  | 0 => []
  | n + 1 => w64 (v % 2 ^ 64) :: items8 (v / 2 ^ 64) n

/-- A step of a chain at its owner that has read `r`; the state, and whether the chain ends other than OK (R114). -/
def State.chLoad (s : State) (h : Chain) (st n hops place : Nat) (r : ChRead) : State × Bool :=
  let h := { h with hops := hops }
  let got := acqOf r.carried h.core (chScope st)
  let learn := fun (x : Chain) => { x with
    hops := hops, place := place, obs := union x.obs (r.ids ++ preOf r.carried ++ got), hb := union x.hb got
    seen := union' x.seen (r.carried.filter fun w => w.scope != .none) }
  let s := s.modChain h.id learn
  let stop := fun (s : State) (status : Nat) => (s.chStop h status 0 hops, true)
  match chKind st with
  | 0 => (s.modChain h.id fun x => { x with result := some (chHeader stOK h.k 0 hops h.base, items8 r.v (n / 8)) }, false)
  | 2 =>
    let nm := BitVec.ofNat 128 r.v
    let status := s.liveStatus h.ctx nm
    let s := if status = stBADNAME then s.modDie (clusterOf h.core / 32) fun x => { x with badname := x.badname + 1 } else s
    let cls := nmClass nm
    let value : W64 := match s.entry (nmSerial nm) with | some e => e.value | none => 0
    if status ≠ stOK then stop s status
    else if cls ≠ 2 ∧ cls ≠ 4 ∧ cls ≠ 6 ∧ cls ≠ 7 then stop s stPERM
    else if value = 0 then stop s stGONE
    else (s.modChain h.id fun x => { x with k := h.k + 1, base := value, prevName := some nm }, false)
  | _ =>
    let keep := fld st 16 6
    let v := if keep = 0 then r.v else r.v % 2 ^ keep
    if v = 0 then stop s stGONE
    else
      let v := if bit st 26 then putFld v 60 4 (fld st 22 4) else v
      (s.modChain h.id fun x => { x with k := h.k + 1, base := w64 v, prevName := none }, false)

/-- CHAIN_STEP: the next step of a chain; `peer` is what another module answers (log entry 1) (R114). -/
def execChainStep (n : Nat) (peer : BitVec 8) (s : State) : Ans :=
  match s.chains.find? fun h => h.id == n && h.result.isNone with
  | none => .next s
  | some h =>
    let st := chStep h.desc h.k
    let ea := h.base + chOff st
    let len := if chKind st = 0 then chSize st else if chKind st = 2 then 16 else 8
    if ¬ addrOk (isSup h.core) ea ∨ tagOf ea = 3 ∨ tagOf ea = 15 ∨ ea.toNat % len ≠ 0 then .next (s.chStop h stPERM 0 h.hops) else
    let a := s.canon h.core ea
    let place := s.owner h a
    let hops := h.hops + chHops h.place place
    if 255 < hops then .next (s.chStop h 14 0 hops) else
    match s.chAccess h a len peer with
    | .wait keys => .next (if tagOf a = 5 then s.wsHold (clusterOf h.core / 32) (fld a.toNat 0 29) (wsChain n) else s.ckWant keys)
    | .bad t f => .next ((if tagOf a = 5 then t.wsDrop (wsChain n) else t).chStop h (chFault f).1 (chFault f).2 hops)
    | .ok (t, r) =>
      if s.chGone h then .next ((s.unread t).chStop h stGONE 0 hops)
      else if r.bad then .next ((s.unread t).chStop h 7 0 hops)
      else match t.chLoad h st len hops place r with
        | (t, false) => .next t
        | (t, true) => .next (s.unread t)

/-! The return (R116, R117, R119, R332) -/

/-- Items of a result into the spill buffer at `k` of a PREEMPTED slot, after those that are there (R332). -/
def State.spillMore (s : State) (k q : Nat) (items : List W64) : State :=
  let n := s.nat (k + 0x200 + 8 * q) 8
  let s := items.zipIdx.foldl (fun s (v, i) => if n + i < 16 then s.write (k + 128 * q + 8 * (n + i)) 8 v.toNat else s) s
  s.write (k + 0x200 + 8 * q) 8 (Min.min 16 (n + items.length))

/-- CHAIN_RETURN: a result is delivered to the return block, data first and the word with done last, or to its stream register, if
that is still bound to the chain, or to the spill buffer that holds the register's items; the chain stops counting (R116, R117, R119,
R332). -/
def execChainReturn (n : Nat) (s : State) : Ans :=
  match s.chains.find? fun h => h.id == n with
  | none => .next s
  | some h => match h.result, s.holder h.g with
    | none, _ => .next s
    | some _, none => .next { s with chains := s.chains.filter fun k => k.id != n }
    | some (hd, data), some (_, x) =>
      let st := chStep h.desc ((chEnd h.desc).getD 0)
      let q := chQ st
      let bound := (x.st q).src == some (.chain n)
      let block := localKey h.core (chDest st)
      let spill := if chStream st ∧ bound ∧ x.state = .preempted ∧ x.spilled then x.spillAt else none
      let puts := match spill with | some k => [k] | none => if chStream st then [] else [block]
      if chStream st ∧ bound ∧ x.state = .frozen then .next s
      else if puts.any s.ckHold then .next (s.ckWant puts) else
      let t : State := { s with chains := s.chains.filter fun k => k.id != n }
      let t := t.modHolder h.g fun x => { x with obs := union x.obs h.obs, hb := union x.hb h.hb, seen := union' x.seen h.seen }
      if ¬ chStream st then
        let ri := relOf .none h.core [] h.hb
        let t := data.zipIdx.foldl (fun (t : State) (v, i) => t.write (block + 16 + 8 * i) 8 v.toNat ri) t
        .next ((t.write (block + 8) 8 (hd.toNat / 2 ^ 64) ri).write block 8 hd.toNat ri)
      else if ¬ bound then .next t
      else
        let items := items8 hd.toNat 2 ++ data
        let t := match spill with | some k => t.spillMore k q items | none => t
        .next (t.modHolder h.g fun y => y.modSt q fun r => { r with items := if spill.isSome then r.items else r.items ++ items, last := true })

end Sys2Proof.Machine
end

