-- ==== Sys2Proof/Machine/Copy.lean ====
section
/-! DEFINITION. CMDQ and its push check (R27 to R32); the copy engine: its queues, operands, commands, stages and errors (R142
to R170). A body moves one destination line, one element or one plane block at a time (log entry 20). -/
namespace Sys2Proof.Machine

/-! The push check (R30, R136, R158 to R164, R216 to R219, R239 to R245) -/

/-- Bits [hi:lo] of a command. -/
def bits (w hi lo : Nat) : Nat := fld w lo (hi + 1 - lo)

/-- Whether a format accepts a plane count (R136). -/
def planesOk (fmt p : Nat) : Bool :=
  match fmt with
  | 0 | 1 => p == 1
  | 2 => p == 2
  | 3 => p == 3
  | 4 | 5 => p == 4
  | 6 => p == 6
  | 7 | 8 => p == 8
  | 9 => p == 12
  | 10 => p == 16
  | _ => decide (fmt ≤ 19 ∧ 2 ≤ p ∧ p ≤ 32)

/-- Whether an opcode is defined (R29). -/
def opDefined (op : Nat) : Bool := decide ((1 ≤ op ∧ op ≤ 8) ∨ (0x20 ≤ op ∧ op ≤ 0x27))
/-- The words of an opcode (R29). -/
def opWords (op : Nat) : Nat := if op ≤ 5 || op == 0x22 || op == 0x24 then 2 else 1

/-- The fields of an opcode's own map (R30 step 6). -/
def fieldsOk (op w : Nat) : Bool :=
  let flags := bits w 15 12
  let only := fun (mask : Nat) => flags &&& mask == flags
  let fl := fun (hi lo : Nat) => bit w 12 || bits w hi lo == 0
  let st := fun (hi lo : Nat) => bit w 13 || bits w hi lo == 0
  match op with
  | 0x01 => only 3 && bits w 191 160 != 0 && bits w 207 192 != 0 && bits w 223 208 != 0 && st 226 224 && bits w 255 227 == 0 && fl 447 384 &&
      bits w 511 448 == 0
  | 0x02 => only 0 && bits w 127 96 != 0 && bits w 98 96 == 0 && bits w 143 128 != 0 && bits w 255 146 == 0 && bits w 511 288 == 0
  | 0x03 => only 7 && bits w 183 160 != 0 && bits w 191 184 != 0 && decide (bits w 191 184 ≤ if bit w 14 then 128 else 64) &&
      planesOk (bits w 196 192) (bits w 202 197) && st 205 203 && bits w 255 206 == 0 && fl 351 288 && bits w 511 352 == 0
  | 0x04 | 0x05 => only 5 && bits w 255 224 != 0 && decide (bits w 291 288 ≤ 9) && bits w 319 292 == 0 && fl 383 320 && bits w 511 384 == 0
  | 0x06 => only 2 && bits w 127 96 != 0 && st 194 192 && bits w 255 195 == 0
  | 0x07 => only 0 && bits w 127 96 % 64 == 0 && decide (bits w 127 96 < 2 ^ 29) && bits w 159 128 % 64 == 0 && bits w 159 128 != 0 &&
      decide (bits w 127 96 + bits w 159 128 ≤ 2 ^ 29) && bits w 255 160 == 0
  | 0x08 => only 1 && fl 95 32 && bits w 255 96 == 0
  | 0x20 => only 0 && planesOk (bits w 100 96) (bits w 111 106) && planesOk (bits w 105 101) (bits w 117 112) &&
      (! bit w 118 || decide (bits w 100 96 ≤ 10 ∧ bits w 105 101 ≤ 10)) && bits w 255 119 == 0
  | 0x21 => only 0 && bits w 63 37 == 0 && bits w 159 150 == 0 && bits w 255 208 == 0 &&
      (if bit w 36 then ! bit w 35 && bits w 143 64 == 0 && bits w 149 144 == 0 && bits w 207 160 == 0
       else bits w 143 128 != 0 && decide (1 ≤ bits w 149 144 ∧ bits w 149 144 ≤ 32))
  | 0x22 => only 0 && bits w 47 40 == 0 && bits w 95 80 == 0 && bits w 166 160 == bits w 190 184 && bits w 255 208 == 0 &&
      (if bit w 38 then bits w 37 35 == 0 && bits w 79 64 == 0 && bits w 415 384 % 64 == 0 && decide (bits w 415 384 < 2 ^ 29)
       else bits w 447 384 == 0)
  | 0x23 => only 0 && bits w 38 32 != 0 && decide (bits w 38 32 ≤ 64) && bits w 46 39 != 0 && decide (bits w 46 39 ≤ 128) && bits w 63 48 == 0 &&
      bits w 95 64 != 0 && bits w 127 96 == 0 && bits w 191 128 != 0 && bits w 255 192 == 0
  | 0x24 => only 1 && bits w 511 384 == 0
  | 0x25 => only 1 && bits w 225 224 != 3 && bits w 231 226 == 0 && bits w 255 232 % 4 == 0
  | 0x26 => only 0 && bits w 255 224 == 0
  | _ => only 0 && bits w 223 160 != 0 && bits w 255 224 == 0

/-- The first failing step of the push check, 0 when the command passes (R30). -/
def pushCheck (w : Nat) (eng : Eng) (n : Nat) : Nat :=
  let op := bits w 7 0
  let e := bits w 11 8
  if ! opDefined op then 1
  else if e != op / 32 then 2
  else if e != eng.code.toNat then 3
  else if n + 1 != opWords op then 4
  else if bits w 23 19 != 0 || decide (6 ≤ bits w 18 16) then 5
  else if ! fieldsOk op w then 6
  else 0

/-! CMDQ (R27, R32) -/

/-- A command of slot `g` pushed: the next number of its series, a release at the command's scope (R27, R152, R165, R214). -/
def State.push (s : State) (g : Nat) (eng : Eng) (w : W512) (two : Bool) : State × W64 :=
  let x := s.slot g
  let seq := (if eng = .copy then x.cpNum else x.mxNum) + 1
  let cmd : Cmd := ⟨w, two, g, seq, x.ctx, false, .fresh, if fld w.toNat 16 3 = 0 then [] else s.live x.obs, x.task⟩
  let s := s.trace g 8 x.pc eng.code.toNat seq 0
  let s := s.modQueue (coreOf g) eng fun q => { q with cmds := q.cmds ++ [cmd], waiters := q.waiters.filter fun k => k.1 != g % 4 }
  (s.modSlot g fun x =>
    let x := if eng = .copy then { x with cpNum := seq } else { x with mxNum := seq }
    ({ x with stepRep := (BitVec.ofNat 16 (2 + eng.code.toNat * 2 ^ 8), seq) } : Slot).next.moved, seq)

/-- CMDQ (R27, R30, R32). -/
def execCmdq (vs : BitVec 4) (eng : Eng) (n chk : BitVec 1) (s : State) : Ans :=
  s.needs (if eng = .matrix then 16 else 0) fun s =>
  let x := s.me
  let w : W512 := BitVec.ofNat 512 ((x.vr vs).toNat + if n = 1 then (x.vr (vs + 1)).toNat * 2 ^ 256 else 0)
  let step := pushCheck w.toNat eng n.toNat
  if step ≠ 0 then s.precise 0x0B (w64 (step + bits w.toNat 31 24 * 2 ^ 8)) 0 else
  s.commitThen fun s =>
  let c := coreOf s.cur
  let k := s.cur % 4
  let words := n.toNat + 1
  let room := decide (words ≤ (s.queue c eng).room)
  if chk = 1 ∧ ! room then .next ((s.modMe fun x => x.setS 7 (-1)).modMe fun x => x.next.moved)
  else if chk = 0 ∧ ! room then
    let s := if s.me.hold == .room eng then s else
      s.modQueue c eng fun q => { q with waiters := q.waiters.filter (fun j => j.1 != k) ++ [(k, words, w)] }
    .next (s.holdFor (.room eng))
  else
    let (s, seq) := s.push s.cur eng w (n == 1)
    .next (if chk = 1 then s.modMe fun x => x.setS 7 seq else s)

/-- CMDQ_PUSH: the push that waits longest for room is performed once it has it (R32); where its matrix unit has been quarantined
meanwhile, its slot runs the word again, which migrates the task (R26, R344). -/
def execCmdqPush (c : Nat) (eng : Eng) (s : State) : Ans :=
  match s.queueing c eng with
  | [] => .next s
  | (k, n, w) :: _ =>
    let g := 4 * c + k
    if (s.queue c eng).room < n ∨ (s.slot g).preempting ∨ (s.core c).quarantined ∨ s.paused c then .next s
    else if eng = .matrix ∧ (s.cluster (clusterOf c)).matrixQuarantined then .next (s.run g)
    else .next ((s.push g eng w (n == 2)).1.run g)

/-! The head of a queue -/

/-- The head command of a queue of core `c`. -/
def State.head (s : State) (c : Nat) (eng : Eng) : Option Cmd := (s.queue c eng).cmds.head?
/-- The head command changed. -/
def State.modHead (s : State) (c : Nat) (eng : Eng) (f : Cmd → Cmd) : State :=
  s.modQueue c eng fun q => { q with cmds := match q.cmds with
    | [] => []
    | k :: ks => f k :: ks }
/-- How far the head command has come. -/
def State.phase (s : State) (c : Nat) (eng : Eng) (p : Phase) : State := s.modHead c eng fun k => { k with phase := p }

/-- Whether the head may begin: the error word of its slot is clear, the die is not halted, what its push released is visible
(R151, R153, R213, R214, R315). -/
def State.mayBegin (s : State) (c : Nat) (eng : Eng) (k : Cmd) : Bool :=
  k.phase == .fresh && ! k.retire && s.nat (pageKey k.g (if eng = .copy then 0x18 else 0x10)) 8 == 0 && ! s.paused c &&
    s.visible k.scope c k.obs
/-- The head begins: it acquires what its push released to it (R151, R213). -/
def State.beginCmd (s : State) (c : Nat) (eng : Eng) (k : Cmd) : State :=
  s.modQueue c eng fun q => { q with obs := union q.obs k.obs, hb := union q.hb k.obs }

/-- The error word of a command: status, kind of translation failure, operand (R168, R169, R226). -/
def Cmd.error (k : Cmd) (status xkind opnd : Nat) : W64 :=
  w64 (status + xkind * 2 ^ 8 + opnd * 2 ^ 12 + k.op * 2 ^ 16 + bits k.w.toNat 31 24 * 2 ^ 24 + k.seq.toNat % 2 ^ 32 * 2 ^ 32)
/-- The error word for what an operand's access met; a walker that read poison gives POISON (R154, R168; log entry 61). -/
def Cmd.failed (k : Cmd) (opnd : Nat) (f : FaultInfo) : W64 :=
  match f.cause.toNat with
  | 4 => k.error 0x0D (fld f.detail.toNat 0 4) opnd
  | 6 => k.error 0x0F 0 opnd
  | 7 => k.error 7 0 opnd
  | _ => k.error stPERM 0 opnd

/-- The writes that a queue's agent has read, and what happens-before them, are from then on part of what its releases carry (R151, R314). -/
def State.engSaw (s : State) (c : Nat) (eng : Eng) (ris : List RelInfo) (ids : List Nat) : State :=
  s.modQueue c eng fun q => { q with obs := union q.obs (ids ++ preOf ris) }
/-- What a plain write of a queue's command carries. -/
def State.plain (s : State) (c : Nat) (eng : Eng) : List RelInfo := relOf .none c [] (s.queue c eng).hb

/-! Operands of an engine (R113, R154) -/

/-- Whether an MPASS has been accepted and still runs. -/
def Cmd.accepted (k : Cmd) : Bool := match k.phase with
  | .passing _ | .replay _ => true
  | _ => false
/-- A line request counted (R150). -/
def State.countLine (s : State) (c : Nat) (eng : Eng) : State :=
  if eng = .copy then s.modCluster (clusterOf c) fun x => { x with copyLines := x.copyLines + 1 } else s

/-- One access of at most a line: the flat key. The weight store takes no read that is issued after a write of LOAD, one that has
reached its group is performed, and an access in a refresh window is held in its turn (R134, R135). -/
def State.engLine (s : State) (c : Nat) (eng : Eng) (k : Cmd) (ea : W64) (n : Nat) (kind : Kind) (type : Nat) : State × Met Nat :=
  let ws := tagOf ea == 5
  let d := dieOf c
  let off := fld ea.toNat 0 29
  let who := wsEngine c eng
  if ws && s.wsClosing d && ! k.accepted && ! s.wsHolds d who then (s, .bad (permFault ea 0 false)) else
  match s.access k.g k.ctx (s.protSet (clusterOf c) k.ctx) ea n kind type with
  | .ok (t, key) => if ws && ! s.wsFree d off who then (s, .wait []) else ((if ws then t.wsDone d who else t).countLine c eng, .ok key)
  | .bad t f => (if ws then t.wsDrop who else t, .bad f)
  | .wait h => (if ws then s.wsHold d off who else s, .wait h)

/-- At most a line's bytes read, from the cluster's queue or where they lie, and whether they were poisoned (R309, R340). -/
def State.engFetch (s : State) (c : Nat) (eng : Eng) (k : Cmd) (type : Nat) (ea : W64) (n : Nat) : State × Met (Nat × Bool) :=
  match s.look none (clusterOf c) k.ctx (s.canon c ea) n with
  | some (v, ids, ris) => ((s.countLine c eng).engSaw c eng ris ids, .ok (v, false))
  | none => match s.engLine c eng k ea n .read type with
    | (s, .ok key) => (s.engSaw c eng (s.carried key n) [], .ok (s.nat key n, s.poisoned key n))
    | (s, .bad e) => (s, .bad e)
    | (s, .wait h) => (s, .wait h)

/-- The `n` bytes at `ea`, line by line, and whether a line was poisoned. -/
def State.engRead (s : State) (c : Nat) (eng : Eng) (k : Cmd) (type : Nat) : Nat → W64 → Nat → State × Met (Nat × Bool)
  | 0, _, _ => (s, .ok (0, false))
  | f + 1, ea, n =>
    if n = 0 then (s, .ok (0, false)) else
    let m := Min.min n (64 - ea.toNat % 64)
    match s.engFetch c eng k type ea m with
    | (s, .ok (v, p)) =>
      (match s.engRead c eng k type f (ea + w64 m) (n - m) with
      | (s', .ok (w, q)) => (s', .ok (v + w * 2 ^ (8 * m), p || q))
      | r => r)
    | r => r

/-- The parts of [ea, ea + n) in 8-byte words: address and bytes. -/
def wordsOf : Nat → W64 → Nat → List (W64 × Nat)
  | 0, _, _ => []
  | f + 1, ea, n =>
    if n = 0 then [] else
    let m := Min.min n (8 - ea.toNat % 8)
    (ea, m) :: wordsOf f (ea + w64 m) (n - m)

/-- The low `n` bytes of `v` written within one line, as poisoned if asked (R157); slot pages take them word by word (R127). The sample of
a write is that of a copy write: DESIGN CHOICE for a matrix unit's, R85 names none (log entry 76). -/
def State.engWriteLine (s : State) (c : Nat) (eng : Eng) (k : Cmd) (ea : W64) (n v : Nat) (bad : Bool) (ri : List RelInfo) : State × Met Unit :=
  match s.engLine c eng k ea n .write 6 with
  | (s, .ok key) =>
    let a := s.canon c ea
    if tagOf a = 2 ∧ 0x27000 ≤ lOff a then
      let ws := (wordsOf 9 a n).map fun p => (p.1, p.2, fld v (8 * (p.1.toNat - a.toNat)) (8 * p.2))
      if ws.all fun p => s.pageOk p.1 p.2.1 p.2.2 then
        let s := ws.foldl (fun s p => s.writeLocal k.ctx p.1 p.2.1 p.2.2 ri) s
        (if bad then s.mark (lKey a) else s, .ok ())
      else (s, .bad (permFault ea 1 false))
    else
      let s := s.write key n v ri
      (if bad then s.mark key else s, .ok ())
  | (s, .bad e) => (s, .bad e)
  | (s, .wait h) => (s, .wait h)

/-- The low `n` bytes of `v` written at `ea` line by line; line `i` as poisoned where `bad i`. -/
def State.engWrite (s : State) (c : Nat) (eng : Eng) (k : Cmd) (bad : Nat → Bool) (ri : List RelInfo) : Nat → Nat → W64 → Nat → Nat → State × Met Unit
  | 0, _, _, _, _ => (s, .ok ())
  | f + 1, i, ea, n, v =>
    if n = 0 then (s, .ok ()) else
    let m := Min.min n (64 - ea.toNat % 64)
    match s.engWriteLine c eng k ea m (v % 2 ^ (8 * m)) (bad i) ri with
    | (s, .ok _) => s.engWrite c eng k bad ri f (i + 1) (ea + w64 m) (n - m) (v / 2 ^ (8 * m))
    | r => r

/-- Whether an access at [ea, ea + n) would pass its checks; nothing is accessed (R241). -/
def State.engCheck (s : State) (c : Nat) (k : Cmd) (kind : Kind) : Nat → W64 → Nat → State × Met Unit
  | 0, _, _ => (s, .ok ())
  | f + 1, ea, n =>
    if n = 0 then (s, .ok ()) else
    let m := Min.min n (64 - ea.toNat % 64)
    match s.access k.g k.ctx (s.protSet (clusterOf c) k.ctx) ea m kind 8 with
    | .ok (s, _) => s.engCheck c k kind f (ea + w64 m) (n - m)
    | .bad s e => (s, .bad e)
    | .wait h => (s, .wait h)

/-! Stages (R166, R167, R214, R218) -/

def State.stage (s : State) (c i : Nat) : Stage := (s.core c).stages.get Stage.reset i
def State.modStage (s : State) (c i : Nat) (f : Stage → Stage) : State :=
  s.modCore c fun k => { k with stages := k.stages.set Stage.reset i (f (k.stages.get Stage.reset i)) }
/-- A stage of a killed context becomes invalid once nothing uses it (R214). -/
def Stage.settle (t : Stage) : Stage := if t.kill && t.inuse == 0 then Stage.reset else t
/-- The bytes of a plane block (R143). -/
def blockSize (opb : Bool) (planes : Nat) : Nat := 64 + (if opb then 2048 else 1024) * planes
/-- The bytes of a stage's region (R218). -/
def Stage.size (t : Stage) : Nat := t.nb * blockSize t.opb t.planes

/-! Operands of the copy commands (R158 to R164) -/

def Cmd.f (k : Cmd) (hi lo : Nat) : Nat := bits k.w.toNat hi lo
def Cmd.a (k : Cmd) (lo : Nat) : W64 := w64 (fld k.w.toNat lo 64)
/-- A signed 32-bit stride. -/
def Cmd.str (k : Cmd) (lo : Nat) : W64 := sx 32 (fld k.w.toNat lo 32)
def Cmd.fl (k : Cmd) : Bool := bit k.w.toNat 12
def Cmd.stg (k : Cmd) : Bool := bit k.w.toNat 13
/-- The flag of a command. -/
def Cmd.flag (k : Cmd) : W64 :=
  match k.op with
  | 1 => k.a 384
  | 3 => k.a 288
  | 8 => k.a 32
  | _ => k.a 320

/-- The range that a stage copy's body writes, relative to its `dst`: lowest and one past the highest offset (R166). -/
def Cmd.extent (k : Cmd) : Int × Int :=
  let span := fun (n : Nat) (st : W64) => let d : Int := st.toInt * ((n : Int) - 1); (Min.min 0 d, Max.max 0 d)
  match k.op with
  | 1 =>
    let a := span (k.f 207 192) (k.str 320)
    let b := span (k.f 223 208) (k.str 352)
    (a.1 + b.1, a.2 + b.2 + k.f 191 160)
  | 3 => (0, (k.f 183 160 + 127) / 128 * blockSize (bit k.w.toNat 14) (k.f 202 197))
  | _ => (0, k.f 127 96)
/-- The destination of a stage copy. -/
def Cmd.dst (k : Cmd) : W64 := if k.op = 6 then k.a 32 else k.a 96

/-! Beginning (R151, R155, R160, R166) -/

/-- Whether a flag address may be incremented: aligned, with one of its tags (R155). -/
def flagOk (ea : W64) : Bool := ea.toNat % 8 == 0 && (plainTag ea || tagOf ea == 8)

/-- The body of the head begins: what is checked before any byte moves (R155, R162 to R164). -/
def State.startBody (s : State) (c : Nat) (k : Cmd) : State :=
  let fail := fun (st opnd : Nat) => s.phase c .copy (.ran (some (k.error st 0 opnd)))
  if k.fl && ! flagOk k.flag then fail stPERM 3 else
  match k.op with
  | 3 => if (k.a 96).toNat % 64 ≠ 0 ∨ tagOf (k.a 96) = 5 then fail stPERM 2 else s.phase c .copy (.moving 0 0)
  | 4 | 5 => if (k.a 96).toNat % (if bit k.w.toNat 14 then 8 else 4) ≠ 0 then fail stPERM 4 else s.phase c .copy (.moving 0 0)
  | 7 =>
    let d := s.die (dieOf c)
    let refused := d.wsRead || ((match d.wsWant with | some v => bit v.toNat 0 | none => false) && ! d.wsAhead.contains (4 * c + k.g % 4, k.seq))
    if (k.a 32).toNat % 64 ≠ 0 ∨ tagOf (k.a 32) = 5 then fail stPERM 1
    else if refused then fail stPERM 2 else s.phase c .copy (.moving 0 0)
  | 8 => s.phase c .copy (.ran none)
  | _ => s.phase c .copy (.moving 0 0)

/-- The head begins: a stage copy by stage_begin, a CPYS by binding its register once it is unbound, where unread items of a failed one stay (R151,
R160, R161, R166). -/
def State.beginCopy (s : State) (c : Nat) (k : Cmd) : State :=
  let s := s.beginCmd c .copy k
  if k.op = 2 then
    if s.cpysWaits c k then s
    else if (k.str 256).toNat % 8 ≠ 0 then s.phase c .copy (.ran (some (k.error stPERM 0 1))) else
    ((s.modHolder (s.binds c k) fun x => x.modSt (k.f 145 144) fun r =>
      { r with src := some (.cpys k.seq), last := false, fail := false }).bindSkip c (s.binds c k) (k.f 145 144)).phase c .copy (.feeding 0 0)
  else if (k.op == 1 || k.op == 3 || k.op == 6) && k.stg then
    let t := s.stage c k.stageIx
    if ¬ t.reg then s.phase c .copy (.ran (some (k.error 0x0C 0 5)))
    else if tagOf t.base = 5 then s.phase c .copy (.ran (some (k.error stPERM 0 5)))
    else (s.modStage c k.stageIx fun t => { t with filling := true }).phase c .copy .staging
  else s.startBody c k

/-- STAGE_COPY_BEGIN: the stage is out of use; its body may write inside the region only (R166, R167). -/
def execStageCopyBegin (c : Nat) (s : State) : Ans :=
  match s.head c .copy with
  | none => .next s
  | some k =>
    let t := s.stage c k.stageIx
    if k.phase ≠ .staging ∨ k.retire ∨ t.inuse ≠ 0 then .next s else
    let d : Int := (s.canon c k.dst).toNat
    let b : Int := (s.canon c t.base).toNat
    let (lo, hi) := k.extent
    if d + lo < b ∨ b + t.size < d + hi then .next (s.phase c .copy (.ran (some (k.error stPERM 0 5))))
    else .next (s.startBody c k)

/-! Bodies -/

/-- At most a line's bytes moved from `sa` to `da`, both checked: what failed, by operand (R154, R157). -/
def State.movePiece (s : State) (c : Nat) (k : Cmd) (sop dop : Nat) (sa da : W64) (m : Nat) : State × Met (Option W64) :=
  match s.engRead c .copy k 5 2 sa m with
  | (s, .ok (v, p)) =>
    (match s.engWriteLine c .copy k da m v p (s.plain c .copy) with
    | (s, .ok _) => (s, .ok none)
    | (s, .bad f) => (s, .ok (some (k.failed dop f)))
    | (s, .wait h) => (s, .wait h))
  | (s, .bad f) => (s, .ok (some (k.failed sop f)))
  | (s, .wait h) => (s, .wait h)

/-- `n` bytes moved, one destination line after the other. -/
def State.moveRun (s : State) (c : Nat) (k : Cmd) (sop dop : Nat) : Nat → W64 → W64 → Nat → State × Met (Option W64)
  | 0, _, _, _ => (s, .ok none)
  | f + 1, sa, da, n =>
    if n = 0 then (s, .ok none) else
    let m := Min.min n (64 - da.toNat % 64)
    match s.movePiece c k sop dop sa da m with
    | (s, .ok none) => s.moveRun c k sop dop f (sa + w64 m) (da + w64 m) (n - m)
    | r => r

/-- What a piece of a body leaves: the next piece, the body's end, an error, or the piece still to do. -/
def State.afterPiece (s : State) (c : Nat) (next : Option (Nat × Nat)) (r : State × Met (Option W64)) : Ans :=
  match r with
  | (s, .ok none) => .next (s.phase c .copy (match next with | some (i, o) => .moving i o | none => .ran none))
  | (s, .ok (some e)) => .next (s.phase c .copy (.ran (some e)))
  | (t, .bad _) => .next (s.keepHeld t)
  | (t, .wait h) => .next ((s.keepHeld t).ckWant h)

/-- The head of core `c`'s copy queue, of opcode `op`: it begins, or `body` moves its next piece; a command to be retired moves no
more (R151, R153). -/
def copyStep (op c : Nat) (body : Cmd → Nat → Nat → State → Ans) (s : State) : Ans :=
  match s.head c .copy with
  | none => .next s
  | some k =>
    if k.op ≠ op ∨ k.retire ∨ s.cutting c then .next s else
    match k.phase with
    | .fresh => .next (if s.mayBegin c .copy k then s.beginCopy c k else s)
    | .moving i o => body k i o s
    | _ => .next s

/-- CPY: row `i`, from byte `o` of it (R159). -/
def execCpy (c : Nat) (s : State) : Ans :=
  copyStep 1 c (fun k i o s =>
    let n0 := k.f 191 160
    let n1 := k.f 207 192
    let i1 := w64 (i % n1)
    let i2 := w64 (i / n1)
    let sa := k.a 32 + k.str 288 * i2 + k.str 256 * i1 + w64 o
    let da := k.a 96 + k.str 352 * i2 + k.str 320 * i1 + w64 o
    let m := Min.min (n0 - o) (64 - da.toNat % 64)
    s.afterPiece c (if o + m < n0 then some (i, o + m) else if i + 1 < n1 * k.f 223 208 then some (i + 1, 0) else none)
      (s.movePiece c k 1 2 sa da m)) s

/-- CPYS begins by binding its register; CPYS_ITEM feeds it (R160). -/
def execCpys (c : Nat) (s : State) : Ans := copyStep 2 c (fun _ _ _ s => .next s) s

/-- GATH and SCAT: element `i` (R162). -/
def gathScat (scat : Bool) (c : Nat) (k : Cmd) (i : Nat) (s : State) : Ans :=
  let iw := if bit k.w.toNat 14 then 8 else 4
  let e := 2 ^ k.f 291 288
  let next := if i + 1 < k.f 255 224 then some (i + 1, 0) else none
  match s.engRead c .copy k 5 2 (k.a 96 + w64 (iw * i)) iw with
  | (s, .ok (x, p)) =>
    let a := k.a 32 + w64 x * k.str 256
    let l := k.a 160 + w64 (i * e)
    let al := Min.min e 8
    let err := if p then some (k.error 7 0 4) else if a.toNat % al ≠ 0 then some (k.error stPERM 0 6)
      else if l.toNat % al ≠ 0 then some (k.error stPERM 0 7) else none
    (match err with
    | some w => s.afterPiece c next (s, .ok (some w))
    | none => s.afterPiece c next (if scat then s.moveRun c k 7 6 10 l a e else s.moveRun c k 6 7 10 a l e))
  | (s, .bad f) => s.afterPiece c next (s, .ok (some (k.failed 4 f)))
  | (t, .wait h) => .next ((s.keepHeld t).ckWant h)

/-- GATH (R162). -/
def execGath (c : Nat) (s : State) : Ans := copyStep 4 c (fun k i _ s => gathScat false c k i s) s
/-- SCAT: in ascending order of the elements (R156, R162). -/
def execScat (c : Nat) (s : State) : Ans := copyStep 5 c (fun k i _ s => gathScat true c k i s) s

/-- FILL: pattern byte a mod 8 at address a (R164). -/
def execFill (c : Nat) (s : State) : Ans :=
  copyStep 6 c (fun k i o s =>
    let da := k.a 32 + w64 o
    let m := Min.min (k.f 127 96 - o) (64 - da.toNat % 64)
    let v := packN 8 (fun j => fld (k.a 128).toNat (8 * ((da.toNat + j) % 8)) 8) m
    s.afterPiece c (if o + m < k.f 127 96 then some (i, o + m) else none)
      (match s.engWriteLine c .copy k da m v false (s.plain c .copy) with
      | (s, .ok _) => (s, .ok none)
      | (s, .bad f) => (s, .ok (some (k.failed 2 f)))
      | (s, .wait h) => (s, .wait h))) s

/-- WLOAD: a line into the weight store, held while its group is refreshed (R134, R135, R164). -/
def execWload (c : Nat) (s : State) : Ans :=
  copyStep 7 c (fun k i o s =>
    let d := dieOf c
    let off := k.f 127 96 + o
    let next := if o + 64 < k.f 159 128 then some (i, o + 64) else none
    let who := wsEngine c .copy
    if ¬ s.wsFree d off who then .next (s.wsHold d off who) else
    if s.ckHold (wsKey d off) then .next (s.ckWant [wsKey d off]) else
    match s.engRead c .copy k 5 2 (k.a 32 + w64 o) 64 with
    | (s, .ok (v, p)) =>
      let s := (((s.wsDone d who).write (wsKey d off) 64 v (s.plain c .copy)).countLine c .copy)
      s.afterPiece c next (if p then s.mark (wsKey d off) else s, .ok none)
    | (s, .bad f) => s.afterPiece c next (s, .ok (some (k.failed 1 f)))
    | (t, .wait h) => .next ((s.keepHeld t).ckWant h)) s

/-- CSEQ: it completes as soon as its turn comes (R164). -/
def execCseq (c : Nat) (s : State) : Ans := copyStep 8 c (fun _ _ _ s => .next s) s

/-! PACK (R136 to R148, R163) -/

/-- Bits of a format's container (R136). -/
def container (fmt : Nat) : Nat :=
  match fmt with
  | 0 | 1 => 1
  | 2 => 2
  | 3 | 4 | 5 | 11 => 4
  | 6 | 7 | 8 | 12 | 13 | 14 | 15 => 8
  | 18 | 19 => 32
  | _ => 16
/-- Bits of an integer format's code (R136). -/
def codeBits (fmt : Nat) : Nat :=
  match fmt with
  | 0 | 1 => 1
  | 2 => 2
  | 3 => 3
  | 4 | 5 => 4
  | 6 => 6
  | 7 | 8 => 8
  | 9 => 12
  | _ => 16
/-- The plane kind of a format: 0 unsigned, 1 two's complement, 2 bipolar (R136). -/
def planeKind (fmt : Nat) : Nat := if fmt = 1 then 2 else if fmt = 0 ∨ fmt = 5 ∨ fmt = 8 then 0 else 1

/-- A format without special values (R138). -/
def flFinite (f : Fmt) (x : Nat) : Fl :=
  let m := fld x 0 f.man
  let e := fld x f.man f.exp
  let neg := bit x (f.man + f.exp)
  if e = 0 then .fin neg m (1 - (f.bias : Int) - f.man) else .fin neg (2 ^ f.man + m) ((e : Int) - f.bias - f.man)

/-- The value of an element of a floating format (R138). -/
def elemFl (fmt x : Nat) : Fl :=
  match fmt with
  | 11 => flFinite ⟨1, 2, 1⟩ x
  | 12 => flFinite ⟨3, 2, 1⟩ x
  | 13 => flFinite ⟨2, 3, 3⟩ x
  | 14 => if fld x 0 7 = 0x7F then .nan else flFinite ⟨3, 4, 7⟩ x
  | 15 => flDec ⟨2, 5, 15⟩ x
  | 16 => flDec ⟨10, 5, 15⟩ x
  | 17 => flDec ⟨7, 8, 127⟩ x
  | 18 => flDec fp32 (x / 2 ^ 13 * 2 ^ 13)
  | _ => flDec fp32 x
/-- The value of an element of an integer format (R136). -/
def elemInt (fmt x : Nat) : Int :=
  let n := codeBits fmt
  match planeKind fmt with
  | 0 => fld x 0 n
  | 1 => (BitVec.ofNat n x).toInt
  | _ => 2 * (x % 2 : Nat) - 1

/-- floor(log2(|v|)) of a non-zero value. -/
def flExp : Fl → Option Int
  | .fin _ m e => if m = 0 then none else some ((Nat.log2 m : Int) + e)
  | _ => none

/-- packblock: the shift byte and the codes of a row-block of A or a block of B, `none` an element of padding (R146). -/
def packBlock (fmt p : Nat) (xs : List (Option Nat)) : Nat × List Nat :=
  if fmt ≤ 10 then
    let v : List Int := xs.map fun x => match x with | some x => elemInt fmt x | none => 0
    (if v.all (· == 0) then 0x80 else 0, xs.map fun x => match x with
      | none => 0
      | some x => if fmt = 1 then x % 2 else wrapInt p (elemInt fmt x))
  else
    let v : List Fl := xs.map fun x => match x with | some x => elemFl fmt x | none => .fin false 0 0
    let zero := xs.map fun _ => 0
    if v.any fun y => match y with | .fin .. => false | _ => true then (0x81, zero)
    else match (v.filterMap flExp).max? with
      | none => (0x80, zero)
      | some emax =>
        let s := clampInt (emax - ((p : Int) - 2)) (-126) 127
        (wrapInt 8 s, v.map fun y => match y with
          | .fin neg m e =>
            let r : Int := roundTo 0 neg m e s
            wrapInt p (clampInt (if neg then -r else r) (-2 ^ (p - 1)) (2 ^ (p - 1) - 1))
          | _ => 0)

/-- The rows of a block read from the source, `none` a row of padding; `row i` gives address and bytes (R137, R148, R163). -/
def State.packRows (s : State) (c : Nat) (k : Cmd) (row : Nat → Option (W64 × Nat)) : Nat → State × Met (List (Option (Nat × Bool)))
  | 0 => (s, .ok [])
  | n + 1 =>
    match s.packRows c k row n with
    | (s, .ok l) =>
      (match row n with
      | none => (s, .ok (l ++ [none]))
      | some (a, m) => match s.engRead c .copy k 5 10 a m with
        | (s, .ok r) => (s, .ok (l ++ [some r]))
        | (s, .bad f) => (s, .bad f)
        | (s, .wait h) => (s, .wait h))
    | r => r

/-- The planes of a block as one number: row or column `j` of plane `q` at bit 128·(n·q + j), position `t` of it at bit t (R143). -/
def planesOf (n p : Nat) (codes : Array Nat) (at_ : Nat → Nat → Nat) : Nat :=
  packN 1 (fun i => fld (codes.getD (at_ (i / 128 % n) (i % 128)) 0) (i / (128 * n)) 1) (128 * n * p)

/-- PACK: plane block `b` (R146, R148, R163). -/
def execPack (c : Nat) (s : State) : Ans :=
  copyStep 3 c (fun k b _ s =>
    let fmt := k.f 196 192
    let p := k.f 202 197
    let opb := bit k.w.toNat 14
    let rows := k.f 191 184
    let len := k.f 183 160
    let cw := container fmt
    let count := Min.min 128 (len - 128 * b)
    let row := fun (i : Nat) =>
      if opb then (if i < count then some (k.a 32 + w64 (128 * b + i) * k.str 256, (rows * cw + 7) / 8) else none)
      else if i < rows then some (k.a 32 + w64 i * k.str 256 + w64 (16 * cw * b), (count * cw + 7) / 8) else none
    let next := if 128 * (b + 1) < len then some (b + 1, 0) else none
    match s.packRows c k row (if opb then 128 else 64) with
    | (s, .ok rs) =>
      let elems := fun (r : Option (Nat × Bool)) (n : Nat) => (List.range 128).map fun j =>
        match r with
        | some (v, _) => if j < n then some (fld v (cw * j) cw) else none
        | none => none
      let bads := (rs.map fun r => match r with | some (_, q) => q | none => false).toArray
      let dst := k.a 96 + w64 (b * blockSize opb p)
      let (header, planes, bad) : Nat × Nat × (Nat → Bool) :=
        if opb then
          let (sh, codes) := packBlock fmt p (rs.flatMap fun r => elems r rows)
          (sh, planesOf 128 p codes.toArray fun j t => 128 * t + j, fun _ => bads.any id)
        else
          let bl := rs.map fun r => packBlock fmt p (elems r count)
          let shifts := (bl.map (·.1)).toArray
          let codes := (bl.flatMap (·.2)).toArray
          (packN 8 (fun i => shifts.getD i 0) 64, planesOf 64 p codes fun i t => 128 * i + t,
            fun l => if l = 0 then bads.any id else (List.range 4).any fun j => bads.getD (4 * ((l - 1) % 16) + j) false)
      s.afterPiece c next
        (match s.engWrite c .copy k bad (s.plain c .copy) (1 + 32 * p) 0 dst (blockSize opb p) (header + planes * 2 ^ 512) with
        | (s, .ok _) => (s, .ok none)
        | (s, .bad f) => (s, .ok (some (k.failed 2 f)))
        | (s, .wait h) => (s, .wait h))
    | (s, .bad f) => s.afterPiece c next (s, .ok (some (k.failed 1 f)))
    | (t, .wait h) => .next ((s.keepHeld t).ckWant h)) s

/-! CPYS (R160, R161) -/

/-- The binding ends as SDROP ends it; a failure is noted (R161, R187). -/
def State.unfeed (s : State) (c : Nat) (k : Cmd) (fail : Bool) : State :=
  match s.feeds c k with
  | some h => s.modHolder h fun x => x.modSt (k.f 145 144) fun r => { r with src := none, last := false, fail := fail || r.fail }
  | none => s

/-- CPYS_ITEM: the next item enters the register while its buffer has room (R160, R161, R187). -/
def execCpysItem (c : Nat) (s : State) : Ans :=
  match s.head c .copy with
  | none => .next s
  | some k =>
    match k.phase with
    | .feeding i j =>
      if k.retire ∨ s.cutting c then .next s else
      match s.feeds c k with
      | none => .next (s.phase c .copy (.ran none))
      | some h =>
        let q := k.f 145 144
        if ¬ s.feedRoom h k then .next s else
        let ea := k.a 32 + k.str 256 * w64 i + w64 (8 * j)
        let fail := fun (s : State) (e : W64) => (s.unfeed c k true).phase c .copy (.ran (some e))
        if ea.toNat % 8 ≠ 0 then .next (fail s (k.error stPERM 0 1)) else
        match s.engRead c .copy k 5 1 ea 8 with
        | (s, .ok (v, p)) =>
          if p then .next (fail s (k.error 7 0 1)) else
          let lastItem := decide (8 * (j + 1) = k.f 127 96)
          let last := lastItem && decide (i + 1 = k.f 143 128)
          let s := s.modHolder h fun x => x.modSt q fun r => { r with items := r.items ++ [w64 v], last := last }
          .next (s.phase c .copy (if last then .ran none else if lastItem then .feeding (i + 1) 0 else .feeding i (j + 1)))
        | (s, .bad f) => .next (fail s (k.failed 1 f))
        | (t, .wait h) => .next ((s.keepHeld t).ckWant h)
    | _ => .next s

/-! Completion and errors (R151, R153, R155, R169, R170) -/

/-- The flag of a command incremented at its target, a release at the command's scope, once that may be (R151, R155). No increment is
performed on a poisoned flag: DESIGN CHOICE, R168 has no status for it (log entry 77). -/
def State.raiseFlag (s : State) (c : Nat) (k : Cmd) : State × Met Unit :=
  if ¬ k.fl then (s, .ok ()) else
  match s.engLine c .copy k k.flag 8 .rmw 2 with
  | (s, .ok key) => (if s.poisoned key 8 then s else s.writeAtomic key 8 (s.nat key 8 + 1) (s.releases c .copy k), .ok ())
  | (s, .bad f) => (s, .bad f)
  | (s, .wait h) => (s, .wait h)

/-- COPY_COMMAND_COMPLETE: the head, its body done, increments its flag, ends its stage copy and writes CPSEQ; or it writes CPERR and
stops the queue; or it is retired. What it releases must be visible first (R151, R153, R166, R169, R170, R314). -/
def execCopyCommandComplete (c : Nat) (s : State) : Ans :=
  match s.head c .copy with
  | none => .next s
  | some k =>
    let staged := (k.op == 1 || k.op == 3 || k.op == 6) && k.stg
    if k.retire && k.phase != .stopped then
      let s := if k.op = 2 then s.unfeed c k false else s.wsDrop (wsEngine c .copy)
      let s := if staged then s.modStage c k.stageIx Stage.settle else s
      .next (s.leave c .copy false)
    else if ¬ s.mayRelease c .copy k then .next s
    else match k.phase with
      | .stopped => .next (if k.retire then (if staged then s.modStage c k.stageIx Stage.settle else s).complete c .copy else s)
      | .ran (some e) => .next (if s.ckHold (pageKey k.g 0x18) then s.ckWant [pageKey k.g 0x18] else
          (s.write (pageKey k.g 0x18) 8 e.toNat (s.releases c .copy k)).phase c .copy .stopped)
      | .ran none =>
        if s.ckHold (pageKey k.g 0) then .next (s.ckWant [pageKey k.g 0]) else
        (match s.raiseFlag c k with
        | (s, .ok _) =>
          let s := if staged then s.modStage c k.stageIx fun t => Stage.settle { t with gen := t.gen + 1, filling := false } else s
          .next (s.complete c .copy)
        | (s, .bad f) => .next (s.phase c .copy (.ran (some (k.failed 3 f))))
        | (_, .wait h) => .next (s.ckWant h))
      | _ => .next s

/-- CPERR_CLEAR: a store of 0 to CPERR by the owning slot (R170). -/
def execCperrClear (g : Nat) (s : State) : Ans := .next (s.clearErr g .copy)

end Sys2Proof.Machine
end

