-- ==== Sys2Proof/Machine/Tiles.lean ====
section
/-! DEFINITION. Accumulator tiles: the record, contributions, the tile commands, and the microcode that every matrix command runs
under (R212 to R214, R225, R226, R231 to R249). -/
namespace Sys2Proof.Machine

/-! Status codes (R14) -/
def stCOMPLETE : Nat := 1
def stOVERLAP : Nat := 3
def stFRAGFULL : Nat := 4
def stRANGE : Nat := 5
def stSHAPE : Nat := 6
def stPOISON : Nat := 7
def stINCOMPLETE : Nat := 0x0B
def stSTAGE : Nat := 0x0C

/-! The microcode of the matrix unit (R213, R214) -/

/-- An error: MXERR is written with the command's release and the queue stops; it waits while what it releases is not visible yet (R213,
R226, R314, R346). -/
def State.matError (s : State) (c : Nat) (k : Cmd) (e : W64) : Met State :=
  if ¬ s.mayRelease c .matrix k then .wait []
  else if s.ckHold (pageKey k.g 0x10) then .wait [pageKey k.g 0x10]
  else .ok ((s.write (pageKey k.g 0x10) 8 e.toNat (s.releases c .matrix k)).phase c .matrix .stopped)

/-- The head has completed: MXSEQ is written with the command's release; it waits while what it releases is not visible yet (R213, R314,
R346). -/
def State.matDone (s : State) (c : Nat) (k : Cmd) : Met State :=
  if ¬ s.mayRelease c .matrix k then .wait []
  else if s.ckHold (pageKey k.g 8) then .wait [pageKey k.g 8]
  else .ok (s.complete c .matrix)

/-- The state that a matrix command's step leaves: what it did, or, where it waits, the state from before, in which the ranges it waits for
are wanted (R346). -/
def Met.orStay (s : State) : Met State → State
  | .ok t => t
  | .bad _ => s
  | .wait h => s.ckWant h

/-- The stages an MPASS has accepted fall out of use (R220 step 9). -/
def State.releaseStages (s : State) (c : Nat) (k : Cmd) : State :=
  let down := fun (t : Stage) => Stage.settle { t with inuse := t.inuse - 1 }
  let s := s.modStage c (k.f 34 32) down
  if bit k.w.toNat 38 then s else s.modStage c (k.f 37 35) down

/-- Whether the unit of cluster `cl` begins commands of an opcode: none once quarantined, but a TNEW for a fenced cluster's unit, which
reports PERM (R4, R344). -/
def State.unitBegins (s : State) (cl op : Nat) : Bool := ! (s.cluster cl).matrixQuarantined || ((s.cluster cl).fenced && op == 0x23)

/-- The head of core `c`'s matrix queue, of opcode `op`: retired if marked, else begun by `body` once it may; no command of a PREEMPTED slot
begins (R213, R214, R229, R344). One whose tile is dying goes on by `after` once every die has acknowledged (R288). -/
def matStep (op c : Nat) (body : Cmd → State → Met State) (s : State)
    (after : Cmd → Tile → Nat → State → Met State := fun _ _ _ _ => .wait []) : Ans :=
  match s.head c .matrix with
  | none => .next s
  | some k =>
    if k.op ≠ op then .next s
    else if k.retire then
      let s' := if k.accepted then s.releaseStages c k else s
      .next (if k.phase = .stopped then (s.matDone c k).orStay s else (s'.wsDrop (wsEngine c .matrix)).leave c .matrix false)
    else match k.phase with
      | .dying n t st =>
        if s.nameOps.any fun o => o.id == n && ! o.acks.isEmpty then .next s
        else .next ((after k t st { s with nameOps := s.nameOps.filter fun o => o.id != n }).orStay s)
      | _ =>
        if s.mayBegin c .matrix k ∧ (s.slot k.g).state ≠ .preempted ∧ s.unitBegins (clusterOf c) op
        then .next ((body k (s.beginCmd c .matrix k)).orStay s) else .next s

/-- A result word (R225). -/
def Cmd.result (k : Cmd) (status note : Nat) : Nat := status + note * 2 ^ 8 + bits k.w.toNat 31 24 * 2 ^ 16 + k.seq.toNat % 2 ^ 32 * 2 ^ 32
/-- A report address checked before anything changes: alignment, tag, the whole extent it would write; PERM, XLATE or TOKEN with
opnd 6 (R241). -/
def State.checkRs (s : State) (c : Nat) (k : Cmd) (rs : W64) (align n : Nat) : State × Met Unit :=
  if rs.toNat % align ≠ 0 then (s, .bad (permFault rs 1 false)) else s.engCheck c k .write (n / 64 + 2) rs n

/-- A checked command goes on; what an access meets is the error of operand `opnd`, and a hold tries again (R241). -/
def orError (c : Nat) (k : Cmd) (opnd : Nat) (r : State × Met α) (go : State → α → Met State) : Met State :=
  match r with
  | (t, .ok a) => go t a
  | (t, .bad f) => t.matError c k (k.failed opnd f)
  | (_, .wait h) => .wait h

/-- A part of a report: an offset from `rs`, bytes, value, and the lines written as poisoned. -/
abbrev Part : Type := Nat × Nat × Nat × (Nat → Bool)
/-- Parts of a report written in order (R240). -/
def State.parts (s : State) (c : Nat) (k : Cmd) (rs : W64) (ps : List Part) : State × Met Unit :=
  ps.foldl (fun (r : State × Met Unit) (p : Part) => match r with
    | (s, .ok _) => s.engWrite c .matrix k p.2.2.2 (s.plain c .matrix) (p.2.1 / 64 + 2) 0 (rs + w64 p.1) p.2.1 p.2.2.1
    | r => r) (s, .ok ())
/-- The end of a tile command: its parts of the report, then the result word with the command's release, then MXSEQ. `rs` = 0 asks for no
report, but TREAD's, which R244 gives no such meaning (R213, R240, R243 to R245). -/
def State.report (s : State) (c : Nat) (k : Cmd) (rs : W64) (status : Nat) (ps : List Part) : Met State :=
  if ¬ s.mayRelease c .matrix k then .wait [] else
  if rs = 0 ∧ k.op ≠ 0x25 then s.matDone c k else
  orError c k 6 (s.parts c k rs ps) fun s _ =>
  orError c k 6 (s.engWriteLine c .matrix k rs 8 (k.result status 0) false (s.releases c .matrix k)) fun s _ => s.matDone c k

/-- No line of a part is poisoned. -/
def clean : Nat → Bool := fun _ => false

/-! The record (R233, R234) -/

/-- The state of a live tile: OPEN or COMPLETE (R234). -/
def Tile.state (t : Tile) : Nat := if t.frags = [(0, t.k)] then 1 else 0
/-- A tile's record with a state (R233). -/
def Tile.record (t : Tile) (state : Nat) : Nat :=
  t.k + state * 2 ^ 32 + t.frags.length * 2 ^ 35 + b2n t.int * 2 ^ 38 + t.m * 2 ^ 40 + t.n * 2 ^ 47 + t.accepted.toNat * 2 ^ 64 +
    t.refused.toNat * 2 ^ 96 + t.frags.zipIdx.foldl (fun n (f, i) => n + (f.1 + f.2 * 2 ^ 32) * 2 ^ (128 + 64 * i)) 0
/-- The blocks of 512 bytes a tile takes (R231). -/
def tileBlocks (m n : Nat) : Nat := (m + 7) / 8 * ((n + 15) / 16)

/-! Contributions (R235 to R238) -/

/-- The fragments with [lo, hi) among them, merged with those that touch it (R235). -/
def addFrag (lo hi : Nat) : List (Nat × Nat) → List (Nat × Nat)
  | [] => [(lo, hi)]
  | (a, b) :: l =>
    if b < lo then (a, b) :: addFrag lo hi l
    else if hi < a then (lo, hi) :: (a, b) :: l
    else addFrag (Min.min a lo) (Max.max b hi) l
/-- How many positions of [lo, hi) fragments cover. -/
def coveredIn (lo hi : Nat) (l : List (Nat × Nat)) : Nat := l.foldl (fun n f => n + (Min.min f.2 hi - Max.max f.1 lo)) 0

/-- Checks 2 to 7 for a contribution of shape (m, n): the first that fails, or the new fragments (R235). -/
def Tile.decide (t : Tile) (m n : Nat) (int : Bool) (lo hi : Nat) (poisoned : Bool) : Except Nat (List (Nat × Nat)) :=
  let c := coveredIn lo hi t.frags
  let f := addFrag lo hi t.frags
  if m ≠ t.m ∨ n ≠ t.n ∨ int ≠ t.int then .error stSHAPE
  else if hi ≤ lo ∨ t.k < hi then .error stRANGE
  else if c = hi - lo then .error stDUP
  else if 0 < c then .error stOVERLAP
  else if poisoned then .error stPOISON
  else if 6 < f.length then .error stFRAGFULL
  else .ok f

/-- One more, saturating (R233). -/
def bump (n : W32) : W32 := if n = 0xFFFFFFFF then n else n + 1

/-- A tile with a contribution decided: status and tile; `add` is what the contribution makes of an element (R235, R237, R238). -/
def Tile.take (t : Tile) (m n : Nat) (int : Bool) (lo hi : Nat) (poisoned : Bool) (add : Nat → W32 → W32) (obs : List Nat) : Tile × Nat :=
  match t.decide m n int lo hi poisoned with
  | .error st => ({ t with refused := bump t.refused }, st)
  | .ok f =>
    let elems := (List.range t.m).foldl (fun e i => (List.range t.n).foldl (fun e j =>
      e.set 0 (128 * i + j) (add (128 * i + j) (e.get 0 (128 * i + j)))) e) t.elems
    let t := { t with frags := f, accepted := bump t.accepted, elems := elems, obs := union t.obs obs }
    (t, if t.state = 1 then stCOMPLETE else stOK)

/-- A tile of a unit changed. -/
def State.modTile (s : State) (cl : Nat) (nm : W128) (f : Tile → Tile) : State :=
  s.modCluster cl fun k => { k with tiles := k.tiles.map fun t => if t.name = nm then f t else t }
/-- The tile of a name at its unit. -/
def State.tile (s : State) (nm : W128) : Option Tile := (s.cluster (nmCluster nm)).tiles.find? fun t => t.name == nm

/-- A tile's name as cluster `cl` resolves it for a context: the status, the tile on OK (R232, R235 check 0). -/
def State.findTile (s : State) (cl : Nat) (ctx : BitVec 16) (nm : W128) : State × Nat × Option Tile :=
  match s.resolve cl ctx nm 1 with
  | (s, st, _) => if st ≠ stOK then (s, st, none) else match s.tile nm with
    | some t => (s, stOK, some t)
    | none => (s, stGONE, none)

/-- A contribution at the unit of its tile, decided and added (R235). -/
def State.contribute (s : State) (cl : Nat) (ctx : BitVec 16) (nm : W128) (shape : Option (Nat × Nat)) (int : Bool) (lo hi : Nat) (poisoned : Bool)
    (add : Nat → W32 → W32) (obs : List Nat) : State × Nat :=
  match s.findTile cl ctx nm with
  | (s, _, some t) =>
    let (m, n) := shape.getD (t.m, t.n)
    let (t, st) := t.take m n int lo hi poisoned add obs
    (s.modTile (nmCluster nm) nm fun _ => t, st)
  | (s, st, none) => (s, st)

/-- FP32 and INT32 sums of an element (R237). -/
def addFp (a b : W32) : W32 := BitVec.ofNat 32 (flEnc fp32 0 (flAdd (flDec fp32 a.toNat) (flDec fp32 b.toNat)))
def addInt (a : W32) (d : Int) : W32 := BitVec.ofInt 32 (clampInt (a.toInt + d) (-2 ^ 31) (2 ^ 31 - 1))

/-! The tile commands -/

/-- A tile made in the unit of cluster `cl`: PERM in a fenced cluster, FULL where tiles, blocks or serials are used up; it waits while the unit's
memory has still to be streamed (R4, R231, R242, R346). -/
def State.newTile (s : State) (cl : Nat) (ctx : BitVec 16) (m n k : Nat) (int : Bool) : Met (State × Except Nat W128) :=
  let tiles := (s.cluster cl).tiles
  if (s.cluster cl).fenced then .ok (s, .error stPERM)
  else if s.accHold cl then .wait ((accRanges cl).map rangeKey)
  else if 256 ≤ tiles.length ∨ 8192 < tiles.foldl (fun a t => a + tileBlocks t.m t.n) 0 + tileBlocks m n then .ok (s, .error stFULL) else
  match s.newName (cl / 32) 1 cl cl ctx 0 with
  | .wait h => .wait h
  | .bad _ => .ok (s, .error stFULL)
  | .ok (s, none) => .ok (s, .error stFULL)
  | .ok (s, some nm) => .ok (s.modCluster cl fun x => { x with tiles := x.tiles ++ [⟨nm, ctx, m, n, k, int, [], 0, 0, [], [], []⟩] }, .ok nm)

/-- TNEW (R242). -/
def execTnew (c : Nat) (s : State) : Ans :=
  matStep 0x23 c (fun k s =>
    let cl := clusterOf c
    let rs := k.a 128
    let m := k.f 38 32
    let n := k.f 46 39
    if ¬ (plainTag rs || tagOf rs == 8) then s.matError c k (k.error stPERM 0 6) else
    orError c k 6 (s.checkRs c k rs 32 32) fun s _ =>
    match s.newTile cl k.ctx m n (k.f 95 64) (bit k.w.toNat 47) with
    | .wait h => .wait h
    | .bad f => .bad f
    | .ok (s, .error st) => s.report c k rs st [(8, 8, 0, clean)]
    | .ok (s, .ok nm) => s.report c k rs stOK [(8, 8, 0, clean), (16, 16, nm.toNat, clean)]) s

/-- The name of a head's tile dies, as under a synchronous NKILL: its elements are lost, its blocks are free, and the command waits until
every die that may cache the name has acknowledged (R243 to R245, R288). -/
def State.tileDies (s : State) (c : Nat) (k : Cmd) (nm : W128) (t : Tile) (st : Nat) : State :=
  let op : NameOp := ⟨s.nextId, Config.slots, clusterOf c, c, k.ctx, .nkill true, nm, 0, 0, .relaxed, .none, false, [], [], [], some (w64 stOK)⟩
  (({ s with nextId := s.nextId + 1, nameOps := s.nameOps ++ [op] } : State).nameDies (nmSerial nm) (some s.nextId) none).phase c .matrix (.dying s.nextId t st)

/-- A matrix queue observes and acquires what a tile's contributions released (R247). -/
def State.tookTile (s : State) (c : Nat) (t : Tile) : State :=
  s.modQueue c .matrix fun q => { q with obs := union q.obs t.obs, hb := union q.hb t.obs }

/-- TFWD: a complete tile of this unit on its way to its target as one contribution; the source's death at its end (R243). -/
def execTfwd (c : Nat) (s : State) : Ans :=
  matStep 0x24 c (fun k s =>
    let cl := clusterOf c
    let rs := k.a 64
    let src : W128 := BitVec.ofNat 128 (k.f 255 128)
    let dst : W128 := BitVec.ofNat 128 (k.f 383 256)
    orError c k 6 (if rs = 0 then (s, .ok ()) else s.checkRs c k rs 8 8) fun s _ =>
    match s.findTile cl k.ctx src with
    | (s, st, none) => s.report c k rs st []
    | (s, _, some t) =>
      if nmCluster src ≠ cl then s.report c k rs stPERM []
      else if t.state = 0 then s.report c k rs stINCOMPLETE []
      else
        let s := s.tookTile c t
        if nmModule dst ≠ s.durable.module.toNat ∧ ¬ s.reachable (cl / 32) s.nextId (nmModule dst) then s.report c k rs stPERM [] else
        let q : Contrib := ⟨s.nextId, c, dst, k.ctx, k.f 63 32, k.f 63 32 + t.k, t.m, t.n, t.int, t.elems, ! t.bad.isEmpty, (s.queue c .matrix).obs, none⟩
        .ok (({ s with contribs := s.contribs ++ [q], nextId := s.nextId + 1 } : State).phase c .matrix (.forwarding s.nextId))) s
    fun k _ st s => s.report c k (k.a 64) st []

/-- Whether contributions that one cluster sent to the unit of `q` before it have still to arrive there (R106, R236). -/
def State.contribAhead (s : State) (q : Contrib) : Bool :=
  s.contribs.any fun r => decide (r.id < q.id) && r.status.isNone && clusterOf r.core == clusterOf q.core &&
    nmModule r.nm == nmModule q.nm && nmCluster r.nm == nmCluster q.nm

/-- A contribution has been decided: its status is on the way back (R243). -/
def State.decided (s : State) (n st : Nat) : State :=
  { s with contribs := s.contribs.map fun r => if r.id = n then { r with status := some (BitVec.ofNat 8 st) } else r }

/-- CONTRIBUTION_ARRIVAL: a forwarded contribution at the unit of its target, in the order sent, once what it releases is visible; another
module decides there (log entry 1), and PERM is the status where it is not reachable any more (R106, R235, R236, R243, R246). -/
def execContributionArrival (n : Nat) (s : State) : Ans :=
  match s.contribs.find? fun q => q.id == n && q.status.isNone with
  | none => .next s
  | some q =>
    if ¬ s.settled q.obs ∨ s.contribAhead q then .next s else
    if nmModule q.nm ≠ s.durable.module.toNat then
      if ¬ s.reachable (clusterOf q.core / 32) q.id (nmModule q.nm) then .next (s.decided n stPERM) else
      let (v, s) := s.free
      .next (s.decided n (v.toNat % 10))
    else if s.accHold (nmCluster q.nm) then .next (s.wantRanges (accRanges (nmCluster q.nm))) else
      let add := fun (i : Nat) (e : W32) => if q.int then addInt e (q.vals.get 0 i).toInt else addFp e (q.vals.get 0 i)
      let (s, st) := s.contribute (nmCluster q.nm) q.ctx q.nm (some (q.m, q.n)) q.int q.lo q.hi q.poisoned add q.obs
      .next (s.decided n st)

/-- TFWD_STATUS_RETURN: the source dies if asked and the target holds the interval; the status is reported (R243). -/
def execTfwdStatusReturn (n : Nat) (s : State) : Ans :=
  match s.contribs.find? fun q => q.id == n with
  | none => .next s
  | some q =>
    match q.status with
    | none => .next s
    | some st =>
      let t : State := { s with contribs := s.contribs.filter fun r => r.id != n }
      match t.head q.core .matrix with
      | none => .next t
      | some k =>
        if k.phase ≠ .forwarding n then .next t else
        let src : W128 := BitVec.ofNat 128 (k.f 255 128)
        match if bit k.w.toNat 12 ∧ st.toNat ≤ 2 then t.tile src else none with
        | some x => .next (t.tileDies q.core k src x st.toNat)
        | none => .next ((t.report q.core k (k.a 64) st.toNat []).orStay s)

/-- The type of TREAD's data: 0 as held, 1 BF16, 2 FP16 (R244). -/
def readElem (fmt : Nat) (e : W32) (int : Bool) : Nat :=
  if int then e.toNat
  else match fmt with
    | 0 => e.toNat
    | 1 => flEnc (fmtOf .bf16) 0 (flDec fp32 e.toNat)
    | _ => flEnc (fmtOf .fp16) 0 (flDec fp32 e.toNat)

/-- The rest of a block whose fields are zero (R240). -/
def zeros : Part := (8, 56, 0, clean)

/-- TREAD: the data; a tile that it retires dies, and then the record and the result follow (R244, R247, R340). -/
def execTread (c : Nat) (s : State) : Ans :=
  matStep 0x25 c (fun k s =>
    let rs := k.a 160
    let nm : W128 := BitVec.ofNat 128 (k.f 159 32)
    let fmt := k.f 225 224
    orError c k 6 (s.checkRs c k rs 64 128) fun s _ =>
    match s.findTile (clusterOf c) k.ctx nm with
    | (s, st, none) => s.report c k rs st [zeros]
    | (s, _, some t) =>
      let es := if fmt = 0 then 4 else 2
      let pp := if k.f 255 232 = 0 then t.n * es else k.f 255 232
      if t.state = 0 then s.report c k rs stINCOMPLETE [zeros, (64, 64, t.record 0, clean)]
      else if (t.int ∧ fmt ≠ 0) ∨ pp < t.n * es then s.report c k rs stSHAPE [zeros]
      else
        let ext := (t.m - 1) * pp + t.n * es
        orError c k 6 (s.engCheck c k .write (ext / 64 + 2) (rs + 128) ext) fun s _ =>
        let s := s.tookTile c t
        let row : Nat → Part := fun (i : Nat) =>
          let v := packN (8 * es) (fun j => readElem fmt (t.elems.get 0 (128 * i + j)) t.int) t.n
          let first := 128 + i * pp
          (first, t.n * es, v, fun l => t.bad.any fun e => e / 128 == i && (rs.toNat + first + e % 128 * es) / 64 == (rs.toNat + first) / 64 + l)
        orError c k 6 (s.parts c k rs (zeros :: (List.range t.m).map row)) fun s _ =>
        if bit k.w.toNat 12 then .ok (s.tileDies c k nm t stOK) else s.report c k rs stOK [(64, 64, t.record 1, clean)]) s
    fun k t st s => s.report c k (k.a 160) st [(64, 64, t.record 3, clean)]

/-- TABANDON and TSTAT up to their report: what a live tile's holder does (R245). -/
def recordCommand (c : Nat) (k : Cmd) (s : State) (live : State → W128 → Tile → Met State) : Met State :=
  let rs := k.a 160
  let nm : W128 := BitVec.ofNat 128 (k.f 159 32)
  orError c k 6 (if rs = 0 then (s, .ok ()) else s.checkRs c k rs 64 128) fun s _ =>
  match s.findTile (clusterOf c) k.ctx nm with
  | (s, st, none) => s.report c k rs st [zeros]
  | (s, _, some t) => live s nm t

/-- TABANDON (R245). -/
def execTabandon (c : Nat) (s : State) : Ans :=
  matStep 0x26 c (fun k s => recordCommand c k s fun s nm t => .ok (s.tileDies c k nm t stOK)) s
    fun k t st s => s.report c k (k.a 160) st [zeros, (64, 64, t.record 2, clean)]
/-- TSTAT (R245). -/
def execTstat (c : Nat) (s : State) : Ans :=
  matStep 0x27 c (fun k s => recordCommand c k s fun s _ t => s.report c k (k.a 160) stOK [zeros, (64, 64, t.record t.state, clean)]) s

end Sys2Proof.Machine
end

