-- ==== Sys2Proof/Machine/Matrix.lean ====
section
/-! DEFINITION. The matrix unit: format context, stages, MPASS, the pass array with its permits, pre-emption and replay (R212 to
R230, R273, R343). -/
namespace Sys2Proof.Machine

/-! The format context (R216, R217) -/

/-- Whether a context block agrees with fa, fb, pa, pb, acc in the 23 bits of `want`, and is well formed (R216). -/
def fmtBlockOk (b want : Nat) : Bool :=
  bits b 22 0 == want && (bit b 23 || bits b 25 24 == 0) && bits b 63 26 == 0 && bits b 511 192 == 0 &&
    (bit b 22 || (bits b 69 64 == 0 && bits b 133 128 == 0))

/-- A context block read at `ea` for a command: the block, or its error (R216, R217). -/
def State.readFmt (s : State) (c : Nat) (k : Cmd) (ea : W64) (want : Nat) : State × Met (Except W64 W512) :=
  if ea.toNat % 64 ≠ 0 ∨ ¬ (plainTag ea || tagOf ea == 8) then (s, .ok (.error (k.error stPERM 0 1))) else
  match s.engRead c .matrix k 7 1 ea 64 with
  | (s, .ok (v, p)) => (s, .ok (if p then .error (k.error stPOISON 0 1) else if fmtBlockOk v want then .ok (BitVec.ofNat 512 v) else .error (k.error stSHAPE 0 1)))
  | (s, .bad f) => (s, .ok (.error (k.failed 1 f)))
  | (s, .wait h) => (s, .wait h)

/-- MCTX (R216). -/
def execMctx (c : Nat) (s : State) : Ans :=
  matStep 0x20 c (fun k s =>
    let want := bits k.w.toNat 100 96 + bits k.w.toNat 105 101 * 2 ^ 5 + bits k.w.toNat 111 106 * 2 ^ 10 + bits k.w.toNat 117 112 * 2 ^ 16 +
      bits k.w.toNat 118 118 * 2 ^ 22
    match s.readFmt c k (k.a 32) want with
    | (s, .ok (.ok b)) =>
      let f : FmtCtx := ⟨s.canon c (k.a 32), b, k.ctx, k.g, false⟩
      (s.modCore c fun x => { x with fmt := some f }).matDone c k
    | (s, .ok (.error e)) => s.matError c k e
    | (_, .bad f) => .bad f
    | (_, .wait h) => .wait h) s

/-! Stages (R218) -/

/-- Whether the region of a new stage of core `c` lies in one program area of its cluster, or in the weight store (R218). -/
def State.regionOk (s : State) (c : Nat) (base : W64) (size : Nat) : Bool :=
  let a := s.canon c base
  addrOk (isSup c) base && base.toNat % 64 == 0 &&
    match tagOf a with
    | 2 => clusterOf (lCore a) == clusterOf c && decide (lOff a + size ≤ 0x24000)
    | 5 => decide (fld a.toNat 0 29 + size ≤ 2 ^ 29)
    | _ => false

/-- MSTG (R218). -/
def execMstg (c : Nat) (s : State) : Ans :=
  matStep 0x21 c (fun k s =>
    let i := k.f 34 32
    let opb := bit k.w.toNat 35
    let opnd := if opb then 3 else 2
    let t : Stage := ⟨true, opb, s.canon c (k.a 64), k.f 143 128, k.f 149 144, BitVec.ofNat 32 (k.f 191 160), BitVec.ofNat 16 (k.f 207 192), k.ctx, 0,
      false, false⟩
    let clr := bit k.w.toNat 36
    if ! clr && ! s.regionOk c (k.a 64) t.size then s.matError c k (k.error stPERM 0 opnd)
    else if (s.stage c i).filling then s.matError c k (k.error stSTAGE 0 opnd)
    else (s.modStage c i fun _ => if clr then Stage.reset else t).matDone c k) s

/-! MPASS: steps 1 to 6 (R219, R220) -/

/-- Fields of a context block. -/
def FmtCtx.pa (f : FmtCtx) : Nat := bits f.blk.toNat 15 10
def FmtCtx.pb (f : FmtCtx) : Nat := bits f.blk.toNat 21 16
def FmtCtx.int (f : FmtCtx) : Bool := bit f.blk.toNat 22
/-- The skip-list register. -/
def FmtCtx.q (f : FmtCtx) : Nat := bits f.blk.toNat 25 24
def FmtCtx.scaleA (f : FmtCtx) : W64 := w64 (bits f.blk.toNat 127 64)
def FmtCtx.scaleB (f : FmtCtx) : W64 := w64 (bits f.blk.toNat 191 128)

/-- Fields of an MPASS. -/
def Cmd.bws (k : Cmd) : Bool := bit k.w.toNat 38
def Cmd.len (k : Cmd) : Nat := k.f 159 128 - k.f 127 96
/-- The interval blocks of an MPASS (R220). -/
def Cmd.blocks (k : Cmd) : Nat := (k.f 183 160 % 128 + k.len + 127) / 128
def Cmd.tileName (k : Cmd) : W128 := BitVec.ofNat 128 (k.f 383 256)

/-- What an MPASS reads of B: the address of its first plane block, its scale index, its blocks (R219, R220). -/
def State.opndB (s : State) (c : Nat) (k : Cmd) (pb : Nat) : W64 × Nat × Nat :=
  if k.bws then (mkAddr 5 (k.f 415 384), k.f 447 416, (2 ^ 29 - k.f 415 384) / blockSize true pb)
  else let t := s.stage c (k.f 37 35); (t.base, t.sidx.toNat, t.nb)

/-- Rights to read the `n` bytes at `ea`, whole lines of an operand in local memory or in the weight store: each line is an access of its
own (R129, R134, R144). -/
def State.opndOk (s : State) (c : Nat) (k : Cmd) (ea : W64) (n : Nat) : Bool :=
  let d := s.protSet (clusterOf c) k.ctx
  let a := s.canon c ea
  (List.range (n / 64)).all fun i =>
    if tagOf a = 2 then s.localOk k.g d 0 (a + w64 (64 * i)) 64
    else ! s.wsClosing (dieOf c) && s.wsReadable (dieOf c) k.ctx d (a + w64 (64 * i)) 64

/-- Step 6: the rights on every byte the blocks use (R145, R220); none of the scales with acc = 1. -/
def State.rights (s : State) (c : Nat) (k : Cmd) (f : FmtCtx) : State × Met (Option W64) :=
  let a := s.stage c (k.f 34 32)
  let (b, sidxB, _) := s.opndB c k f.pb
  let ba := k.f 183 160 / 128
  let bb := k.f 207 184 / 128
  let nt := k.blocks
  let asz := blockSize false f.pa
  let bsz := blockSize true f.pb
  if ¬ s.opndOk c k (a.base + w64 (ba * asz)) (nt * asz) then (s, .ok (some (k.error stPERM 0 2)))
  else if ¬ s.opndOk c k (b + w64 (bb * bsz)) (nt * bsz) then (s, .ok (some (k.error stPERM 0 3)))
  else if f.int then (s, .ok none)
  else match s.engCheck c k .read (4 * nt + 2) (f.scaleA + w64 (256 * (a.sidx.toNat + ba))) (256 * nt) with
    | (s, .ok _) => (match s.engCheck c k .read (nt / 16 + 2) (f.scaleB + w64 (4 * (sidxB + bb))) (4 * nt) with
      | (s, .ok _) => (s, .ok none)
      | (s, .bad e) => (s, .ok (some (k.failed 5 e)))
      | (s, .wait h) => (s, .wait h))
    | (s, .bad e) => (s, .ok (some (k.failed 4 e)))
    | (s, .wait h) => (s, .wait h)

/-- The end of an MPASS with an outcome: the result word, MXSEQ (R213, R219, R225). -/
def State.endPass (s : State) (c : Nat) (k : Cmd) (status note : Nat) : Met State :=
  let rs := k.a 448
  if ¬ s.mayRelease c .matrix k then .wait []
  else if rs = 0 then s.matDone c k
  else if rs.toNat % 8 ≠ 0 ∨ 2 < tagOf rs then s.matError c k (k.error stPERM 0 6)
  else
    orError c k 6 (s.engWriteLine c .matrix k rs 8 (k.result status note) false (s.releases c .matrix k)) fun s _ => s.matDone c k

/-- A stage that an MPASS may be accepted against (R167, R220 step 2). -/
def Stage.accepts (t : Stage) (gen : Nat) : Bool := t.reg && ! t.filling && t.gen.toNat == gen

/-- The context in force for an MPASS that begins: read again after a KSYNC of its block; a read that fails is SHAPE, or POISON (R217). -/
def State.freshFmt (s : State) (c : Nat) (k : Cmd) : State × Met (Except W64 (Option FmtCtx)) :=
  match (s.core c).fmt with
  | none => (s, .ok (.ok none))
  | some f =>
    if ¬ f.stale then (s, .ok (.ok (some f))) else
    match s.readFmt c { k with ctx := f.ctx } f.addr (bits f.blk.toNat 22 0) with
    | (s, .ok (.ok b)) =>
      let f := { f with blk := b, stale := false }
      (s.modCore c fun x => { x with fmt := some f }, .ok (.ok (some f)))
    | (s, .ok (.error e)) => (s.modCore c fun x => { x with fmt := none }, .ok (.error (if fld e.toNat 0 8 = stPOISON then e else k.error stSHAPE 0 1)))
    | (s, .bad e) => (s, .bad e)
    | (s, .wait h) => (s, .wait h)

/-- Whether the register that an MPASS takes its items from is bound, or has items left of a binding that failed (R161, R222). -/
def State.skipBound (s : State) (c : Nat) (k : Cmd) (q : Nat) : Bool :=
  match (s.pusher c k).bind s.holder with
  | some (_, x) => (x.st q).src.isSome || ! (x.st q).items.isEmpty
  | none => false

/-- MPASS up to its first pass: steps 1 to 6 of R220; a command that is to be retired is retired. -/
def execMpass (c : Nat) (s : State) : Ans :=
  matStep 0x22 c (fun k s =>
    let cl := clusterOf c
    match s.freshFmt c k with
    | (_, .bad f) => .bad f
    | (_, .wait h) => .wait h
    | (s, .ok (.error e)) => s.matError c k e
    | (s, .ok (.ok none)) => s.endPass c k stSHAPE 0
    | (s, .ok (.ok (some f))) =>
      if f.ctx ≠ k.ctx ∨ (bit k.w.toNat 39 ∧ ¬ bit f.blk.toNat 23) then s.endPass c k stSHAPE 0 else
      let a := s.stage c (k.f 34 32)
      let b := s.stage c (k.f 37 35)
      if ! a.accepts (k.f 63 48) || ! (k.bws || b.accepts (k.f 79 64)) then s.endPass c k stSTAGE 0 else
      let shape := ! a.opb && a.planes == f.pa && (k.bws || (b.opb && b.planes == f.pb))
      if ! shape then s.endPass c k stSHAPE 0 else
      match s.findTile cl k.ctx k.tileName with
      | (s, st, none) => s.endPass c k st 0
      | (s, _, some t) =>
        let (_, _, nbB) := s.opndB c k f.pb
        if nmCluster k.tileName ≠ cl then s.endPass c k stPERM 0
        else if t.int ≠ f.int then s.endPass c k stSHAPE 0
        else if k.f 159 128 ≤ k.f 127 96 ∨ t.k < k.f 159 128 then s.endPass c k stRANGE 0
        else if a.nb * 128 < k.f 183 160 + k.len then s.matError c k (k.error stPERM 0 2)
        else if nbB * 128 < k.f 207 184 + k.len then s.matError c k (k.error stPERM 0 3)
        else match s.rights c k f with
          | (s, .ok (some e)) => s.matError c k e
          | (s, .ok none) =>
            let up := fun (t : Stage) => { t with inuse := t.inuse + 1 }
            let s := s.modStage c (k.f 34 32) up
            let s := if k.bws then s else s.modStage c (k.f 37 35) up
            .ok (s.phase c .matrix (.passing ⟨0, k.blocks, [], [], false, 0, 0, s.skipBound c k f.q, false, [], [], false, false, false⟩))
          | (_, .bad f) => .bad f
          | (_, .wait h) => .wait h) s

/-! Blocks (R221 to R224) -/

/-- The skip list's word on the next block: passed, skipped, or none while an item is awaited; an item is taken from the register of the
task that pushed the command, and with that gone its binding has ended (R222, R255). -/
def State.skipItems (s : State) (c : Nat) (k : Cmd) (q : Nat) : Nat → MpRun → State × MpRun × Option Bool
  | 0, r => (s, r, none)
  | n + 1, r =>
    let used := fun (r : MpRun) (v : W64) => { r with skipLeft := fld v.toNat 0 32, runLeft := fld v.toNat 32 32, kept := r.kept ++ [v] }
    if 0 < r.skipLeft then (s, { r with skipLeft := r.skipLeft - 1 }, some false)
    else if 0 < r.runLeft then (s, { r with runLeft := r.runLeft - 1 }, some true)
    else match r.replay with
      | v :: l => s.skipItems c k q n (used { r with replay := l } v)
      | [] =>
        if r.ended then (s, r, some true) else
        match s.skipNeeds c k r, s.pusher c k with
        | some (v :: _), some h =>
          let s := s.modHolder h fun x => x.modSt q (·.take 1)
          s.skipItems c k q n (used { r with bound := true, ended := ! s.skipBound c k q } v)
        | some [], _ => (s, r, none)
        | _, _ => (s, { r with ended := true }, some true)

/-- Those of `n` lines from `ea` that are needed, and whether one was poisoned; 0 for the others. -/
def State.readLines (s : State) (c : Nat) (k : Cmd) (ea : W64) (need : Nat → Bool) : Nat → State × Met (List Nat × Bool)
  | 0 => (s, .ok ([], false))
  | n + 1 =>
    match s.readLines c k ea need n with
    | (s, .ok (l, p)) =>
      if ¬ need n then (s, .ok (l ++ [0], p)) else
      (match s.engRead c .matrix k 7 2 (ea + w64 (64 * n)) 64 with
      | (s, .ok (v, q)) => (s, .ok (l ++ [v], p || q))
      | (s, .bad f) => (s, .bad f)
      | (s, .wait h) => (s, .wait h))
    | r => r

/-- The code of position `x` of row or column `i` from the planes in lines, `w` lines a plane (R142, R143). -/
def codeAt (fmt p w : Nat) (lines : Array Nat) (i x : Nat) : Int :=
  let b := fun (j : Nat) => fld (lines.getD (w * j + i / 4) 0) (128 * (i % 4) + x) 1
  match planeKind fmt with
  | 0 => (List.range p).foldl (fun n j => n + 2 ^ j * b j) (0 : Nat)
  | 1 => (BitVec.ofNat p ((List.range p).foldl (fun n j => n + 2 ^ j * b j) 0)).toInt
  | _ => 2 * b 0 - 1

/-- The promotion of one block's dot product: P + rne32(rne32(dot · 2^(sA + sB)) · rne32(sa · sb)) (R13, R224). -/
def promote (old : W32) (dot : Int) (sA sB : Int) (sa sb : Nat) : W32 :=
  let nan := decide (sA = -127 ∨ sB = -127)
  let v := flEnc fp32 0 (.fin (decide (dot < 0)) dot.natAbs (sA + sB))
  let w := flEnc fp32 0 (flMul (flDec fp32 sa) (flDec fp32 sb))
  let p := if nan then flNan fp32 else flEnc fp32 0 (flMul (flDec fp32 v) (flDec fp32 w))
  addFp old (BitVec.ofNat 32 p)

/-- What a block of an MPASS comes to. -/
inductive Block where
  /-- it waits for a refresh window -/
  | wait (keys : List Nat)
  /-- skipped without a pass; the run after it -/
  | skip (r : MpRun)
  /-- passed; the run after it -/
  | pass (r : MpRun)
  /-- the command ends with SHAPE (R224) -/
  | shape
  /-- an access failed -/
  | error (e : W64)

/-- The four reads of a block that is not on the skip list: headers, planes and scales; `go` takes shifts, planes, scales and the
poison met, `skip` the poison of shifts that skip it (R224, R340). -/
def State.blockReads (s : State) (c : Nat) (k : Cmd) (f : FmtCtx) (t : Nat)
    (go : State → (Nat → Int) → Int → Array Nat → Array Nat → Array Nat → Nat → Bool → State × Block) (skip : State → Bool → State × Block) : State × Block :=
  let a := s.stage c (k.f 34 32)
  let (b0, sidxB, _) := s.opndB c k f.pb
  let ba := k.f 183 160 / 128 + t
  let bb := k.f 207 184 / 128 + t
  let ea := a.base + w64 (ba * blockSize false f.pa)
  let eb := b0 + w64 (bb * blockSize true f.pb)
  let step := fun {α : Type} (opnd : Nat) (r : State × Met α) (k' : State → α → State × Block) => match r with
    | (s, .ok v) => k' s v
    | (s, .bad e) => (s, Block.error (k.failed opnd e))
    | (s, .wait h) => (s, Block.wait h)
  step 2 (s.engRead c .matrix k 7 2 ea 64) fun s (ha, p1) =>
  step 3 (s.engRead c .matrix k 7 2 eb 64) fun s (hb, p2) =>
  let sA := fun (i : Nat) => (BitVec.ofNat 8 (fld ha (8 * i) 8)).toInt
  let sB := (BitVec.ofNat 8 hb).toInt
  let rows := fun (l : Nat) => (List.range 4).any fun j => sA (4 * (l % 16) + j) != -128
  if sB = -128 ∨ (List.range 64).all (fun i => sA i == -128) then skip s (p1 || p2) else
  step 2 (s.readLines c k (ea + 64) rows (16 * f.pa)) fun s (la, p3) =>
  step 3 (s.readLines c k (eb + 64) (fun _ => true) (32 * f.pb)) fun s (lb, p4) =>
  if f.int then go s sA sB la.toArray lb.toArray #[] 0 (p1 || p2 || p3 || p4) else
  let scRows := fun (l : Nat) => (List.range 16).any fun j => sA (16 * l + j) != -128
  step 4 (s.readLines c k (f.scaleA + w64 (256 * (a.sidx.toNat + ba))) scRows 4) fun s (sl, p5) =>
  step 5 (s.engRead c .matrix k 7 2 (f.scaleB + w64 (4 * (sidxB + bb))) 4) fun s (sb, p6) =>
  go s sA sB la.toArray lb.toArray sl.toArray sb (p1 || p2 || p3 || p4 || p5 || p6)

/-- Interval block `t` of the head MPASS, its arithmetic included; rows and columns beyond the tile's are never offered (R221 to
R224). -/
def State.block (s : State) (c : Nat) (k : Cmd) (f : FmtCtx) (r : MpRun) : State × Block :=
  let (m, n) := match s.tile k.tileName with
    | some t => (t.m, t.n)
    | none => (0, 0)
  let sk := bit k.w.toNat 39
  let (s, r, word) := if sk then s.skipItems c k f.q (r.replay.length + 18) r else (s, r, some true)
  let after := { r with t := r.t + 1 }
  match word with
  | none => (s, .wait [])
  | some false => (s, .skip after)
  | some true =>
    let fa := bits f.blk.toNat 4 0
    let fb := bits f.blk.toNat 9 5
    let low := k.f 183 160 % 128
    let inside := (List.range 128).filter fun x => decide (low ≤ 128 * r.t + x ∧ 128 * r.t + x - low < k.len)
    s.blockReads c k f r.t
      (fun s sA sB la lb sl sb bad =>
        if f.int ∧ (sB ≠ 0 ∨ (List.range 64).any fun i => sA i != 0 && sA i != -128) then (s, .shape) else
        let cols := ((List.range n).map fun j => (inside.map fun x => codeAt fb f.pb 32 lb j x)).toArray
        let live := (List.range m).filter fun i => sA i != -128
        let (fp, int) := live.foldl (fun (acc : Tab W32 × Tab Int) i =>
          let row := inside.map fun x => codeAt fa f.pa 16 la i x
          let sa := fld (sl.getD (i / 16) 0) (32 * (i % 16)) 32
          (List.range n).foldl (fun acc j =>
            let dot := ((row.zip (cols.getD j [])).map fun q => q.1 * q.2).sum
            let e := 128 * i + j
            if f.int then (acc.1, acc.2.set 0 e (acc.2.get 0 e + dot))
            else (acc.1.set 0 e (promote (acc.1.get 0 e) dot (sA i) sB sa sb), acc.2)) acc) (r.fp, r.int)
        (s, .pass { after with fp := fp, int := int, poisoned := r.poisoned || bad, begun := true }))
      (fun s bad => (s, .skip { after with poisoned := r.poisoned || bad }))

/-! The pass array (R227 to R230, R273, R343) -/

/-- Whether core `c`'s head is an MPASS past step 6 that may go on: not while its slot is PREEMPTED, save in its grace (R227, R229). -/
def State.running (s : State) (c : Nat) : Option (Cmd × MpRun) :=
  (s.head c .matrix).bind fun k => match k.phase with
    | .passing r => if ! k.retire && r.t != r.nt && ((s.slot k.g).state != .preempted || r.grace) then some (k, r) else none
    | _ => none

/-- What the next block of core `c` comes to without its passes: the skip items of no effect are consumed, a read that a refresh window
holds is held from now on, and the block is ready or not (R135, R222, R227). -/
def State.tryBlock (s : State) (c : Nat) : State × Bool :=
  match s.running c, (s.core c).fmt with
  | some (k, r), some f =>
    (match if bit k.w.toNat 39 then s.skipItems c k f.q (r.replay.length + 18) r else (s, r, some true) with
    | (t, r', none) => (t.phase c .matrix (.passing r'), false)
    | (_, _, some false) => (s, true)
    | (t, r', some true) => match t.blockReads c k f r'.t (fun t _ _ _ _ _ _ _ => (t, .shape)) (fun t _ => (t, .shape)) with
      | (t, .wait h) => ((s.keepHeld t).ckWant h, false)
      | _ => (s, true))
  | _, _ => (s, false)

/-- The least of the virtual times of some cores. -/
def State.minVt (s : State) (cs : List Nat) : Option Rat := (cs.map fun c => (s.core c).vt).min?

/-- The cores of cluster `cl` whose queues are eligible, those that have just become so with their virtual time caught up
(R227). -/
def State.eligible (s : State) (cl : Nat) : State × List Nat :=
  let cs := (List.range 32).map (32 * cl + ·)
  let (s, now) := cs.foldl (fun (p : State × List Nat) c => let (s, b) := p.1.tryBlock c; (s, if b then p.2 ++ [c] else p.2)) (s, [])
  let old := now.filter fun c => (s.core c).eligible
  let s := cs.foldl (fun s c =>
    let e := now.contains c
    if e == (s.core c).eligible then s else
    let vt := (s.core c).vt
    let vt' := if e then (match s.minVt old with | some m => if vt < m then m else vt | none => vt) else vt
    s.modCore c fun x => { x with eligible := e, vt := vt' }) s
  (s, now)

/-- The queue that is granted the array: least virtual time, ties in rotating order (R227). -/
def State.granted? (s : State) (cl : Nat) (cs : List Nat) : Option Nat :=
  match s.minVt cs with
  | none => none
  | some m =>
    let best := cs.filter fun c => (s.core c).vt == m
    let order := (List.range 32).map fun i => 32 * cl + ((s.cluster cl).rot + i) % 32
    order.find? best.contains

/-- Core `c`'s queue is not eligible until it is found so again: its head has ended, or waits for its slot (R227, R229). -/
def State.ineligible (s : State) (c : Nat) : State := s.modCore c fun x => { x with eligible := false }

/-- The last block is passed: the contribution is offered, the stages released, the outcome written; the contribution releases what the
queue has observed, which must be visible first (R220 steps 8 and 9, R246). -/
def State.finishPass (s : State) (c : Nat) (k : Cmd) (r : MpRun) : Met State :=
  if ¬ s.settled (s.queue c .matrix).obs then .wait []
  else if s.accHold (clusterOf c) then .wait ((accRanges (clusterOf c)).map rangeKey) else
  let s := s.ineligible c
  let add := fun (i : Nat) (e : W32) => match (s.core c).fmt with
    | some f => if f.int then addInt e (r.int.get 0 i) else addFp e (r.fp.get 0 i)
    | none => e
  let int := match (s.core c).fmt with | some f => f.int | none => false
  let (s, st) := s.contribute (clusterOf c) k.ctx k.tileName none int (k.f 127 96) (k.f 159 128) r.poisoned add (s.queue c .matrix).obs
  (s.releaseStages c k).endPass c k st (if r.replayed then 0x12 else 0)

/-- The head of core `c` whose blocks are all passed. -/
def State.passed (s : State) (c : Nat) : Option (Cmd × MpRun) :=
  (s.head c .matrix).bind fun k => match k.phase with
    | .passing r => if r.t = r.nt ∧ ! k.retire ∧ ((s.slot k.g).state ≠ .preempted ∨ r.grace) then some (k, r) else none
    | _ => none

/-- The array of cluster `cl` is idle: no pass for 512 cycles (R228). -/
def State.idleArray (s : State) (cl : Nat) : Bool := (s.cluster cl).arrayIdle || decide ((s.cluster cl).lastPass + 512 ≤ s.cycle)

/-- A block granted to core `c`: without a pass it costs nothing; the first pass after idle needs a permit, which is asked for
(R227, R228); residues that differ are a mismatch (R343). -/
def State.grant (s : State) (cl c : Nat) (k : Cmd) (r : MpRun) (residueOk : Bool) : State :=
  match (s.core c).fmt with
  | none => s
  | some f =>
    let x := s.cluster cl
    match s.block c k f r with
    | (t, .wait h) => (s.keepHeld t).ckWant h
    | (t, .skip r') => t.phase c .matrix (.passing r')
    | (t, .shape) => (((t.ineligible c).releaseStages c k).endPass c k stSHAPE (if r.replayed then 0x12 else 0)).orStay s
    | (t, .error e) => (((t.ineligible c).releaseStages c k).matError c k e).orStay s
    | (t, .pass r') =>
      if s.idleArray cl then
        if x.permitAsked then s else
        (s.modCluster cl fun x => { x with arrayIdle := true, permitAsked := true, permitSince := s.cycle }).modDie (cl / 32) fun d =>
          { d with gov := { d.gov with asking := d.gov.asking ++ [cl] } }
      else
        let n := f.pa * f.pb
        let slow := (s.die (cl / 32)).gov.throttled
        let fin := s.cycle + s.passTime cl s.cycle n slow
        let t := t.modCluster cl fun x =>
          { x with passes := x.passes + w64 n, lastPass := fin, passing := some (c, s.cycle, n, slow), rot := (c % 32 + 1) % 32 }
        let t := t.modCore c fun x => { x with vt := x.vt + (n : Rat) / (x.share.toNat : Rat) }
        if residueOk then t.phase c .matrix (.passing r') else t.mismatch k.g 1 k.ctx

/-- The first command of cluster `cl` whose blocks are all passed makes its offer, none where each waits; what the writes of those that wait
want streamed (R220, R346). -/
def State.finishes (s : State) (cl : Nat) : State × Option State :=
  (List.range 32).foldl (fun (p : State × Option State) i =>
    match p.2, p.1.passed (32 * cl + i) with
    | none, some (k, r) => (match p.1.finishPass (32 * cl + i) k r with
      | .ok t => (p.1, some t)
      | .wait h => (p.1.ckWant h, none)
      | .bad _ => p)
    | _, _ => p) (s, none)

/-- ARRAY_GRANT: once the array is free, a command whose blocks are all passed makes its offer; else the next block is granted. A
quarantined unit makes no pass (R344). -/
def execArrayGrant (cl : Nat) (residueOk : Bool) (s : State) : Ans :=
  if s.cycle < (s.cluster cl).lastPass ∨ Config.clusters ≤ cl ∨ s.cutting (32 * cl) ∨ (s.cluster cl).matrixQuarantined then .next s else
  match s.finishes cl with
  | (_, some t) => .next t
  | (s, none) =>
    let (s, cs) := s.eligible cl
    match (s.granted? cl cs).bind fun c => (s.running c).map fun p => (c, p) with
    | none => .next s
    | some (c, k, r) => .next (s.grant cl c k r residueOk)

/-- ARRAY_IDLE: 512 cycles have passed without a pass (R228). -/
def execArrayIdle (cl : Nat) (s : State) : Ans :=
  .next (if s.idleArray cl then s.modCluster cl fun x => { x with arrayIdle := true } else s)

/-- The cycles between two start permits of a die (R273, R350). -/
def Governor.interval (g : Governor) : Nat := (3000 * g.step.toNat + g.didt.toNat - 1) / g.didt.toNat

/-- START_PERMIT_GRANT: the oldest request of the die, one interval after the last permit, none while throttled (R228, R273,
R350). -/
def execStartPermitGrant (d : Nat) (s : State) : Ans :=
  let g := (s.die d).gov
  match g.asking with
  | [] => .next s
  | cl :: rest =>
    let early : Bool := match g.lastPermit with | some t => decide (s.cycle < t + g.interval) | none => false
    if g.throttled || early then .next s else
    let s := s.modDie d fun x => { x with gov := { x.gov with asking := rest, permits := x.gov.permits + 1, lastPermit := some s.cycle } }
    .next (s.modCluster cl fun x => { x with permitAsked := false, arrayIdle := false, rampStart := s.cycle, lastPass := s.cycle, permitWait := x.permitWait + w64 (s.cycle - x.permitSince) })

/-! Pre-emption and replay (R229) -/

/-- The interval blocks from block `t` on, `n` of them, that are neither passed nor skipped, by what the skip list says of them; one
whose item has not come counts as passed (R229). -/
def unpassed (sk ended : Bool) (skipped : Nat → Bool) : Nat → Nat → Nat → Nat → List W64 → Nat
  | 0, _, _, _, _ => 0
  | n + 1, t, skip, run, items =>
    let pass := fun (run : Nat) (items : List W64) => b2n (! skipped t) + unpassed sk ended skipped n (t + 1) 0 run items
    if ! sk then pass 0 []
    else if 0 < skip then unpassed sk ended skipped n (t + 1) (skip - 1) run items
    else if 0 < run then pass (run - 1) items
    else match items.dropWhile (· == 0) with
      | v :: l =>
        if 0 < fld v.toNat 0 32 then unpassed sk ended skipped n (t + 1) (fld v.toNat 0 32 - 1) (fld v.toNat 32 32) l
        else pass (fld v.toNat 32 32 - 1) l
      | [] => if ended then pass 0 [] else 0
/-- The items left of `items` once the skip list has spoken on `n` blocks (R222). -/
def skipRest : Nat → Nat → Nat → List W64 → List W64
  | 0, _, _, items => items
  | n + 1, skip, run, items =>
    if 0 < skip then skipRest n (skip - 1) run items
    else if 0 < run then skipRest n 0 (run - 1) items
    else match items.dropWhile (· == 0) with
      | [] => []
      | v :: l => if 0 < fld v.toNat 0 32 then skipRest n (fld v.toNat 0 32 - 1) (fld v.toNat 32 32) l else skipRest n 0 (fld v.toNat 32 32 - 1) l

/-- Whether the shifts of block `t` skip it (R221). -/
def State.shiftSkipped (s : State) (c : Nat) (k : Cmd) (f : FmtCtx) (t : Nat) : Bool :=
  match (s.blockReads c k f t (fun s _ _ _ _ _ _ _ => (s, .wait [])) fun s _ => (s, .shape)).2 with
  | .shape => true
  | _ => false

/-- Slot `g` is about to be PREEMPTED: an MPASS of it that has begun passes completes if it can within 256 cycles, if too many items would
be needed, or on a halted die, where that count stands: it keeps the items it will need. Else its partial work is discarded at the next
pass boundary and the array released (R229, R336; log entry 26). -/
def State.strike (s : State) (g : Nat) : State :=
  let c := coreOf g
  let cl := clusterOf c
  match s.head c .matrix with
  | none => s
  | some k => match k.phase, (s.core c).fmt with
    | .passing r, some f =>
      if k.g ≠ g ∨ ! r.begun ∨ r.grace ∨ k.retire then s else
      let mine := match (s.cluster cl).passing with
        | some (p, since, n, slow) => if p = c ∧ s.cycle < (s.cluster cl).lastPass then some (since, n, slow) else none
        | none => none
      let going := match mine with
        | some (since, n, slow) => n - s.passesDone cl since n slow
        | none => 0
      let need := s.skipNeeds c k { r with skipLeft := 0, runLeft := 0, replay := [] }
      let items := need.getD []
      let coming := match (s.pusher c k).bind s.holder with
        | some (_, x) => ((x.st f.q).src.isSome && ! (x.st f.q).last) || ! r.bound
        | none => false
      let sk := bit k.w.toNat 39
      let left := unpassed sk (r.ended || ! coming) (s.shiftSkipped c k f) (r.nt - r.t) r.t r.skipLeft r.runLeft (r.replay ++ items)
      if s.passTime cl s.cycle (going + left * (f.pa * f.pb)) false ≤ 256 ∨ 64 < r.kept.length ∨ s.paused c then
        let all := r.replay ++ items
        let used := if sk then all.length - (skipRest (r.nt - r.t) r.skipLeft r.runLeft all).length else 0
        let s := match s.pusher c k with
          | some h => s.modHolder h fun x => x.modSt f.q (·.take (used - r.replay.length))
          | none => s
        let took := decide (r.replay.length < used)
        s.phase c .matrix (.passing { r with
          grace := true, bound := r.bound || took, ended := r.ended || (took && ! s.skipBound c k f.q), replay := if took then all.take used else r.replay })
      else
        let s := match mine with
          | some (since, n, slow) =>
            let done := Min.min n (s.passesDone cl since n slow + 1)
            s.modCluster cl fun x => { x with
              lastPass := Max.max s.cycle (since + s.passTime cl since done slow), passes := x.passes - w64 (n - done), passing := some (c, since, done, slow) }
          | none => s
        ((s.ineligible c).wsDrop (wsEngine c .matrix)).phase c .matrix (.replay r)
    | _, _ => s

/-- PREEMPT_SAVE: at the boundary the segment is committed; then the context is saved and the waiting items go to the spill buffer, their
place known since before the commit; the slot is PREEMPTED (R330 to R332). -/
def execPreemptSave (g : Nat) (s : State) : Ans :=
  let x := s.slot g
  if ¬ x.preempting ∨ ¬ s.boundary g ∨ s.loading g ∨ x.mode ≠ .none ∨ s.storing g then .next s
  else match s.spillPlace g with
    | .ok (s, some at_) =>
      let s := s.modSlot g fun x => { x with spillAt := at_ }
      if ¬ x.buf.isEmpty then .next (s.handOver g x.buf.length .preempt)
      else if ¬ x.stamped then .next ((s.commitDone g).modSlot g fun x => { x with stamped := true })
      else if s.ckHold (ctxKey g) ∨ (match at_ with | some k => s.ckHold k | none => false) = true then .next (s.ckWant (ctxKey g :: at_.toList))
      else
        let s := s.strike g
        let bytes := (s.slot g).spillBytes
        let t := s.saveContext g
        (match at_ with
        | none => .next (t.modSlot g (·.status 0))
        | some k => .next ((t.write k 1024 bytes (relOf .none (coreOf g) [] x.hb)).modSlot g fun x =>
            let q := (List.range 4).foldl (fun t i => t.set Stream.reset i { t.get Stream.reset i with items := (t.get Stream.reset i).items.drop 16 }) x.q
            ({ x with q := q, spilled := true } : Slot).status 0))
    | .ok (s, none) => .next (s.modSlot g (·.status 3))
    | _ => .next s

/-- MPASS_REPLAY: the slot runs again: the command is replayed from step 7 with the items it had consumed (R229). -/
def execMpassReplay (c : Nat) (s : State) : Ans :=
  match s.head c .matrix with
  | none => .next s
  | some k => match k.phase with
    | .replay r =>
      if k.retire ∨ (s.slot k.g).state = .preempted then .next s else
      .next (s.phase c .matrix (.passing ⟨0, r.nt, [], [], false, 0, 0, r.bound, r.ended, [], r.kept ++ r.replay, true, false, false⟩))
    | _ => .next s

/-- MXERR_CLEAR: a store of 0 to MXERR by the owning slot (R226). -/
def execMxerrClear (g : Nat) (s : State) : Ans := .next (s.clearErr g .matrix)

end Sys2Proof.Machine
end

