-- ==== Sys2Proof/Machine/Power.lean ====
section
/-! DEFINITION. The core rail, the governor's windows and throttle, module links, reset and power loss (R4, R106, R107, R281, R329, R348
to R352, R362, R365, R367). -/
namespace Sys2Proof.Machine

/-- Cycles of a window of 1 ms (R350). -/
def windowCycles : Nat := 1500000

/-- A corrected error of array `a` of die `d`: it counts, and where the array passes the threshold with it the rail is raised a step and
frozen (R348). -/
def State.correctedError (s : State) (d a : Nat) : State :=
  if Config.dies ≤ d then s else
  let g := (s.die d).gov
  let n := g.counts.get 0 a + 1
  let hit := decide (n = fld g.rmctl.toNat 8 16 + 1)
  s.modDie d fun x => { x with gov := { x.gov with
    ce := g.ce + 1, counts := g.counts.set 0 a n, volt := if hit then Min.min 520 (g.volt + 10) else g.volt, frozen := g.frozen || hit } }

/-- RAIL_MONITOR_WINDOW: a window in which no array had more errors than a quarter of the threshold lowers the rail a step, while it
adapts and is not frozen (R348, R351). -/
def execRailMonitorWindow (d : Nat) (s : State) : Ans :=
  let g := (s.die d).gov
  if ¬ dieOk d ∨ s.cycle < (g.railWindow + 1) * windowCycles then .next s else
  let low := bit g.rmctl.toNat 0 && ! g.frozen && g.counts.all fun e => decide (4 * e.2 ≤ fld g.rmctl.toNat 8 16)
  .next (s.modDie d fun x => { x with gov := { x.gov with
    railWindow := g.railWindow + 1, counts := [], volt := if low then Max.max 400 (g.volt - 10) else g.volt } })

/-- The telemetry record of the window that ends (R351); currents and temperature are free values. -/
def State.telemetry (s : State) (d : Nat) (amps heat : W64) : Nat :=
  let g := (s.die d).gov
  let (ce, ue, th, pm) := g.begun
  fld g.window 0 32 + 32 * d * 2 ^ 32 + fld (g.energy / 1000) 0 32 * 2 ^ 64 + fld amps.toNat 0 32 * 2 ^ 96 + fld g.volt 0 10 * 2 ^ 128 +
    fld heat.toNat 0 16 * 2 ^ 144 + fld (g.ce - ce).toNat 0 32 * 2 ^ 160 + fld (g.ue - ue).toNat 0 16 * 2 ^ 192 +
    fld (g.throttles - th).toNat 0 16 * 2 ^ 208 + fld (g.permits - pm).toNat 0 16 * 2 ^ 224 + b2n g.frozen * 2 ^ 240 + fld s.cycle 0 64 * 2 ^ 256

/-- What the die's activity has used since its energy was last charged, in µJ: a free value (R350; log entry 1). -/
def State.chargeDie (s : State) (d : Nat) : State :=
  let (v, s) := s.free
  s.modDie d fun x => { x with gov := { x.gov with energy := x.gov.energy + fld v.toNat 0 32 } }
/-- The cap times the time elapsed in the window, in units of 1/1,500 µJ (R350). -/
def State.capSoFar (s : State) (d : Nat) : Nat := (s.die d).gov.cap.toNat * (s.cycle - (s.die d).gov.window * windowCycles)

/-- GOVERNOR_WINDOW: once the rail monitor has closed the window, the telemetry record is written or, where the ring is full, dropped and
counted; the energies return to 0 (R350, R351). -/
def execGovernorWindow (d : Nat) (s : State) : Ans :=
  let w := (s.die d).gov.window
  if ¬ dieOk d ∨ s.cycle < (w + 1) * windowCycles ∨ (s.die d).gov.railWindow ≤ w then .next s else
  let s := s.chargeDie d
  let (amps, s) := s.free
  let (heat, s) := s.free
  let g := (s.die d).gov
  let n := 2 ^ fld g.tlctl.toNat 8 5
  let on := bit g.tlctl.toNat 0
  let full := decide ((g.tlhead - g.tltail).toNat = n)
  let s := if on && ! full then s.write (hostKey (g.tlbase.toNat + 64 * (g.tlhead.toNat % n))) 64 (s.telemetry d amps heat) else s
  .next (s.modDie d fun x => { x with gov := { x.gov with
    window := w + 1, used := [], energy := 0, begun := (g.ce, g.ue, g.throttles, g.permits)
    tlhead := if on && ! full then g.tlhead + 1 else g.tlhead, tldrop := if on && full then g.tldrop + 1 else g.tldrop } })

/-- THROTTLE_ENTRY: the die's energy in the window has passed its cap times the time elapsed: no permit, at most a pass in 2 cycles
(R350). -/
def execThrottleEntry (d : Nat) (s : State) : Ans :=
  if ¬ dieOk d then .next s else
  let s := s.chargeDie d
  if (s.die d).gov.throttled ∨ 1500 * (s.die d).gov.energy ≤ s.capSoFar d then .next s else
  .next (s.modDie d fun x => { x with gov := { x.gov with throttled := true, throttles := x.gov.throttles + 1 } })

/-- THROTTLE_EXIT: the energy has fallen below that product (R350). -/
def execThrottleExit (d : Nat) (s : State) : Ans :=
  if ¬ dieOk d then .next s else
  let s := s.chargeDie d
  if s.capSoFar d ≤ 1500 * (s.die d).gov.energy then .next s else
  .next (s.modDie d fun x => { x with gov := { x.gov with throttled := false } })

/-! Module links (R106, R107, R349) -/

/-- LINK_RETRAIN: first the width changes, then, with a second retraining, the frequency; a failure takes the port down (R349). What
widths and frequencies a port takes is free. -/
def execLinkRetrain (l : Nat) (ok : Bool) (s : State) : Ans :=
  if ¬ (s.link l).up then .next s
  else if ! ok then .next (s.linkDown l)
  else match (s.link l).want with
    | some (_, f) => .next (s.modLink l fun x => { x with freq := f, want := none })
    | none =>
      let (v, s) := s.free
      .next (s.modLink l fun x => { x with width := fld v.toNat 0 32, want := some (fld v.toNat 0 32, fld v.toNat 32 32) })

/-- LINK_FLIT: the sender sends on, at most 1,024 flits ahead, how far is free; the next flit that the receiver has room for and that passes
its check is delivered, one that is refused is sent again with all after it (R107). -/
def execLinkFlit (l : Nat) (good : Bool) (s : State) : Ans :=
  if ¬ (s.link l).up then .next s else
  let (v, s) := s.free
  .next (s.modLink l fun x =>
    let sent := Min.min (x.recvNext + 1024) (x.sendNext + 1 + v.toNat % 1024)
    if good then { x with recvNext := x.recvNext + 1, sendNext := sent } else { x with sendNext := x.recvNext })

/-- LINK_LOST (R106). -/
def execLinkLost (l : Nat) (s : State) : Ans := if (s.link l).up then .next (s.linkDown l) else .next s

/-! Reset and power (R4, R281, R329, R352, R364, R365, R367) -/

/-- The flat keys of host memory, which no reset of the module touches. -/
def isHostKey (k : Nat) : Bool := decide (2 ^ 66 ≤ k ∧ k < 2 ^ 80)

/-- What a reset leaves: every memory and register at its reset value, the non-volatile items, and all outside the module: host memory,
the safe tier, what was written to the host (R352). -/
def State.wiped (s : State) (d : Durable) : State :=
  let keep := s.mem.filter fun e => isHostKey e.1
  let m : Mach := { Mach.reset with fresh := s.fresh, cur := s.cur, nextId := s.nextId, mem := keep, hostOut := s.hostOut, durable := d }
  { s with toMach := m, cut := none }

/-- The life-cycle records that the host has not had: those in the ports' queues and those kept for them, in their order (R352, R357,
R363). -/
def State.owes (s : State) : List (Nat × W256) :=
  ((List.range Config.hostPorts).flatMap fun p => ((s.port p).queue.filter fun r => fld r.toNat 0 8 == 4).map fun r => (p, r)) ++ s.durable.owed

/-- `n` free numbers below `m`. -/
def State.freeSome (s : State) (m : Nat) : Nat → State × List Nat
  | 0 => (s, [])
  | n + 1 =>
    let (v, s) := s.free
    let (s, l) := State.freeSome s m n
    (s, v.toNat % m :: l)

/-- Step 3: clusters that the self-test finds defective beyond their field's spare are fenced: cores and matrix unit quarantined (R4). A
cluster that was fenced at one reset stays so at every later one: DESIGN CHOICE, R352 does not list it among what survives (log entry
71). -/
def State.fence (s : State) : State :=
  let (v, s) := s.free
  let (s, l) := s.freeSome Config.clusters (fld v.toNat 0 12)
  let all := union s.durable.fenced l
  let s : State := { s with durable := { s.durable with fenced := all } }
  all.foldl (fun s k =>
    let s := s.modCluster k fun x => { x with fenced := true, matrixQuarantined := true }
    (List.range 32).foldl (fun s i => s.modCore (32 * k + i) fun c => { c with quarantined := true }) s) s

/-- Step 5: each firmware image is verified, and its security version held against the minimum, which a higher one raises (R365);
what the images are is free. -/
def State.firmware (s : State) : State × Bool :=
  (List.range 3).foldl (fun (s, ok) i =>
    let (v, s) := s.free
    let version := fld v.toNat 0 32
    let least := s.durable.minVersion.get 0 i
    if bit v.toNat 63 && decide (least ≤ version)
    then (({ s with durable := { s.durable with minVersion := s.durable.minVersion.set 0 i version } } : State), ok)
    else (s, false)) (s, true)

/-- Step 6: slots whose context area fails its test have npre set, free which (R329); a serial block is reserved, if the write is
confirmed (R281). -/
def State.testSlots (s : State) : State × Bool :=
  let (v, s) := s.free
  let (s, l) := s.freeSome Config.slots (fld v.toNat 0 20)
  let s := l.foldl (fun s g => s.modSlot g fun x => { x with npre := true }) s
  let (w, s) := s.free
  if bit w.toNat 0 || decide (2 ^ 64 ≤ s.durable.serialCounter + 2 ^ 40) then (s, false) else (s.takeBlock, true)

/-- Bring-up after the wipe: steps 3 to 6; one that fails stops it (R365, R367). -/
def State.bringUp6 (s : State) : State :=
  let s := s.fence
  let (s, ok) := s.firmware
  if ! ok then { s with bringUp := 4, durable := { s.durable with status := BitVec.ofNat 8 stPERM } } else
  let (s, ok) := s.testSlots
  { s with bringUp := if ok then 6 else 5 }

/-- MODULE_RESET (R352, R367): the life-cycle controller keeps the record it owes and its status. -/
def execModuleReset (s : State) : Ans := .next (s.wiped { s.durable with pending := [], owed := s.owes }).bringUp6

/-- POWER_LOSS: what is not non-volatile is lost (R352, R364). -/
def execPowerLoss (s : State) : Ans := .next (s.wiped { s.durable with pending := [], owed := [], status := 0 })

end Sys2Proof.Machine
end

