-- ==== Sys2Proof/Machine/LifeCycle.lean ====
section
/-! DEFINITION. The host's requests: pushes through its queue windows, the life cycle, attestation and the end of bring-up (R352, R356,
R357, R361 to R367). -/
namespace Sys2Proof.Machine

/-- Whether `p` is a port of the module and the module has trained its host ports (R353, R367). -/
def State.portUp (s : State) (p : Nat) : Bool := decide (p < Config.hostPorts ∧ 4 ≤ s.bringUp)

/-! Host queue windows (R356) -/

def State.hostQueue (s : State) (w : Nat) : HostQueue := s.hostQueues.get HostQueue.reset w
def State.modHostQueue (s : State) (w : Nat) (f : HostQueue → HostQueue) : State :=
  { s with hostQueues := s.hostQueues.set HostQueue.reset w (f (s.hostQueue w)) }

/-- A push through window `w`: SPAWN of the staged stitch, in HQCTL's context and under HQNAME (R264, R356). -/
def State.hostPush (s : State) (w : Nat) : State :=
  let q := s.hostQueue w
  let done := fun (s : State) (st : Nat) => s.modHostQueue w (·.pushed st)
  if s.bringUp < 9 ∨ ¬ bit q.ctl.toNat 16 then done s stPERM else
  let ctx := BitVec.ofNat 16 q.ctl.toNat
  let (s, status, _) := s.resolve 0 ctx q.name 3
  if status ≠ stOK ∧ status ≠ stMOVED then done s status else
  { s with spawns := s.spawns ++ [⟨s.nextId, Config.slots + w, 0, outside, Config.clusters + w, ctx, q.staging, q.name, [], [], none⟩], nextId := s.nextId + 1 }

/-- HQPUSH: 8 bytes of the staging; the last ones push. A push waits for the one before it in its window (R356). -/
def execHqpush (w off : Nat) (v : W64) (s : State) : Ans :=
  if s.bringUp < 4 ∨ 65536 ≤ w ∨ off < 0x40 ∨ 0x78 < off ∨ off % 8 ≠ 0 then .next s
  else if off = 0x78 ∧ s.spawns.any (fun r => r.g == Config.slots + w) then .next s
  else
    let s := s.modHostQueue w fun q => { q with staging := BitVec.ofNat 512 (putFld q.staging.toNat (8 * (off - 0x40)) 64 v.toNat) }
    .next (if off = 0x78 then s.hostPush w else s)

/-! The life cycle (R352, R363) -/

/-- What a signed request asks for, once its signature and the state of its key are known; its 64 bytes and their layout are the
owner's, so what it says is free (log entry 28). -/
structure LifeReq where
  verified : Bool
  exhausted : Bool
  /-- signed by the manufacturing key, else by the owner key -/
  maker : Bool
  target : Life
  module : BitVec 16
  nameKey : Nat
  deriving DecidableEq, Repr

/-- The state that a request's code names. -/
def lifeOf : Nat → Life
  | 0 => .blank | 1 => .provisioned | 2 => .operational | 3 => .rma | _ => .decommissioned

/-- The request as it is read. -/
def State.lifeReq (s : State) : State × LifeReq :=
  let (v, s) := s.free
  let (k, s) := s.free
  let n := v.toNat
  (s, ⟨bit n 0, bit n 1, bit n 2, lifeOf (fld n 3 3), BitVec.ofNat 16 (fld n 8 16), k.toNat⟩)

/-- Whether the table has the transition, signed by that key (R363). -/
def lifeStep (src dst : Life) (maker : Bool) : Bool :=
  match src, dst with
  | .blank, .provisioned => maker
  | .provisioned, .operational => ! maker
  | .operational, .provisioned => ! maker
  | .operational, .rma | .provisioned, .rma => ! maker
  | .rma, .provisioned => maker
  | .decommissioned, _ => false
  | .rma, .decommissioned => true
  | _, .decommissioned => ! maker
  | _, _ => false

/-- A transition's effect on the surviving items (R363). -/
def Durable.move (d : Durable) (r : LifeReq) : Durable :=
  match d.life, r.target with
  | .blank, .provisioned =>
    { d with life := .provisioned, module := r.module, nameKey := r.nameKey, identity := true, identityIndex := 0, identityGen := d.identityGen + 1, ownerKey := true, serialCounter := 1 }
  | _, .provisioned => { d with life := .provisioned, identity := true, identityIndex := 0, identityGen := d.identityGen + 1 }
  | _, .decommissioned => { d with life := .decommissioned, identity := false, ownerKey := false, nameKey := 0 }
  | _, l => { d with life := l }

/-- A life-cycle request performed for port `p`: refused at once, or the change is made: every context ends, the module is wiped and
comes up again, and the record is owed until the ring is enabled (R352, R363, R367). -/
def State.lifeChange (s : State) (p : Nat) : State :=
  let (s, r) := s.lifeReq
  let refuse := fun (st : Nat) =>
    ({ s with durable := { s.durable with status := BitVec.ofNat 8 st } } : State).record p (hostRecord 4 st 0 0 0 0)
  if ¬ r.verified ∨ ¬ lifeStep s.durable.life r.target r.maker ∨ (¬ r.maker ∧ ¬ s.durable.ownerKey) then refuse stPERM
  else if r.exhausted then refuse stFULL
  else
    let d := s.durable.move r
    (s.wiped { d with status := 0, owed := s.owes ++ [(p, hostRecord 4 stOK 0 0 0 0)] }).bringUp6

/-- The requests that waited, one at a time, each against the state the one before left (R363). -/
def State.serveLife : Nat → State → State
  | 0, s => s
  | n + 1, s => match s.durable.pending with
    | [] => s
    | (p, _) :: l =>
      if ¬ s.recordRoom p then s else
      State.serveLife n (({ s with durable := { s.durable with pending := l } } : State).lifeChange p)

/-- HLCREQ: a request waits while a checkpoint streams, or for step 6 of bring-up; a full queue of records holds it (R357, R363,
R367). -/
def execHlcreq (p : Nat) (v : W64) (s : State) : Ans :=
  if ¬ s.portUp p ∨ v.toNat % 64 ≠ 0 then .next s
  else if s.streaming ∨ s.bringUp = 5 ∨ ¬ s.durable.pending.isEmpty then
    .next { s with durable := { s.durable with pending := s.durable.pending ++ [(p, v)] } }
  else if ¬ s.recordRoom p then .next s
  else .next (s.lifeChange p)

/-! Attestation (R364, R366) -/

/-- The bytes of a list as a number, little-endian. -/
def bytesNat : List Byte → Nat
  | [] => 0
  | b :: l => b.toNat + 256 * bytesNat l

/-- The two digests of a report: the supervisor firmware's, and that of the resident handler and the link firmware together (R366). What
the images hold is free; that a security version names one image is DESIGN CHOICE (log entry 89). -/
def Durable.digests (d : Durable) : Nat :=
  let v := fun (i : Nat) => d.minVersion.get 0 i
  (Config.firmwareDigest [v 0]).toNat + (Config.firmwareDigest [v 1, v 2]).toNat * 2 ^ 256

/-- Byte `i` of the identity key's signature, in the form of RFC 8391: the index in 4 bytes, big-endian; the rest is free, of the key, the
index and what is signed (R364). -/
def Durable.signature (d : Durable) (index : Nat) (bytes : List Byte) (i : Nat) : Byte :=
  if i < 4 then BitVec.ofNat 8 (fld index (8 * (3 - i)) 8) else Config.signByte d.identityGen index bytes i

/-- The 128 bytes of a report: nonce, digests, ids, the block of serials, the index (R366). -/
def State.report128 (s : State) (nonce index : Nat) : Nat :=
  let d := s.durable
  let least := Min.min (Min.min (d.minVersion.get 0 0) (d.minVersion.get 0 1)) (d.minVersion.get 0 2)
  let life := match d.life with | .blank => 0 | .provisioned => 1 | .operational => 2 | .rma => 3 | .decommissioned => 4
  nonce % 2 ^ 256 + d.digests * 2 ^ 256 + d.module.toNat * 2 ^ 768 + life * 2 ^ 784 + fld least 0 32 * 2 ^ 800 +
    (s.serialEnd - 2 ^ 40) * 2 ^ 832 + fld index 0 32 * 2 ^ 896

/-- HATTEST: the next index of the identity key is written first; the report and its signature go to the result address of the request;
a kind 5 record tells (R364, R366). -/
def execHattest (p : Nat) (v : W64) (s : State) : Ans :=
  if ¬ s.portUp p ∨ v.toNat % 64 ≠ 0 ∨ ¬ s.recordRoom p then .next s else
  let tell := fun (s : State) (st : Nat) => s.record p (hostRecord 5 st 0 0 0 0)
  if ¬ s.durable.identity then .next (tell s stPERM)
  else if 65536 ≤ s.durable.identityIndex then .next (tell s stFULL)
  else
    let index := s.durable.identityIndex
    let t : State := { s with durable := { s.durable with identityIndex := index + 1 } }
    let nonce := t.nat (hostKey v.toNat) 32
    let result := t.nat (hostKey (v.toNat + 32)) 8
    let rep := t.report128 nonce index
    let bytes := (List.range 128).map fun i => BitVec.ofNat 8 (fld rep (8 * i) 8)
    let t := t.write (hostKey result) 128 rep
    let t := t.write (hostKey (result + 128)) 2692 (bytesNat ((List.range 2692).map (t.durable.signature index bytes)))
    .next (tell t stOK)

/-! The end of bring-up (R361, R362, R367) -/

/-- Step 8: each fabric port trains with its peer, free which, if the system table lists it. -/
def State.trainLinks (s : State) : State :=
  (List.range Config.fabricPorts).foldl (fun s l =>
    let (v, s) := s.free
    let peer := BitVec.ofNat 16 v.toNat
    let listed := (s.die 0).modules.contains peer
    let there := bit v.toNat 63
    s.modLink l fun x => { x with peer := peer, up := there && listed, barred := there && ! listed, width := fld v.toNat 16 16, freq := fld v.toNat 32 16 }) s

/-- HLCGO: a write of 1 ends step 7; the ports train; the module is ready if it is OPERATIONAL (R355, R367). -/
def execHlcgo (p : Nat) (v : W64) (s : State) : Ans :=
  if ¬ s.portUp p ∨ v ≠ 1 ∨ s.bringUp ≠ 6 then .next s else
  let t := s.trainLinks
  .next { t with bringUp := if t.durable.life = .operational then 9 else 8 }

end Sys2Proof.Machine
end

