-- ==== Sys2Proof/Machine/Checkpoint.lean ====
section
/-! DEFINITION. Checkpoint rounds, their streaming to the safe tier, and recovery (R345 to R347, R359, R360). -/
namespace Sys2Proof.Machine

/-! A round begins (R345, R346, R359) -/

/-- A round that was asked for begins if it follows the last completed one; else it is refused (R359). -/
def State.beginRound (s : State) (r : CkRound) : State :=
  if r.round ≠ (s.ckDone + 1) % 2 ^ 32 then s.record r.port (hostRecord 3 stRANGE 0 r.round 0 0)
  else { s with ckRound := some r, ckRanges := [], ckWants := [] }

/-- HCKPT: a round starts, or waits for the one that streams; it names the tier that HCKTIER then holds (R346, R359, R367). -/
def execHckpt (p : Nat) (v : W64) (s : State) : Ans :=
  let n := v.toNat
  if ¬ s.portUp p ∨ 2 ^ 32 ≤ n ∨ ¬ s.recordRoom p then .next s
  else if s.bringUp < 9 then .next (s.record p (hostRecord 3 stPERM 0 n 0 0))
  else
    let r : CkRound := ⟨n, p, (s.port p).cktier.toNat, none⟩
    match s.ckRound, s.ckWaiting with
    | none, _ => .next (s.beginRound r)
    | some q, none => .next (if n = (q.round + 1) % 2 ^ 32 then { s with ckWaiting := some r } else s.record p (hostRecord 3 stRANGE 0 n 0 0))
    | some _, some _ => .next (s.record p (hostRecord 3 stRANGE 0 n 0 0))

/-- The ranges of 2 MiB in the 96 parts of an image: 512 of each die, 24,576 of each rim stack (R360). -/
def imageRanges : Nat := 64 * 512 + 32 * 24576
/-- The start and the end of part `p` in the image (R360). -/
def partStart (p : Nat) : Nat := if p < 64 then 2 ^ 30 * p else 2 ^ 36 * (p - 63)
def partEnd (p : Nat) : Nat := partStart p + if p < 64 then 2 ^ 30 else 48 * 2 ^ 30
/-- Where part `p` of an image goes: the module and the va of target p mod count, at its base + the part's image offset (R359). -/
def partPlace (targets : List Nat) (p : Nat) : Nat × Nat :=
  let t := targets.getD (p % targets.length) 0
  (fld t 0 16, fld t 64 44 + partStart p)
/-- Whether an image at some targets takes bytes that one at others holds. -/
def imagesMeet (a b : List Nat) : Bool :=
  (List.range 96).any fun p => (List.range 96).any fun q =>
    let x := partPlace a p
    let y := partPlace b q
    x.1 == y.1 && decide (x.2 < y.2 + (partEnd q - partStart q) ∧ y.2 < x.2 + (partEnd p - partStart p))

/-- Whether a tier descriptor's header and targets are in order: 1 to 32 targets, each a listed module, each able to hold its parts
below 2^44 (R359). -/
def tierOk (modules : List (BitVec 16)) (head : Nat) (targets : List Nat) : Bool :=
  let n := fld head 0 8
  decide (1 ≤ n ∧ n ≤ 32) && fld head 8 504 == 0 && targets.zipIdx.all fun (t, i) =>
    modules.contains (BitVec.ofNat 16 t) &&
      ((List.range 96).filter fun p => p % n == i).all fun p => decide (fld t 64 44 + partEnd p < 2 ^ 44)

/-- What `n` bytes of the tier descriptor at `va` hold; none where they cannot be read (R359). -/
def State.tierRead (s : State) (va n : Nat) : Got (State × Option Nat) :=
  match s.global 0 0 (mkAddr 4 va) n .read 0 with
  | .ok (t, k) => .ok (t, if t.poisoned k n then none else some (t.nat k n))
  | .bad t _ => .ok (t, none)
  | .wait h => .wait h

/-- The first `n` targets of a tier descriptor, as far as they can be read (R359). -/
def State.tierTargets (s : State) (va : Nat) : Nat → Got (State × Option (List Nat))
  | 0 => .ok (s, some [])
  | n + 1 => match s.tierTargets va n with
    | .ok (s, some l) => (match s.tierRead (va + 64 + 16 * n) 16 with
      | .ok (t, v) => .ok (t, v.map fun v => l ++ [v])
      | .bad t f => .bad t f
      | .wait h => .wait h)
    | r => r

/-- The targets of the descriptor at `va`; an empty list where it cannot be read or is not in order (R359). -/
def State.tierList (s : State) (va : Nat) : Got (State × List Nat) :=
  match s.tierRead va 64 with
  | .ok (s, some head) => (match s.tierTargets va (fld head 0 8) with
    | .ok (s, l) => .ok (s, match l with
      | some l => if tierOk (s.die 0).modules head l then l else []
      | none => [])
    | .bad t f => .bad t f
    | .wait h => .wait h)
  | .ok (s, none) => .ok (s, [])
  | .bad t f => .bad t f
  | .wait h => .wait h

/-- The round under way knows its targets: the descriptor that its start command named is read as the round begins. DESIGN CHOICE: the spec
does not say when it is read (R346, R359; log entry 88). -/
def State.readTier (s : State) (r : CkRound) : Got State :=
  if r.targets.isSome then .ok s else
  match s.tierList r.tier with
  | .ok (t, l) => .ok { t with ckRound := some { r with targets := some l } }
  | .bad t f => .bad t f
  | .wait h => .wait h

/-- CHECKPOINT_START: the start command reaches die `d`, whose units go to their boundaries and send nothing more (R345). -/
def execCheckpointStart (d : Nat) (s : State) : Ans :=
  match s.ckRound with
  | none => .next s
  | some r =>
    if ¬ dieOk d ∨ s.streaming ∨ (s.die d).ckcut then .next s else
    match s.readTier r with
    | .ok s => .next (s.modDie d fun x => { x with ckcut := true, ckmarked := [] })
    | _ => .next s

/-! Boundaries and markers (R345) -/

/-- Whether slot `g` may still act on its own: it runs or is held. -/
def State.lives (s : State) (g : Nat) : Bool := (s.slot g).state == .running || (s.slot g).state == .held

/-- The slots of die `d` that stand at a boundary commit what they have buffered, as under a pre-empt (R330, R345). -/
def State.commitDie (s : State) (d : Nat) : State :=
  s.slots.foldl (fun s e =>
    let g := e.1
    let x := s.slot g
    if dieOf (coreOf g) ≠ d ∨ ¬ s.lives g ∨ ¬ s.boundary g ∨ s.loading g ∨ x.mode ≠ .none ∨ s.storing g ∨ x.stamped then s
    else if ¬ x.buf.isEmpty then s.handOver g x.buf.length .preempt
    else (s.commitDone g).modSlot g fun x => { x with stamped := true }) s

/-- The die a task under way belongs to; what a wait-list entry left counts with its core. -/
def State.dieOfTask (s : State) (g : Nat) : Nat := match s.holder g with | some (h, _) => dieOf (coreOf h) | none => 64

/-- Whether every unit of die `d` stands at its boundary and has sent nothing that is still on its way (R345). -/
def State.still (s : State) (d : Nat) : Bool :=
  let mine := fun (cl : Nat) => cl / 32 == d
  s.slots.all (fun e => dieOf (coreOf e.1) != d || ! s.lives e.1 ||
    (s.boundary e.1 && ! s.loading e.1 && ! s.storing e.1 && e.2.mode == .none && e.2.buf.isEmpty && e.2.stamped)) &&
  s.loads.all (fun l => ! mine l.cluster) && s.out.all (fun o => ! mine o.cluster) && s.amos.all (fun a => ! mine a.cluster) &&
  s.nameOps.all (fun o => ! mine o.cluster) && s.spawns.all (fun r => ! mine r.cluster) &&
  s.sends.all (fun r => dieOf (coreOf r.g) != d) && s.notes.all (fun n => s.dieOfTask n.g != d) && s.parks.all (fun p => ! mine p.cluster) &&
  s.contribs.all (fun c => dieOf c.core != d) && s.chains.all (fun h => dieOf h.core != d || h.result.isSome) && s.shoots.isEmpty &&
  s.ksyncs.all (fun k => dieOf (coreOf k.1) != d) && (s.die d).migs.isEmpty && (s.die d).tcinv.isNone && (s.die d).rhreq.isNone &&
  s.clusters.all fun e => ! mine e.1 || (e.2.icFlush.isEmpty && e.2.corrections.isEmpty)

/-- A command as the cut records it: a begun copy command from its start, a begun MPASS as held for replay (R345). -/
def Cmd.atCut (eng : Eng) (k : Cmd) : Cmd :=
  { k with phase := match eng, k.phase with
      | .copy, .stopped => .stopped
      | .copy, _ => .fresh
      | _, .passing r => .replay r
      | _, p => p }
def Queue.atCut (eng : Eng) (q : Queue) : Queue := { q with cmds := q.cmds.map (Cmd.atCut eng) }

/-- A stream register as the cut records it: a CPYS that still feeds it is recorded from its start, before it binds it and brings an item;
one that is complete stays its producer until the last item is read (R160, R345). -/
def Slot.atCut (x : Slot) : Slot :=
  let free := fun (r : Stream) => match r.src with
    | some (.cpys _) => if r.last then r else { r with src := none, items := [] }
    | _ => r
  { x with q := (List.range 4).foldl (fun t i => t.set Stream.reset i (free (t.get Stream.reset i))) x.q }

/-- The recorded states of the units together: the cut of the round (R345). -/
def Mach.atCut (m : Mach) : Mach :=
  { m with
    cores := m.cores.map (fun e => (e.1, { e.2 with
      copyQ := e.2.copyQ.atCut .copy, mxQ := e.2.mxQ.atCut .matrix, waitList := e.2.waitList.map fun w => { w with slot := w.slot.atCut } }))
    clusters := m.clusters.foldl (fun t e => t.set Cluster.reset e.1 { e.2 with passing := none }) m.clusters
    slots := m.slots.foldl (fun t e => t.set Slot.reset e.1 e.2.atCut) m.slots }

/-- Every die has the markers of all 64: the states are recorded, the units go on, and the cut streams (R345, R346). -/
def State.recordCut (s : State) (n : Nat) : State :=
  let s := (List.range 64).foldl (fun s d => s.modDie d fun x => { x with ckcut := false, ckmarked := [], ckround := BitVec.ofNat 32 n }) s
  let s : State := { s with cut := some s.toMach.atCut }
  (List.range 64).foldl (fun s d => s.modDie d fun x => { x with ckstream := true }) s

/-- CHECKPOINT_MARKER: die `i` stands still and its marker reaches die `d`; with the last one the cut is recorded (R345). -/
def execCheckpointMarker (d i : Nat) (s : State) : Ans :=
  match s.ckRound with
  | none => .next s
  | some r =>
    if ¬ dieOk d ∨ ¬ dieOk i ∨ ¬ (s.die d).ckcut ∨ ¬ (s.die i).ckcut ∨ (s.die d).ckmarked.contains i then .next s else
    let s := s.commitDie i
    if ¬ s.still i then .next s else
    let s := s.modDie d fun x => { x with ckmarked := i :: x.ckmarked }
    if (List.range 64).all fun e => (s.die e).ckcut && (s.die e).ckmarked.length == 64 && s.still e
    then .next (s.recordCut r.round) else .next s

/-! Streaming (R346, R359, R360) -/

/-- CHECKPOINT_RANGE_STREAMED: range `r` has reached the target of its part; the writes that waited for it go on. A cut of an earlier round
whose bytes the image takes the place of is lost (R346, R359, R360; log entries 27 and 88). -/
def execCheckpointRangeStreamed (r : Nat) (s : State) : Ans :=
  let targets := (s.ckRound.bind (·.targets)).getD []
  if ¬ s.streaming ∨ imageRanges ≤ r ∨ s.ckRanges.contains r ∨ targets = [] then .next s else
  let tier := if s.ckRanges.isEmpty then s.tier.filter fun t => ! imagesMeet t.targets targets else s.tier
  .next { s with ckRanges := r :: s.ckRanges, ckWants := s.ckWants.filter (· != r), tier := tier }

/-- A round ends: its record, and the cut kept in the tier where it is complete (R346, R359). -/
def State.endRound (s : State) (r : CkRound) (m : Mach) (good : Bool) : State :=
  let s := (List.range 64).foldl (fun s d => s.modDie d fun x => { x with ckstream := false }) s
  let s := s.record r.port (hostRecord 3 (if good then stOK else stPERM) 0 r.round 0 0)
  let tier := if good then s.tier.filter (fun t => t.round != r.round) ++ [⟨r.round, r.targets.getD [], m⟩] else s.tier
  { s with tier := tier, ckDone := if good then r.round else s.ckDone, ckRound := none, ckRanges := [], ckWants := [], cut := none }

/-- CHECKPOINT_STREAM_DONE: every part has reached its target, and the round is complete; or the stream fails and the round is of no use.
Then the round that waited begins, and the life-cycle requests that waited are performed; a full queue of records holds the step (R346,
R357, R359, R363). -/
def execCheckpointStreamDone (ok : Bool) (s : State) : Ans :=
  match s.ckRound, s.cut with
  | some r, some m =>
    if ¬ s.streaming ∨ (ok ∧ s.ckRanges.length ≠ imageRanges) ∨ ¬ s.recordRoom r.port then .next s else
    let t := s.endRound r m ok
    let u := (match t.ckWaiting with
      | some q => if t.recordRoom q.port then some (({ t with ckWaiting := none } : State).beginRound q) else none
      | none => some t)
    (match u with
    | some u =>
      let w := State.serveLife u.durable.pending.length u
      .next (if w.durable.pending.isEmpty then w else s)
    | none => .next s)
  | _, _ => .next s

/-! Recovery (R347) -/

/-- The bytes of the fault rings as they stand in `now`, in place of those of the cut (R347). -/
def State.keepRings (s now : State) : State :=
  (List.range 64).foldl (fun s d =>
    let x := s.die d
    let y := now.die d
    if ¬ bit y.fqctl.toNat 0 ∨ x.fqbase ≠ y.fqbase then s else
    let s := s.modDie d fun x => { x with fqsent := y.fqsent }
    (List.range (1 + 2 ^ fld y.fqctl.toNat 8 5 / 2)).foldl (fun s i =>
      let ea := mkAddr 4 (y.fqbase.toNat + 64 * i)
      match now.global (32 * d) 0 ea 64 .read 0, s.global (32 * d) 0 ea 64 .read 0 with
      | .ok (t, k), .ok (_, k') => s.put k' 64 (t.nat k 64)
      | _, _ => s) s) s

/-- A fresh block of serials for a restored module; none where the counter is at its end (R281, R347). -/
def State.freshBlock (s : State) : State :=
  if s.durable.serialCounter + 2 ^ 40 < 2 ^ 64 then s.takeBlock else { s with serialNext := 0, serialEnd := 0, serialFail := true }

/-- What the self-test and the quarantine took out of use stays so: DESIGN CHOICE, a recovery is no module reset, at which a quarantine
ends (R4, R344; log entry 71). -/
def State.keepQuarantine (s now : State) : State :=
  let s := (now.clusters.map (·.1) ++ s.clusters.map (·.1)).foldl (fun s k =>
    let y := now.cluster k
    if (s.cluster k).fenced = y.fenced ∧ (s.cluster k).matrixQuarantined = y.matrixQuarantined then s else
    s.modCluster k fun x => { x with fenced := y.fenced, matrixQuarantined := y.matrixQuarantined }) s
  (now.cores.map (·.1) ++ s.cores.map (·.1)).foldl (fun s c =>
    let y := now.core c
    let out := y.quarantined || (now.cluster (clusterOf c)).matrixQuarantined
    if (s.core c).quarantined = y.quarantined ∧ ¬ out then s else
    s.modCore c fun x =>
      { x with quarantined := y.quarantined, feat := if (now.cluster (clusterOf c)).matrixQuarantined then x.feat &&& 0xFFFFFFEF else x.feat }) s

/-- The ports of a restored module: their rings and what waits for them stand as they are, the rest is as recorded (R345, R347). -/
def State.keepPorts (s : State) (m : Mach) : Tab Port :=
  (List.range Config.hostPorts).foldl (fun t p =>
    let x := m.ports.get Port.reset p
    t.set Port.reset p { s.port p with apbase := x.apbase, cktier := x.cktier }) s.ports

/-- Whether every part of a cut can be read back from the target that holds it (R347, R360). -/
def State.tierReach (s : State) (t : TierCut) : Bool :=
  (List.range 96).all fun p => s.reachable (if p < 64 then p else (Config.stackDie (Fin.ofNat 32 (p - 64))).val) s.nextId (partPlace t.targets p).1

/-- The module with a cut loaded into it: the surviving items, the serial counter, host memory and what was written to the host stay; a
fresh block of serials is reserved (R281, R347, R352). -/
def State.restored (s : State) (n : Nat) (m : Mach) : State :=
  let host := s.mem.filter fun e => isHostKey e.1
  let mem := host.foldl (fun (t : Tab Byte) e => Tab.set 0 t e.1 e.2) (m.mem.filter fun e => ! isHostKey e.1)
  let c : Mach := { m with
    fresh := s.fresh, cur := s.cur, nextId := Max.max s.nextId m.nextId, mem := mem, hostOut := s.hostOut, hostRead := s.hostRead
    ports := s.keepPorts m, durable := s.durable, bringUp := 9, ckRound := none, ckWaiting := none, ckRanges := [], ckWants := [], ckDone := n }
  let t : State := { s with toMach := c, cut := none }
  let t := (List.range 64).foldl (fun t d => t.modDie d fun x =>
    let g := (s.die d).gov
    { x with tc := [], serials := (0, 0), gov := { x.gov with tlhead := g.tlhead, tltail := g.tltail, tldrop := g.tldrop } }) t
  let t := t.clusters.foldl (fun t e => t.modCluster e.1 fun k => { k with icache := [], ncache := [], rhcache := [] }) t
  ((t.keepRings s).keepQuarantine s).freshBlock

/-- RECOVERY: a module that accepts work is wiped and a cut of the safe tier loaded, each part from its target; every unit goes on from its
recorded state. A round that was under way, and one that waited, have failed: DESIGN CHOICE, the spec does not say what the host is told
(log entry 88). Then the life-cycle requests that waited for the stream are performed; a full queue of records holds the step (R347, R357,
R359, R363, R367). -/
def execRecovery (n : Nat) (s : State) : Ans :=
  match s.tier.find? fun t => t.round == n with
  | none => .next s
  | some c =>
    if s.bringUp ≠ 9 ∨ s.durable.life ≠ .operational ∨ ¬ s.tierReach c then .next s else
    let lost := s.ckRound.toList ++ s.ckWaiting.toList
    let t := lost.foldl (fun (s : State) r => s.record r.port (hostRecord 3 stPERM 0 r.round 0 0)) s
    if (List.range Config.hostPorts).any fun p => decide (256 < (t.port p).queue.length) then .next s else
    let t := t.restored n c.cut
    let w := State.serveLife t.durable.pending.length t
    .next (if w.durable.pending.isEmpty then w else s)

end Sys2Proof.Machine
end

