-- ==== Sys2Proof/Machine/HostPort.lean ====
section
/-! DEFINITION. Registers written from the windows by tag 0xF, and the host's accesses through its BARs: the windows, the queue windows and
the port's control registers, the aperture (R79, R319, R354 to R356, R363). REGISTER_WRITE names BAR 2 offset `o` of port `p` by tag 0xE, bits [33:32] and [31:0], HOST_APERTURE
the offsets of BAR 0 and BAR 2 by 2^36 and 2·2^36 above those of the aperture (log entry 29). -/
namespace Sys2Proof.Machine

/-- A write of a port's control register (R355). -/
def State.portWrite (s : State) (p off : Nat) (v : W64) : Ans :=
  let n := v.toNat
  let set := fun (ok : Bool) (f : Port → Port) => if ok then Host.Outcome.next (s.modPort p f) else .next s
  match off with
  | 0x000 => set (n % 64 == 0) fun x => { x with crbase := v }
  | 0x008 => .next (if ringCtlOk n then (s.modPort p fun x => { x with crctl := v }).payOwed p else s)
  | 0x018 => set (decide (n < 2 ^ 32)) fun x => { x with crtail := BitVec.ofNat 32 n }
  | 0x020 => set (only (putFld n 0 16 0) 32 20) fun x => { x with apbase := v }
  | 0x028 => execHckpt p v s
  | 0x030 => set (only n 6 46) fun x => { x with cktier := v }
  | 0x038 => execHlcreq p v s
  | 0x050 => execHattest p v s
  | 0x060 => execHlcgo p v s
  | _ => .next s

/-- A write of a host queue window (R356). -/
def State.queueWrite (s : State) (w off : Nat) (v : W64) : Ans :=
  let n := v.toNat
  match off with
  | 0x000 => .next (s.modHostQueue w fun q => { q with name := BitVec.ofNat 128 (putFld q.name.toNat 0 64 n) })
  | 0x008 => .next (s.modHostQueue w fun q => { q with name := BitVec.ofNat 128 (putFld q.name.toNat 64 64 n) })
  | 0x010 => .next (if n < 2 ^ 18 then s.modHostQueue w fun q => { q with ctl := v } else s)
  | _ => execHqpush w off v s

/-- Windows that are armed, as HWAKE counts them (R355, R356). -/
def State.hwake (s : State) : Nat := (s.hostQueues.filter fun e => fld e.2.ctl.toNat 16 2 == 3).length

/-- What a read of a port's control register returns (R355). -/
def State.portRead (s : State) (p off : Nat) : Nat :=
  let x := s.port p
  let d := s.durable
  match off with
  | 0x000 => x.crbase.toNat
  | 0x008 => x.crctl.toNat
  | 0x010 => x.crhead.toNat
  | 0x018 => x.crtail.toNat
  | 0x020 => x.apbase.toNat
  | 0x030 => x.cktier.toNat
  | 0x040 => (match d.life with | .blank => 0 | .provisioned => 1 | .operational => 2 | .rma => 3 | .decommissioned => 4) +
      b2n (decide (9 ≤ s.bringUp)) * 2 ^ 3 + d.status.toNat * 2 ^ 8
  | 0x048 => d.module.toNat
  | 0x058 => s.hwake
  | _ => 0

/-- What a read of a queue window returns (R356). -/
def State.queueRead (s : State) (w off : Nat) : Nat :=
  let q := s.hostQueue w
  match off with
  | 0x000 => fld q.name.toNat 0 64
  | 0x008 => fld q.name.toNat 64 64
  | 0x010 => q.ctl.toNat
  | 0x018 => q.status.toNat + q.accepted.toNat * 2 ^ 32
  | _ => 0

/-- REGISTER_WRITE: a write of 8 bytes to a register of tag 0xF, from a supervisor core or through BAR 0, or to one of BAR 2; while an
operation runs it waits, and one that is refused changes nothing (R79, R319, R354 to R356). -/
def execRegisterWrite (addr v : W64) (s : State) : Ans :=
  let a := addr.toNat
  if tagOf addr = 15 then
    if addrOk true addr ∧ a % 8 = 0 ∧ fld a 23 11 < Config.clusters then orStall s (s.blockWrite a 8 v.toNat false) else .next s
  else if tagOf addr = 14 ∧ fld a 34 26 = 0 ∧ a % 8 = 0 ∧ 4 ≤ s.bringUp then
    if fld a 0 32 < 2 ^ 28 then s.queueWrite (fld a 12 16) (fld a 0 12) v
    else s.portWrite (fld a 32 2) (fld a 0 32 - 2 ^ 28) v
  else .next s

/-! The host's accesses (R353 to R356) -/

/-- An access that fails is logged by the port; a read returns all ones (R354, R355). -/
def State.hostFail (s : State) (p n : Nat) (wr : Bool) : State :=
  let s := s.modPort p fun x => { x with aer := x.aer + 1 }
  if wr then s else { s with hostRead := BitVec.ofNat 4096 (2 ^ (8 * n) - 1) }

/-- BAR 0: the windows of tag 0xF, as a supervisor reaches them (R319, R354). -/
def State.hostWindow (s : State) (p off n : Nat) (wr : Bool) (v : Nat) : State :=
  let ea := mkAddr 15 off
  let ok := decide (off < 2 ^ 34 ∧ (n = 1 ∨ n = 2 ∨ n = 4 ∨ n = 8) ∧ off % n = 0) && addrOk true ea && decide (fld off 23 11 < Config.clusters) && winSizeOk ea n
  if ! ok then s.hostFail p n wr
  else if wr then match s.blockWrite ea.toNat n v true with
    | .ok t => t
    | .bad _ => s.hostFail p n wr
    | .wait h => s.ckWant h
  else match s.windowRead 0 ea n with
    | some r => if s.windowHurt ea n then s.hostFail p n wr else { s with hostRead := BitVec.ofNat 4096 (r % 2 ^ (8 * n)) }
    | none => s.hostFail p n wr

/-- The 8-byte registers that the `n` bytes at `off` reach: offset, first byte in it, bytes, place in the access. -/
def hostWords : Nat → Nat → Nat → Nat → List (Nat × Nat × Nat × Nat)
  | 0, _, _, _ => []
  | f + 1, off, n, at_ =>
    if n = 0 then [] else
    let m := Min.min n (8 - off % 8)
    (off / 8 * 8, off % 8, m, at_) :: hostWords f (off + m) (n - m) (at_ + m)

/-- The state that an operation leaves. -/
def after (s : State) (r : Ans) : State := match r with
  | .next t => t
  | _ => s

/-- A write of some bytes of an 8-byte register of a queue window: the others keep what they hold (R356). -/
def State.queueBytes (s : State) (w : Nat) (x : Nat × Nat × Nat × Nat) (v : Nat) : State :=
  let (off, o, m, at_) := x
  let new := fun (old : Nat) => putFld old (8 * o) (8 * m) (fld v (8 * at_) (8 * m))
  if 0x40 ≤ off ∧ off < 0x80 then
    let t := s.modHostQueue w fun q =>
      { q with staging := BitVec.ofNat 512 (putFld q.staging.toNat (8 * (off - 0x40)) 64 (new (fld q.staging.toNat (8 * (off - 0x40)) 64))) }
    if off = 0x78 ∧ m = 8 then t.hostPush w else t
  else if off ≤ 0x10 then after s (s.queueWrite w off (w64 (new (s.queueRead w off))))
  else s

/-- BAR 2: queue windows, then the port's control registers; a push, and a read of HQSTAT, wait for the push before them to have its
status (R354 to R356). -/
def State.hostBar2 (s : State) (p off n : Nat) (wr : Bool) (v : Nat) : State :=
  let ws := hostWords 65 off n 0
  let win := decide (off < 2 ^ 28)
  let w := fld off 12 16
  let reg := fun (x : Nat × Nat × Nat × Nat) => if win then s.queueRead w (x.1 % 4096) else s.portRead p (x.1 - 2 ^ 28)
  let last := ws.any fun x => (x.1 % 4096 == 0x78 && x.2.2.1 == 8 && wr) || (x.1 % 4096 == 0x18 && ! wr)
  if 2 ^ 29 < off + n ∨ 4096 < off % 4096 + n then s.hostFail p n wr
  else if win ∧ last ∧ s.spawns.any (fun r => r.g == Config.slots + w) then s
  else if ¬ wr then { s with hostRead := BitVec.ofNat 4096 (ws.foldl (fun a x => a + fld (reg x) (8 * x.2.1) (8 * x.2.2.1) * 2 ^ (8 * x.2.2.2)) 0) }
  else ws.foldl (fun s x =>
    if win then s.queueBytes w (x.1 % 4096, x.2) v else
    let o := x.1 - 2 ^ 28
    after s (s.portWrite p o (w64 (putFld (s.portRead p o) (8 * x.2.1) (8 * x.2.2.1) (fld v (8 * x.2.2.2) (8 * x.2.2.1)))))) s

/-- BAR 4: a host access of `n` bytes is a global access in the aperture's context; one that fails, and a read of a poisoned line, for
which the spec names no answer (DESIGN CHOICE, log entry 78), drops the write or returns all ones and is logged (R355). -/
def State.hostGlobal (s : State) (p off n : Nat) (wr : Bool) (v : Nat) : State :=
  let a := (s.port p).apbase.toNat
  let ea := mkAddr 4 (fld a 32 20 * 2 ^ 32 + off)
  match s.global 0 (BitVec.ofNat 16 a) ea n (if wr then .write else .read) (if wr then 1 else 0) with
  | .ok (t, k) =>
    if wr then t.write k n v
    else if t.poisoned k n then t.hostFail p n wr
    else { t with hostRead := BitVec.ofNat 4096 (t.nat k n) }
  | .bad t _ => t.hostFail p n wr
  | .wait h => s.ckWant h

/-- HOST_APERTURE: an access of up to 512 bytes through a BAR of port `p`: the aperture, or the windows and registers of the other two
(R353 to R355). A read of the status and the id is served from step 4 on, as every one is (R367). -/
def execHostAperture (p off n : Nat) (wr : Bool) (v : BitVec 4096) (s : State) : Ans :=
  if ¬ s.portUp p ∨ n = 0 ∨ 512 < n ∨ 4096 < off % 4096 + n then .next s else
  let o := off % 2 ^ 36
  match off / 2 ^ 36 with
  | 0 => .next (if o < 2 ^ 32 then s.hostGlobal p o n wr v.toNat else s)
  | 1 => .next (s.hostWindow p o n wr v.toNat)
  | 2 => .next (s.hostBar2 p o n wr v.toNat)
  | _ => .next s

end Sys2Proof.Machine
end

