-- ==== Sys2Proof/Machine/Regs.lean ====
section
/-! DEFINITION. The registers of a word: its dependence item (R57), the registers a load in flight may still write (R193). -/
namespace Sys2Proof.Machine

/-- Registers in one series: s0 to s31 from 0, v0 to v15 from 32, m0 to m7 from 48, q0 to q3 from 56 (R57). -/
def sN (r : BitVec 5) : Nat := r.toNat
def hN (r : BitVec 4) : Nat := 16 + r.toNat
def vN (r : BitVec 4) : Nat := 32 + r.toNat
def mN (r : BitVec 3) : Nat := 48 + r.toNat
def qN (r : BitVec 2) : Nat := 56 + r.toNat

/-- The register a word writes and those it reads through its fields, 0xFF for none (R57), and further registers it names. -/
structure Deps where
  w : Nat
  a : Nat
  b : Nat
  more : List Nat
  deriving DecidableEq, Repr

/-- The registers of an instruction; an event names none. Two rows are the model's: an AMO with sd = s0 gives w as 0, the number of its sd,
and SDROP its stream register in a with w 0xFF: DESIGN CHOICE, R57 leaves both open (log entry 73). -/
def Instr.deps (i : Instr) : Deps :=
  match i with
  | .nop | .brk | .commit | .yield | .endTask | .icinv | .fence _ _ | .jmp _ | .call _ _ => ⟨0xFF, 0xFF, 0xFF, []⟩
  | .trap a | .halt a | .wrk a _ | .ksync a | .jr a => ⟨0xFF, sN a, 0xFF, []⟩
  | .rdk d _ | .li d _ => ⟨sN d, 0xFF, 0xFF, []⟩
  | .add d a b | .sub d a b | .and d a b | .or d a b | .xor d a b | .andn d a b | .shl d a b | .shr d a b | .sra d a b | .rol d a b
  | .mul d a b | .mulh d a b | .mulhu d a b | .div d a b | .divu d a b | .rem d a b | .remu d a b | .min d a b | .max d a b | .minu d a b
  | .maxu d a b | .slt d a b | .sltu d a b | .seq d a b | .lea1 d a b | .lea2 d a b | .lea3 d a b | .amoadd d a b _ _ _
  | .amoand d a b _ _ _ | .amoor d a b _ _ _ | .amoxor d a b _ _ _ | .amosmin d a b _ _ _ | .amosmax d a b _ _ _ | .amoumin d a b _ _ _
  | .amoumax d a b _ _ _ | .amoswap d a b _ _ _ | .amocas d a b _ _ _ | .amofadd d a b _ _ | .amocas128 d a b _ _ | .nnew d a b _ _
  | .nres d a b _ _ | .ncas d a b _ _ _ | .waita d a b _ | .wake d a b _ _ | .barw d a b | .spawn d a b | .send d a b => ⟨sN d, sN a, sN b, []⟩
  | .clz d a | .ctz d a | .popc d a | .sextb d a | .sexth d a | .sextw d a | .zextw d a | .addi d a _ | .andi d a _ | .ori d a _
  | .xori d a _ | .slti d a _ | .sltiu d a _ | .shli d a _ | .shri d a _ | .srai d a _ | .ldb d a _ | .ldbs d a _ | .ldh d a _
  | .ldhs d a _ | .ldw d a _ | .ldws d a _ | .ldd d a _ | .lda d a _ _ | .nkill d a _ _ _ | .nwait d a _ | .bara d a | .recv d a
  | .setprio d a | .taskname d a | .tokacq d a | .tokrel d a => ⟨sN d, sN a, 0xFF, []⟩
  | .lih d _ _ => ⟨sN d, 0xFF, sN d, []⟩
  | .vaddt d a b _ _ | .vsubt d a b _ _ | .vmult d a b _ _ | .vmint d a b _ _ | .vmaxt d a b _ _ | .vshlt d a b _ _ | .vshrt d a b _ _
  | .vsrat d a b _ _ | .vadds d a b _ _ | .vsubs d a b _ _ | .vfsub d a b _ _ | .vfdiv d a b _ _ | .vfmint d a b _ _ | .vfmaxt d a b _ _
  | .vfmat d a b _ _ | .vperm d a b _ _ | .vadd d a b _ _ | .vsub d a b _ _ | .vmul d a b _ _ | .vmac d a b _ _ | .vand d a b _ _
  | .vor d a b _ _ | .vxor d a b _ _ | .vshl d a b _ _ | .vshr d a b _ _ | .vmin d a b _ _ | .vmax d a b _ _ | .vfadd d a b _ _
  | .vfmul d a b _ _ | .vfma d a b _ _ | .vsel d a b _ _ => ⟨vN d, vN a, vN b, []⟩
  | .vabs d a _ _ | .vneg d a _ _ | .vfsqrt d a _ _ | .vfrcp d a _ _ | .vfabs d a _ _ | .vfneg d a _ _ | .vcvt d a _ _ _ | .vscan d a _ _ => ⟨vN d, vN a, 0xFF, []⟩
  | .vcmp d a _ _ _ => ⟨0xFF, vN a, vN d, []⟩
  | .mand md ma mb _ | .mor md ma mb _ | .mxor md ma mb _ => ⟨mN md, mN ma, mN mb, []⟩
  | .mnot md ma _ => ⟨mN md, mN ma, 0xFF, []⟩
  | .mpopc sd ma _ | .mfirst sd ma _ => ⟨hN sd, mN ma, 0xFF, []⟩
  | .vsplat d sa _ _ | .vld d sa _ _ => ⟨vN d, hN sa, 0xFF, []⟩
  | .vext sd a sb _ => ⟨hN sd, vN a, hN sb, []⟩
  | .vins d sa sb _ | .vlds d sa sb _ _ => ⟨vN d, hN sa, hN sb, []⟩
  | .vredadd sd a _ _ | .vredmin sd a _ _ | .vredmax sd a _ _ => ⟨hN sd, vN a, 0xFF, []⟩
  | .vcompress d a mb _ _ => ⟨vN d, vN a, mN mb, []⟩
  | .vst d sa _ _ => ⟨0xFF, hN sa, vN d, []⟩
  | .vsts d sa sb _ _ => ⟨0xFF, hN sa, hN sb, [vN d]⟩
  | .vgath d sa b _ _ => ⟨vN d, hN sa, vN b, []⟩
  | .vscat d sa b _ _ => ⟨0xFF, hN sa, vN b, [vN d]⟩
  | .vsread d q => ⟨vN d, qN q, 0xFF, []⟩
  | .stb d a _ | .sth d a _ | .stw d a _ | .std d a _ | .stl d a _ _ => ⟨0xFF, sN a, sN d, []⟩
  | .fst d a b _ _ _ => ⟨0xFF, sN a, sN b, [sN d]⟩
  | .beq a b _ | .bne a b _ | .blt a b _ | .bge a b _ | .bltu a b _ | .bgeu a b _ => ⟨0xFF, sN a, sN b, []⟩
  | .jalr a => ⟨0xFF, sN a, 0xFF, [31]⟩
  | .ret => ⟨0xFF, 0xFF, 0xFF, [31]⟩
  | .loop a _ => ⟨sN a, sN a, 0xFF, []⟩
  | .sread d q | .speek d q | .sstat d q => ⟨sN d, qN q, 0xFF, []⟩
  | .sdrop q => ⟨0xFF, qN q, 0xFF, []⟩
  | .chld vs => ⟨0xFF, vN vs, 0xFF, []⟩
  | .cmdq vs _ _ _ => ⟨0xFF, vN vs, 0xFF, [7, vN (vs + 1)]⟩
  | .vmov d b _ _ => ⟨vN d, 0xFF, vN b, []⟩
  | .cpy _ | .cpys _ | .pack _ | .gath _ | .scat _ | .fill _ | .wload _ | .cseq _ | .copyCommandComplete _ | .stageCopyBegin _
  | .cpysItem _ | .cperrClear _ | .mctx _ | .mstg _ | .mpass _ | .tnew _ | .tfwd _ | .tread _ | .tabandon _ | .tstat _ | .arrayGrant _ _
  | .contributionArrival _ | .tfwdStatusReturn _ | .arrayIdle _ | .startPermitGrant _ | .mpassReplay _ | .mxerrClear _ | .cmdqPush _ _
  | .weightStoreRequest _ | .wsStateChange _ | .preemptSave _ | .faultPacketRelease _ | .completionRecordRelease _
  | .migrationCopyDone _ _ | .tcinvDone _ | .handOverComplete _ | .retireComplete _ | .graphNodeSpawn _ | .tmwake _ | .loadReturn _
  | .homeRequest _ _ | .homeCorrection _ | .localMemoryRequest _ | .guardNote _ | .commitComplete _ | .commitRefusal _ | .atomicAtNse _ _
  | .atomicReturn _ | .tokenRecall _ | .chainStep _ _ | .chainReturn _ | .nameOpAtSlice _ | .nameOpReturn _ | .shootDown _
  | .shootDownAck _ | .serialBlockReserve _ | .park _ | .spawnAppend _ | .sendDelivery _ | .sendStatus _ | .ksyncComplete _
  | .icinvComplete _ | .dispatch _ | .holdLimit _ | .rxring _ _ _ | .grreplay _ _ | .deadlockTrap | .tcinv _ _ | .rhreqHandOver _ _
  | .rhreqRetire _ _ | .migreq _ _ | .smpctl _ _ | .systab _ _ | .wsrightsRead _ _ | .wsrightsLoad _ _ | .wsRefreshStart _
  | .wsRefreshEnd _ | .resume _ | .restart _ | .kill _ | .preEmpt _ | .step _ | .slotView _ _ _ _ | .dhaltSet _ | .dhaltClear _
  | .ctxkill _ | .ctxkillComplete | .trstatClear _ | .hckpt _ _ | .checkpointStart _ | .checkpointMarker _ _ | .checkpointStreamDone _
  | .recovery _ | .railMonitorWindow _ | .rmfreeze _ | .linkRetrain _ _ | .linkFlit _ _ | .governorWindow _ | .throttleEntry _
  | .throttleExit _ | .gvexempt _ _ | .registerWrite _ _ | .hostAperture _ _ _ _ _ | .hqpush _ _ _ | .hlcreq _ _ | .hattest _ _
  | .hlcgo _ _ | .loadImage _ _ _ _ | .moduleReset | .linkLost _ | .powerLoss | .checkpointRangeStreamed _ => ⟨0xFF, 0xFF, 0xFF, []⟩

/-- The dependence item of word `w` (R57). -/
def depItem (w : W32) : Nat :=
  match decode w with
  | .ok i =>
    let d := Instr.deps i
    fld w.toNat 26 6 * 2 ^ 24 + d.w * 2 ^ 16 + d.a * 2 ^ 8 + d.b
  | .error _ => 0

/-- One step of the fold of R57. -/
def foldItem (f : W32) (x : Nat) : W32 := f.rotateLeft 5 ^^^ BitVec.ofNat 32 x

/-- Whether an instruction names register `r`; s0 is never awaited. -/
def Instr.names (i : Instr) (r : Nat) : Bool :=
  let d := Instr.deps i
  r != 0 && (d.w == r || d.a == r || d.b == r || d.more.contains r)

/-- The register that a load's value goes to. -/
def LoadDst.reg : LoadDst → Nat
  | .scalar d _ => sN d
  | .vector d _ _ | .whole d _ _ => vN d

end Sys2Proof.Machine
end

