-- ==== Sys2Proof/Machine/Loader.lean ====
section
/-! DEFINITION. The loader: an image checked, mapped, copied, its objects made, its names patched, its stitches spawned, its check table
built (R52 to R65, R341). What the loader software chooses, frames, homes and where the table lies, is one choice of the model (log
entry 30). -/
namespace Sys2Proof.Machine

/-! The file (R52 to R61) -/

/-- An image in host memory: its bytes and where it begins. -/
structure Image where
  mem : Tab Byte
  at_ : Nat
  len : Nat
  deriving DecidableEq, Repr

/-- The `n` bytes at `off` of the file. -/
def Image.rd (f : Image) (off n : Nat) : Nat := memNat f.mem (hostKey (f.at_ + off)) n

/-- A section header (R53). -/
structure Sec where
  name : Nat
  type : Nat
  flags : Nat
  addr : Nat
  off : Nat
  size : Nat
  align : Nat
  link : Nat
  clean : Bool
  deriving DecidableEq, Repr

/-- Section header `i` of a table at `shoff`. -/
def Image.sec (f : Image) (shoff i : Nat) : Sec :=
  let h := f.rd (shoff + 32 * i) 32
  ⟨fld h 0 32, fld h 32 8, fld h 48 16, fld h 64 64, fld h 128 32, fld h 160 32, fld h 192 8, fld h 224 32, fld h 40 8 == 0 && fld h 200 24 == 0⟩

/-- The section table. -/
def Image.secs (f : Image) : List Sec := (List.range (f.rd 8 4)).map (f.sec (f.rd 12 4))
/-- The section of a type; an absent one is empty. -/
def Image.find (f : Image) (type : Nat) : Sec := (f.secs.find? fun h => h.type == type).getD ⟨0, type, 0, 0, 0, 0, 0, 0, true⟩
/-- The index of the section of a type, or that of no section. -/
def Image.ix (f : Image) (type : Nat) : Nat := if f.secs.any (fun h => h.type == type) then f.secs.findIdx (fun h => h.type == type) else 0xFFFFFFFF
/-- Record `i` of `n` bytes of a section. -/
def Image.item (f : Image) (h : Sec) (n i : Nat) : Nat := f.rd (h.off + n * i) n
/-- Every record of `n` bytes of a section satisfies `p`, and nothing is left over. -/
def Image.allRecs (f : Image) (h : Sec) (n : Nat) (p : Nat → Bool) : Bool := h.size % n == 0 && (List.range (h.size / n)).all fun i => p (f.item h n i)

/-- Flags and link that a section of an image has, by its type (R53). -/
def secFlags (type : Nat) : Nat := if type = 1 then 5 else if type = 2 then 1 else if type = 3 ∨ type = 4 then 3 else 0
def Image.secLink (f : Image) (type : Nat) : Nat := if 6 ≤ type ∧ type ≤ 8 then f.ix 1 else if type = 10 then f.ix 13 else 0xFFFFFFFF

/-- Two ranges of the file that do not overlap. -/
def apart (a m b n : Nat) : Bool := decide (a + m ≤ b ∨ b + n ≤ a ∨ m = 0 ∨ n = 0)

/-- The header (R52). -/
def Image.headOk (f : Image) : Bool :=
  let h := f.rd 0 64
  let n := fld h 64 32
  decide (64 ≤ f.len) && fld h 0 32 == 0x49525753 && fld h 32 16 == 1 && fld h 48 8 == 2 && fld h 56 8 == 0 && decide (1 ≤ n ∧ n ≤ 64) &&
    fld h 96 32 % 8 == 0 && decide (fld h 96 32 + 32 * n ≤ f.len) && decide (fld h 128 32 < n) && (f.sec (fld h 96 32) (fld h 128 32)).type == 13 &&
    fld h 167 25 == 0 && fld h 384 128 == 0

/-- The section table (R53). -/
def Image.secsOk (f : Image) : Bool :=
  let l := f.secs
  let str := f.find 13
  let shoff := f.rd 12 4
  l.all (fun h => h.clean && decide (1 ≤ h.type ∧ h.type ≤ 13 ∧ h.type ≠ 11) && h.flags == secFlags h.type && h.link == f.secLink h.type &&
    decide (h.off + h.size ≤ f.len ∧ h.align ≤ 16 ∧ h.name < str.size) && apart 0 64 h.off h.size && apart shoff (32 * l.length) h.off h.size &&
    (! decide (1 ≤ h.type ∧ h.type ≤ 3) || h.addr == f.rd (24 + 8 * (h.type - 1)) 8)) &&
  (List.range l.length).all (fun i => (List.range i).all fun j =>
    let a := f.sec shoff i
    let b := f.sec shoff j
    a.type != b.type && apart a.off a.size b.off b.size) &&
  decide (0 < str.size) && f.rd str.off 1 == 0 && f.rd (str.off + str.size - 1) 1 == 0 && apart 0 64 shoff (32 * l.length)

/-- A symbol's value in an image, by the section that defines it (R54). -/
def symValueOk (h : Sec) (v size : Nat) : Bool :=
  match h.type with
  | 1 => decide (h.addr ≤ v ∧ v + size ≤ h.addr + h.size)
  | 2 | 3 => fld v 60 4 == 4 && decide (h.addr ≤ fld v 0 60 ∧ fld v 0 60 ≤ h.addr + h.size)
  | 4 => decide (h.addr ≤ v ∧ v ≤ h.addr + h.size ∧ v < 2 ^ 60)
  | _ => true

/-- A symbol (R54). -/
def Image.symOk (f : Image) (r : Nat) : Bool :=
  let sec := fld r 32 16
  let (binding, kind, v, size, frame) := (fld r 48 8, fld r 56 8, fld r 64 64, fld r 128 32, fld r 160 8)
  decide (fld r 0 32 < (f.find 13).size ∧ binding ≤ 2 ∧ kind ≤ 3) && fld r 168 24 == 0 && (sec == 0xFFFF || decide (sec < f.secs.length)) &&
    (binding != 2 || sec == 0xFFFF) && (kind != 3 || v == 0) &&
    (sec == 0xFFFF || kind == 3 || symValueOk (f.sec (f.rd 12 4) sec) v size) &&
    (if kind = 1 then frame % 4 == 0 && decide (8 ≤ frame ∧ frame ≤ 24) else frame == 0 && size == 0)

/-- Symbols, restart points, features (R54, R58, R59); the signatures are checked with the blocks they are of. -/
def Image.tablesOk (f : Image) : Bool :=
  let text := f.find 1
  let rising := fun (h : Sec) => (List.range (h.size / 16 - 1)).all fun i => decide (fld (f.item h 16 i) 0 32 < fld (f.item h 16 (i + 1)) 0 32)
  f.allRecs (f.find 10) 24 f.symOk &&
  f.allRecs (f.find 8) 16 (fun r => fld r 95 33 == 0 && fld r 0 2 == 0 && decide (fld r 0 32 < text.size)) && rising (f.find 8) &&
  f.allRecs (f.find 6) 16 (fun r => fld r 71 25 == 0 && fld r 96 32 == 0 && decide (fld r 0 32 ≤ fld r 32 32 ∧ fld r 32 32 ≤ text.size)) &&
  f.rd 20 4 == (List.range ((f.find 6).size / 16)).foldl (fun m i => m ||| fld (f.item (f.find 6) 16 i) 64 32) 0

/-! `.names` (R60) -/

def Image.objCount (f : Image) : Nat := if (f.find 9).size = 0 then 0 else f.rd (f.find 9).off 4
def Image.patchCount (f : Image) : Nat := if (f.find 9).size = 0 then 0 else f.rd ((f.find 9).off + 4) 4
def Image.obj (f : Image) (i : Nat) : Nat := f.rd ((f.find 9).off + 8 + 32 * i) 32
def Image.patch (f : Image) (i : Nat) : Nat := f.rd ((f.find 9).off + 8 + 32 * f.objCount + 16 * i) 16

/-- An object record whose fields R60 allows, for an image whose first cluster is `first`: the default skein has the parameters that R60
fixes, a tile's numbers are those that a TNEW can carry (R242). A barrier's count and a skein's descriptor are judged at the creation
(R287). -/
def objOk (syms first r : Nat) : Bool :=
  (if fld r 0 32 = 0xFFFFFFFF then fld r 32 8 == 3 && fld r 64 32 == 2 ^ 8 && fld r 96 11 == first else decide (fld r 0 32 < syms)) && fld r 40 24 == 0 &&
  match fld r 32 8 with
  | 1 => decide (1 ≤ fld r 64 8 ∧ fld r 64 8 ≤ 64 ∧ 1 ≤ fld r 72 8 ∧ fld r 72 8 ≤ 128 ∧ 1 ≤ fld r 80 32 ∧ fld r 112 8 ≤ 1) && fld r 131 125 == 0
  | 2 => decide (1 ≤ fld r 96 3 ∧ fld r 96 3 ≤ 5) && fld r 99 157 == 0
  | 3 => fld r 107 149 == 0
  | _ => false

/-- A patch record in order: a name in a loaded section, or the skein of a stitch (R60). -/
def Image.patchOk (f : Image) (p : Nat) : Bool :=
  let h := f.sec (f.rd 12 4) (fld p 32 16)
  let off := fld p 64 32
  decide (fld p 0 32 < f.objCount ∧ fld p 32 16 < f.secs.length) && fld p 56 8 == 0 && fld p 96 32 == 0 &&
  match fld p 48 8 with
  | 1 | 2 => decide (h.type ≤ 4 ∧ off + 8 ≤ h.size)
  | 3 => decide (h.type ≤ 4 ∧ off + 16 ≤ h.size)
  | 4 => h.type == 5 && off % 64 == 0 && decide (off + 64 ≤ h.size) && fld (f.obj (fld p 0 32)) 32 8 == 3
  | _ => false

/-- The skein's object of each stitch: its kind 4 patches. -/
def Image.skeinsOf (f : Image) (i : Nat) : List Nat :=
  ((List.range f.patchCount).map f.patch).filterMap fun p => if fld p 48 8 = 4 ∧ fld p 64 32 = 64 * i then some (fld p 0 32) else none
/-- How many stitches an image has. -/
def Image.stitches (f : Image) : Nat := (f.find 5).size / 64

/-! `.meta` (R61) -/

/-- The metadata records from `off` on: key, where the value lies, bytes; none where a record runs past the end. -/
def Image.metaFrom (f : Image) (stop : Nat) : Nat → Nat → Option (List (Nat × Nat × Nat))
  | 0, off => if off = stop then some [] else none
  | n + 1, off =>
    if off = stop then some [] else
    let len := f.rd (off + 2) 2
    let next := off + 4 + (len + 7) / 8 * 8
    if stop < next then none else (f.metaFrom stop n next).map fun l => (f.rd off 2, off + 4, len) :: l

def Image.metas (f : Image) : Option (List (Nat × Nat × Nat)) :=
  let h := f.find 12
  f.metaFrom (h.off + h.size) (h.size / 4) h.off

/-- The image's cluster set: {0} where no record gives one (R61). -/
def Image.clusters (f : Image) : List Nat :=
  match (f.metas.getD []).find? fun m => m.1 == 3 with
  | none => [0]
  | some (_, off, len) => (List.range (len / 2)).map fun i => f.rd (off + 2 * i) 2

/-- The metadata: padding of zeros, a build identifier of 16 bytes, a cluster set without repeats (R61). Two cluster sets, and an empty
one, make the file malformed, and a record with key 0, which no row of R61's table names, is ignored as one with a reserved key is: DESIGN
CHOICE, R61 says nothing of them (log entry 72). -/
def Image.metaOk (f : Image) : Bool :=
  match f.metas with
  | none => false
  | some l => l.all (fun (k, off, len) => f.rd (off + len) ((len + 7) / 8 * 8 - len) == 0 && (k != 2 || len == 16) && (k != 3 || (len % 2 == 0 && len != 0))) &&
      decide ((l.filter fun m => m.1 == 3).length ≤ 1) && f.clusters.all (fun c => decide (c < Config.clusters)) &&
      (List.range f.clusters.length).all fun i => (List.range i).all fun j => f.clusters.getD i 0 != f.clusters.getD j 0

/-- Objects, patches and stitches, each with one skein (R60, R63). -/
def Image.namesOk (f : Image) : Bool :=
  let h := f.find 9
  (f.secs.all (fun x => x.type != 9) || (decide (8 ≤ h.size) && h.size == 8 + 32 * f.objCount + 16 * f.patchCount)) &&
    (List.range f.objCount).all (fun i => objOk ((f.find 10).size / 24) (f.clusters.headD 0) (f.obj i)) &&
    decide (((List.range f.objCount).filter fun i => fld (f.obj i) 0 32 == 0xFFFFFFFF).length ≤ 1) && (List.range f.patchCount).all (fun i => f.patchOk (f.patch i)) &&
    (f.find 5).size % 64 == 0 && (List.range f.stitches).all fun i => (f.skeinsOf i).length == 1

/-! Blocks and their signatures (R56, R57, R341) -/

/-- Where word `w` at offset `pc` may pass control by a branch, JMP, CALL or LOOP, and whether it may fall through (R56). One that does not
decode may: DESIGN CHOICE, R56 speaks of instructions (log entry 74). -/
def exits (pc : Nat) (w : W32) : Option Nat × Bool :=
  let at_ := BitVec.ofNat 48 pc
  let to' := fun (n off : Nat) => some (target at_ n off).toNat
  match decode w with
  | .ok (.beq _ _ off) | .ok (.bne _ _ off) | .ok (.blt _ _ off) | .ok (.bge _ _ off) | .ok (.bltu _ _ off) | .ok (.bgeu _ _ off)
  | .ok (.loop _ off) => (to' 16 off.toNat, true)
  | .ok (.jmp off) => (to' 26 off.toNat, false)
  | .ok (.call _ off) => (to' 23 off.toNat, false)
  | .ok (.jr _) | .ok (.jalr _) | .ok .ret | .ok .endTask | .ok (.halt _) => (none, false)
  | _ => (none, true)

/-- The static predecessors of the block at `start` among the records of `.sig`, ascending. -/
def Image.preds (f : Image) (start : Nat) : List Nat :=
  let h := f.find 7
  (List.range (h.size / 16)).filterMap fun i =>
    let r := f.item h 16 i
    let last := fld r 0 32 + 4 * (fld r 32 16 - 1)
    let (t, falls) := exits last (BitVec.ofNat 32 (f.rd ((f.find 1).off + last) 4))
    if t = some start ∨ (falls ∧ last + 4 = start) then some (fld r 0 32) else none

/-- The fold of a block's head and predecessors, before its words (R57, R341). -/
def blockPrefix (any : Nat) (p : List Nat) : W32 := p.foldl foldItem (foldItem 0 (any * 2 ^ 31 + p.length % 2 ^ 16))

/-- The entry of the check table for a record of `.sig` (R341). -/
def Image.checkEntry (f : Image) (r : Nat) : Nat :=
  let p := f.preds (fld r 0 32)
  let npred := if 4 < p.length then 7 else p.length
  fld r 0 49 + npred * 2 ^ 49 + (blockPrefix (fld r 48 1) p).toNat * 2 ^ 64 + fld r 64 32 * 2 ^ 96 +
    (if 4 < p.length then 0 else p.zipIdx.foldl (fun n (a, i) => n + a * 2 ^ (128 + 32 * i)) 0)

/-- Word `i` of `.text`. -/
def Image.textWord (f : Image) (i : Nat) : W32 := BitVec.ofNat 32 (f.rd ((f.find 1).off + 4 * i) 4)
/-- Whether a word ends a block: any branch, JMP, CALL, JR-group word, LOOP, END or HALT (R56). -/
def endsBlock (pc : Nat) (w : W32) : Bool := (exits pc w).1.isSome || ! (exits pc w).2
/-- The targets of the B, J and C words of `.text` (R56). -/
def Image.targets (f : Image) : List Nat := (List.range ((f.find 1).size / 4)).filterMap fun i => (exits (4 * i) (f.textWord i)).1
/-- Whether a procedure begins at an offset of `.text`. -/
def Image.procAt (f : Image) (start : Nat) : Bool :=
  (List.range ((f.find 10).size / 24)).any fun i =>
    let r := f.item (f.find 10) 24 i
    fld r 56 8 == 1 && fld r 48 8 != 2 && fld r 64 64 == (f.find 1).addr + start
/-- Whether a CALL or a JALR stands before an offset, to which its RET returns. -/
def Image.returnsTo (f : Image) (start : Nat) : Bool :=
  start != 0 && match decode (f.textWord (start / 4 - 1)) with
    | .ok (.call _ _) | .ok (.jalr _) => true
    | _ => false

/-- A record of `.sig` is a basic block: in `.text`, no word but its last ends a block, nothing jumps into it and no procedure begins in it,
entered from anywhere where R56 says so of what an image still shows, and its signature is the fold of its items (R56, R57). -/
def Image.blockOk (f : Image) (targets : List Nat) (r : Nat) : Bool :=
  let start := fld r 0 32
  let n := fld r 32 16
  let any := fld r 48 1
  let first := start / 4
  start % 4 == 0 && decide (1 ≤ n ∧ start + 4 * n ≤ (f.find 1).size) && fld r 49 15 == 0 && fld r 96 32 == 0 &&
    (List.range (n - 1)).all (fun i => ! endsBlock (start + 4 * i) (f.textWord (first + i)) && ! f.procAt (start + 4 * (i + 1))) &&
    targets.all (fun t => decide (t ≤ start ∨ start + 4 * n ≤ t)) && (any == 1 || (! f.procAt start && ! f.returnsTo start)) &&
    BitVec.ofNat 32 (fld r 64 32) == (List.range n).foldl (fun x i => foldItem x (depItem (f.textWord (first + i)))) (blockPrefix any (f.preds start))

/-- The records of `.sig`: blocks in ascending order, none running into the next (R56). -/
def Image.sigOk (f : Image) : Bool :=
  let h := f.find 7
  let t := f.targets
  f.allRecs h 16 (f.blockOk t) && (List.range (h.size / 16 - 1)).all fun i =>
    decide (fld (f.item h 16 i) 0 32 + 4 * fld (f.item h 16 i) 32 16 ≤ fld (f.item h 16 (i + 1)) 0 32)

/-- Step 1 (R63). -/
def Image.ok (f : Image) : Bool := f.headOk && f.secsOk && f.tablesOk && f.sigOk && f.namesOk && f.metaOk

/-! Mapping (R63, R70 to R74) -/

/-- A range of `n` bytes of new frames aligned to `al`, zeroed; none where the stack has no more. -/
def State.frames (s : State) (n al : Nat) : Option (State × Nat) :=
  let off := (s.loaderNext + al - 1) / al * al
  if 0xC00000000 < off + n then none else
  let pa := Config.loaderStack.val * 2 ^ 36 + off
  some ({ s with mem := dropRange s.mem (rimKey pa) n, poison := dropRange s.poison (rimKey pa / 64) (n / 64), loaderNext := off + n }, pa)

/-- The table that an entry at `at_` points to, made where the entry is empty: none where the entry maps a page or is malformed. -/
def State.tableAtEntry (s : State) (at_ size : Nat) : Option (State × Nat) :=
  let e := s.nat (rimKey at_) 8
  if bit e 0 then (if bit e 1 || bit e 7 || fld e 48 16 != 0 then none else some (s, fld e 8 40 * 256))
  else (s.frames size size).map fun (s, pa) => (s.put (rimKey at_) 8 (1 + pa), pa)

/-- The context's descriptor with a page table and a region home table, made where it has none (R71, R72). -/
def State.loaderDesc (s : State) (ctx : BitVec 16) : Option State :=
  let at_ := (s.die 0).ctxtab.toNat + 64 * ctx.toNat
  let d := s.nat (rimKey at_) 64
  (if bit d 0 then some s else (s.frames (2 ^ 16) (2 ^ 16)).map fun (s, pa) => s.put (rimKey at_) 8 (1 + pa)).bind fun s =>
  if bit d 0 && bit d 64 then some s else (s.frames (2 ^ 18) (2 ^ 18)).map fun (s, pa) => s.put (rimKey (at_ + 8)) 8 (1 + pa)

/-- One page of 64 KiB mapped at `va` on the frame at `pa`; the entry's place, none where the page is mapped already (R63, R74). -/
def State.mapPage (s : State) (ctx : BitVec 16) (va pa flags : Nat) : Option (State × Nat) :=
  let root := fld (s.desc 0 ctx) 8 40 * 256
  (s.tableAtEntry (root + 8 * ptIndex 4 va) (ptSize 3)).bind fun (s, t3) =>
  (s.tableAtEntry (t3 + 8 * ptIndex 3 va) (ptSize 2)).bind fun (s, t2) =>
  (s.tableAtEntry (t2 + 8 * ptIndex 2 va) (ptSize 1)).bind fun (s, t1) =>
  let at_ := t1 + 8 * ptIndex 1 va
  if bit (s.nat (rimKey at_) 8) 0 then none else some (s.put (rimKey at_) 8 (3 + flags + pa), at_)

/-- A region's home set to cluster `cl` where it has none (R72). -/
def State.homeRegion (s : State) (ctx : BitVec 16) (va cl : Nat) : Option State :=
  let top := fld (s.desc 0 ctx) 72 40 * 256 + 8 * fld va 37 15
  let e := s.nat (rimKey top) 8
  (if bit e 0 then some (s, fld e 8 40 * 256) else (s.frames (2 ^ 17) (2 ^ 17)).map fun (s, pa) => (s.put (rimKey top) 8 (1 + pa), pa)).map fun (s, leaf) =>
  let at_ := leaf + 2 * fld va 21 16
  if bit (s.nat (rimKey at_) 2) 15 then s else s.put (rimKey at_) 2 (cl + 2 ^ 15)

/-- A load under way: the state, the entries it has written, the objects it has made. -/
structure Load where
  s : State
  leaves : List Nat
  names : List W128
  deriving DecidableEq, Repr

/-- `n` pages from `va` on mapped at `pa`; the load as far as it came, and whether it came to the end. -/
def Load.mapRun (l : Load) (ctx : BitVec 16) (cl va pa flags : Nat) : Nat → Load × Bool
  | 0 => (l, true)
  | n + 1 => match (l.s.homeRegion ctx va cl).bind fun s => s.mapPage ctx va pa flags with
    | none => (l, false)
    | some (s, at_) => Load.mapRun { l with s := s, leaves := at_ :: l.leaves } ctx cl (va + 2 ^ 16) (pa + 2 ^ 16) flags n

/-- `size` bytes at `va` mapped on new frames: where the first byte lies, none where mapping fails. -/
def Load.mapSec (l : Load) (ctx : BitVec 16) (cl va size flags : Nat) : Load × Option Nat :=
  if size = 0 then (l, some 0)
  else if 2 ^ 52 < va + size then (l, none)
  else
    let lo := va / 2 ^ 16
    let n := (va + size + 2 ^ 16 - 1) / 2 ^ 16 - lo
    match l.s.frames (n * 2 ^ 16) (2 ^ 16) with
    | none => (l, none)
    | some (s, pa) =>
      let (l, ok) := Load.mapRun { l with s := s } ctx cl (lo * 2 ^ 16) pa flags n
      (l, if ok then some (pa + va % 2 ^ 16) else none)

/-- A failed load: its pages unmapped, its objects killed as by a synchronous NKILL (R65). -/
def Load.undo (l : Load) : State :=
  let s := l.leaves.foldl (fun s at_ => s.put (rimKey at_) 8 0) l.s
  l.names.foldl (fun s nm => s.nameDies (nmSerial nm) none none) s

/-! Objects (R63 step 5) -/

/-- Object record `r` made for a load in context `ctx`, whose first cluster is `cl`: the status and its name (R4, R63). A tile in a
quarantined unit is refused as one in a fenced cluster: DESIGN CHOICE, R65 names only the latter (log entry 75). -/
def State.makeRecord (s : State) (ctx : BitVec 16) (cl r : Nat) : Met (State × Nat × W128) :=
  let named := fun (res : Met (State × Except Nat W128)) => match res with
    | .ok (s, .ok nm) => Met.ok (s, stOK, nm)
    | .ok (s, .error st) => .ok (s, st, 0)
    | .bad f => .bad f
    | .wait h => .wait h
  let op := fun (core : Nat) => (⟨s.nextId, Config.slots, clusterOf core, core, ctx, .nres, 0, 0, 0, .relaxed, .none, false, [], [], [], none⟩ : NameOp)
  let blk := fun (cls hint params : Nat) => BitVec.ofNat 1024 (cls + hint * 2 ^ 16 + 2 ^ 27 + params * 2 ^ 512)
  match fld r 32 8 with
  | 1 =>
    let u := fld r 120 11
    if (s.cluster u).matrixQuarantined then .ok (s, stPERM, 0)
    else named (s.newTile u ctx (fld r 64 8) (fld r 72 8) (fld r 80 32) (bit r 112))
  | 2 => named (s.make (op (32 * cl)) (blk 2 cl (fld r 64 35)))
  | _ =>
    let u := fld r 96 11
    named (s.make (op (32 * u)) (blk 3 u (fld r 64 32)))

/-- How a stage of the load ends: well, with a cause, object index and code, or it waits, for serials or for memory to be streamed. -/
inductive Stop where
  | none
  | fail (cause ix code : Nat)
  | wait (keys : List Nat)
  deriving DecidableEq, Repr

/-- The objects from `i` on, in record order. -/
def Load.objects (l : Load) (f : Image) (ctx : BitVec 16) : Nat → Nat → Load × Stop
  | _, 0 => (l, .none)
  | i, n + 1 => match l.s.makeRecord ctx (f.clusters.headD 0) (f.obj i) with
    | .wait h => (l, .wait h)
    | .bad _ => (l, .fail 4 i stPERM)
    | .ok (s, st, nm) => if st ≠ stOK then ({ l with s := s }, .fail 4 i st)
      else Load.objects { l with s := s, names := l.names ++ [nm] } f ctx (i + 1) n

/-! Contents, patches and stitches -/

/-- The cores of the image's cluster set. -/
def Image.cores (f : Image) : List Nat := f.clusters.flatMap fun c => (List.range 32).map (32 * c + ·)

/-- `n` bytes of value `v` at offset `off` of a loaded section of a type: the copies in global memory at `pa`, or in every core's local
memory. -/
def State.placeAt (s : State) (f : Image) (pa : Nat → Nat) (type off n v : Nat) : State :=
  if type = 4 then f.cores.foldl (fun s c => s.write (localKey c ((f.find 4).addr + off)) n v) s
  else s.write (rimKey (pa type + off)) n v

/-- The patches of kinds 1 to 3 (R60). -/
def Load.patches (l : Load) (f : Image) (pa : Nat → Nat) : State :=
  ((List.range f.patchCount).map f.patch).foldl (fun s p =>
    let nm := (l.names.getD (fld p 0 32) 0).toNat
    let type := (f.sec (f.rd 12 4) (fld p 32 16)).type
    match fld p 48 8 with
    | 1 => s.placeAt f pa type (fld p 64 32) 8 (fld nm 0 64)
    | 2 => s.placeAt f pa type (fld p 64 32) 8 (fld nm 64 64)
    | 3 => s.placeAt f pa type (fld p 64 32) 16 nm
    | _ => s) l.s

/-- The stitches from `i` on appended to their skeins in order; the object of one that is refused, with its status (log entry 30). -/
def Load.spawns (l : Load) (f : Image) (ctx : BitVec 16) : Nat → Nat → Load × Stop
  | _, 0 => (l, .none)
  | i, n + 1 =>
    let ix := (f.skeinsOf i).headD 0
    let (s, st, _) := l.s.append (l.names.getD ix 0) ctx outside (BitVec.ofNat 512 (f.item (f.find 5) 64 i)) [] [] none
    if st ≠ stOK then ({ l with s := s }, .fail 4 ix st) else Load.spawns { l with s := s } f ctx (i + 1) n

/-! The check table (R341) -/

/-- A signature window written on every die whose clusters run the image: the lowest that is not valid (R341, R351). -/
def State.sigWindows (s : State) (f : Image) (ctx : BitVec 16) (table : Nat) : State :=
  let text := f.find 1
  (List.range 64).foldl (fun s d =>
    if f.clusters.all (fun c => c / 32 != d) then s else
    match (List.range 16).find? fun w => ! bit ((s.die d).gov.sgwin.get 0 (4 * w + 3)).toNat 16 with
    | none => s
    | some w => s.modDie d fun x =>
      let t := (((x.gov.sgwin.set 0 (4 * w) (w64 text.addr)).set 0 (4 * w + 1) (w64 text.size)).set 0 (4 * w + 2) (w64 table)).set 0 (4 * w + 3)
        (w64 (ctx.toNat + 2 ^ 16))
      { x with gov := { x.gov with sgwin := t } }) s

/-- Where the check table goes: the first 2 MiB boundary after the sections. -/
def Image.tableVa (f : Image) : Nat :=
  let stop := [1, 2, 3].foldl (fun m t => Max.max m ((f.find t).addr + (f.find t).size)) 0
  (stop + 2 ^ 21 - 1) / 2 ^ 21 * 2 ^ 21

/-! The load (R63 to R65) -/

/-- A live task or a stitch of context `ctx` that has not been dispatched (R65). -/
def State.inUse (s : State) (ctx : BitVec 16) : Bool :=
  s.slots.any (fun e => e.2.state != .empty && e.2.ctx == ctx) || s.cores.any (fun e => e.2.waitList.any fun w => w.slot.ctx == ctx) ||
    s.skeins.any (fun k => k.ctx == ctx && ! k.items.isEmpty) || s.spawns.any (fun r => r.ctx == ctx) ||
    s.clusters.any (fun e => e.2.ready.any fun r => stCtx r.st == ctx) || s.parks.any (fun p => stCtx p.st == ctx) ||
    s.parked.any (fun p => stCtx p.st == ctx) || s.graph.any fun n => n.ctx == ctx

/-- Steps 3 and 4: sections and check table mapped, contents copied, `.local` written; where each section lies (R63, R341). -/
def Load.place (l : Load) (f : Image) (ctx : BitVec 16) : Load × Option (Nat → Nat) :=
  let cl := f.clusters.headD 0
  let (t, c, d, lc) := (f.find 1, f.find 2, f.find 3, f.find 4)
  match l.s.loaderDesc ctx with
  | none => (l, none)
  | some s =>
    match Load.mapSec { l with s := s } ctx cl t.addr t.size 8 with
    | (l, none) => (l, none)
    | (l, some p1) => match l.mapSec ctx cl c.addr c.size 0 with
      | (l, none) => (l, none)
      | (l, some p2) => match l.mapSec ctx cl d.addr d.size 4 with
        | (l, none) => (l, none)
        | (l, some p3) => match l.mapSec ctx cl f.tableVa (2 * (f.find 7).size) 0 with
          | (l, none) => (l, none)
          | (l, some p4) =>
            let copy := fun (s : State) (h : Sec) (pa : Nat) => s.write (rimKey pa) h.size (f.rd h.off h.size)
            let s := copy (copy (copy l.s t p1) c p2) d p3
            let s := (List.range ((f.find 7).size / 16)).foldl (fun s i => s.write (rimKey (p4 + 32 * i)) 32 (f.checkEntry (f.item (f.find 7) 16 i))) s
            if lc.size ≠ 0 ∧ 0x24000 < lc.addr + lc.size then ({ l with s := s }, none) else
            let s := f.cores.foldl (fun s k => s.write (localKey k lc.addr) lc.size (f.rd lc.off lc.size)) s
            ({ l with s := s }, some fun type => if type = 1 then p1 else if type = 2 then p2 else p3)

/-- The steps of R63 from the second on: the load, and how it ends. -/
def Load.run (l : Load) (f : Image) (ctx : BitVec 16) : Load × Stop :=
  if f.clusters.any (fun c => (l.s.cluster c).fenced) || f.cores.all (fun k => ! (l.s.enabled k && maskHas (l.s.coreFeat k) (f.rd 20 4)))
  then (l, .fail 2 0 0) else
  match l.place f ctx with
  | (l, none) => (l, .fail 3 0 0)
  | (l, some pa) => match l.objects f ctx 0 f.objCount with
    | (l, .none) =>
      let s := Load.patches l f pa
      let s := f.clusters.foldl (fun s c => s.modCluster c fun k => { k with icache := [] }) s
      (match Load.spawns { l with s := s } f ctx 0 f.stitches with
        | (l, .none) => (if (f.find 7).size = 0 then l else { l with s := l.s.sigWindows f ctx f.tableVa }, .none)
        | r => r)
    | r => r

/-- LOAD_IMAGE: the image of `len` bytes at host address `img` is loaded into context `ctx`; a kind 1 record tells. A load that needs a
block of serials waits for it, and one that comes while a checkpoint streams waits for its end, so that no write of it meets memory not yet
streamed (R63 to R65, R281, R346, R358, R367; log entry 27). -/
def execLoadImage (p : Nat) (ctx : BitVec 16) (img : W64) (len : Nat) (s : State) : Ans :=
  if ¬ s.portUp p ∨ ¬ s.recordRoom p then .next s else
  let tell := fun (s : State) (cause ix code : Nat) => s.record p (hostRecord 1 cause ctx ix 0 code)
  let f : Image := ⟨s.mem, img.toNat, len⟩
  if s.bringUp < 9 then .next (tell s stPERM 0 0)
  else if s.inUse ctx then .next (tell s 5 0 0)
  else if ¬ f.ok then .next (tell s 1 0 0)
  else if s.streaming then .next s
  else match Load.run ⟨s, [], []⟩ f ctx with
    | (_, .wait h) => .next (s.ckWant h)
    | (l, .none) => .next (tell l.s 0 0 0)
    | (l, .fail cause ix code) => .next (tell l.undo cause ix code)

end Sys2Proof.Machine
end

