-- ==== Sys2Proof/Machine/Dispatch.lean ====
section
/-! DEFINITION. One arm per instruction, each one direct call of its meaning. -/
namespace Sys2Proof.Machine

/-- What one whole and indivisible step does (R16 to R26 and the rules each meaning cites). -/
def exec (i : Instr) (s : State) : Host.Outcome State Fault Refusal :=
  match i with
  | .nop => Sys2Proof.Machine.execNop s
  | .trap a => Sys2Proof.Machine.execTrap a s
  | .brk => Sys2Proof.Machine.execBrk s
  | .halt a => Sys2Proof.Machine.execHalt a s
  | .rdk d b => Sys2Proof.Machine.execRdk d b s
  | .wrk a b => Sys2Proof.Machine.execWrk a b s
  | .commit => Sys2Proof.Machine.execCommit s
  | .yield => Sys2Proof.Machine.execYield s
  | .endTask => Sys2Proof.Machine.execEndTask s
  | .icinv => Sys2Proof.Machine.execIcinv s
  | .ksync a => Sys2Proof.Machine.execKsync a s
  | .add d a b => Sys2Proof.Machine.execAdd d a b s
  | .sub d a b => Sys2Proof.Machine.execSub d a b s
  | .and d a b => Sys2Proof.Machine.execAnd d a b s
  | .or d a b => Sys2Proof.Machine.execOr d a b s
  | .xor d a b => Sys2Proof.Machine.execXor d a b s
  | .andn d a b => Sys2Proof.Machine.execAndn d a b s
  | .shl d a b => Sys2Proof.Machine.execShl d a b s
  | .shr d a b => Sys2Proof.Machine.execShr d a b s
  | .sra d a b => Sys2Proof.Machine.execSra d a b s
  | .rol d a b => Sys2Proof.Machine.execRol d a b s
  | .mul d a b => Sys2Proof.Machine.execMul d a b s
  | .mulh d a b => Sys2Proof.Machine.execMulh d a b s
  | .mulhu d a b => Sys2Proof.Machine.execMulhu d a b s
  | .div d a b => Sys2Proof.Machine.execDiv d a b s
  | .divu d a b => Sys2Proof.Machine.execDivu d a b s
  | .rem d a b => Sys2Proof.Machine.execRem d a b s
  | .remu d a b => Sys2Proof.Machine.execRemu d a b s
  | .min d a b => Sys2Proof.Machine.execMin d a b s
  | .max d a b => Sys2Proof.Machine.execMax d a b s
  | .minu d a b => Sys2Proof.Machine.execMinu d a b s
  | .maxu d a b => Sys2Proof.Machine.execMaxu d a b s
  | .slt d a b => Sys2Proof.Machine.execSlt d a b s
  | .sltu d a b => Sys2Proof.Machine.execSltu d a b s
  | .seq d a b => Sys2Proof.Machine.execSeq d a b s
  | .clz d a => Sys2Proof.Machine.execClz d a s
  | .ctz d a => Sys2Proof.Machine.execCtz d a s
  | .popc d a => Sys2Proof.Machine.execPopc d a s
  | .sextb d a => Sys2Proof.Machine.execSextb d a s
  | .sexth d a => Sys2Proof.Machine.execSexth d a s
  | .sextw d a => Sys2Proof.Machine.execSextw d a s
  | .zextw d a => Sys2Proof.Machine.execZextw d a s
  | .lea1 d a b => Sys2Proof.Machine.execLea1 d a b s
  | .lea2 d a b => Sys2Proof.Machine.execLea2 d a b s
  | .lea3 d a b => Sys2Proof.Machine.execLea3 d a b s
  | .addi d a imm => Sys2Proof.Machine.execAddi d a imm s
  | .andi d a imm => Sys2Proof.Machine.execAndi d a imm s
  | .ori d a imm => Sys2Proof.Machine.execOri d a imm s
  | .xori d a imm => Sys2Proof.Machine.execXori d a imm s
  | .slti d a imm => Sys2Proof.Machine.execSlti d a imm s
  | .sltiu d a imm => Sys2Proof.Machine.execSltiu d a imm s
  | .shli d a amt => Sys2Proof.Machine.execShli d a amt s
  | .shri d a amt => Sys2Proof.Machine.execShri d a amt s
  | .srai d a amt => Sys2Proof.Machine.execSrai d a amt s
  | .lih d pos imm => Sys2Proof.Machine.execLih d pos imm s
  | .li d imm => Sys2Proof.Machine.execLi d imm s
  | .vaddt d a b et mk => Sys2Proof.Machine.execVaddt d a b et mk s
  | .vsubt d a b et mk => Sys2Proof.Machine.execVsubt d a b et mk s
  | .vmult d a b et mk => Sys2Proof.Machine.execVmult d a b et mk s
  | .vmint d a b et mk => Sys2Proof.Machine.execVmint d a b et mk s
  | .vmaxt d a b et mk => Sys2Proof.Machine.execVmaxt d a b et mk s
  | .vabs d a et mk => Sys2Proof.Machine.execVabs d a et mk s
  | .vneg d a et mk => Sys2Proof.Machine.execVneg d a et mk s
  | .vshlt d a b et mk => Sys2Proof.Machine.execVshlt d a b et mk s
  | .vshrt d a b et mk => Sys2Proof.Machine.execVshrt d a b et mk s
  | .vsrat d a b et mk => Sys2Proof.Machine.execVsrat d a b et mk s
  | .vadds d a b et mk => Sys2Proof.Machine.execVadds d a b et mk s
  | .vsubs d a b et mk => Sys2Proof.Machine.execVsubs d a b et mk s
  | .vfsub d a b et mk => Sys2Proof.Machine.execVfsub d a b et mk s
  | .vfdiv d a b et mk => Sys2Proof.Machine.execVfdiv d a b et mk s
  | .vfsqrt d a et mk => Sys2Proof.Machine.execVfsqrt d a et mk s
  | .vfrcp d a et mk => Sys2Proof.Machine.execVfrcp d a et mk s
  | .vfmint d a b et mk => Sys2Proof.Machine.execVfmint d a b et mk s
  | .vfmaxt d a b et mk => Sys2Proof.Machine.execVfmaxt d a b et mk s
  | .vfabs d a et mk => Sys2Proof.Machine.execVfabs d a et mk s
  | .vfneg d a et mk => Sys2Proof.Machine.execVfneg d a et mk s
  | .vfmat d a b et mk => Sys2Proof.Machine.execVfmat d a b et mk s
  | .vcmp d a cond et mk => Sys2Proof.Machine.execVcmp d a cond et mk s
  | .mand md ma mb et => Sys2Proof.Machine.execMand md ma mb et s
  | .mor md ma mb et => Sys2Proof.Machine.execMor md ma mb et s
  | .mxor md ma mb et => Sys2Proof.Machine.execMxor md ma mb et s
  | .mnot md ma et => Sys2Proof.Machine.execMnot md ma et s
  | .mpopc sd ma et => Sys2Proof.Machine.execMpopc sd ma et s
  | .mfirst sd ma et => Sys2Proof.Machine.execMfirst sd ma et s
  | .vcvt d a dt et rm => Sys2Proof.Machine.execVcvt d a dt et rm s
  | .vsplat d sa et mk => Sys2Proof.Machine.execVsplat d sa et mk s
  | .vext sd a sb et => Sys2Proof.Machine.execVext sd a sb et s
  | .vins d sa sb et => Sys2Proof.Machine.execVins d sa sb et s
  | .vredadd sd a et mk => Sys2Proof.Machine.execVredadd sd a et mk s
  | .vredmin sd a et mk => Sys2Proof.Machine.execVredmin sd a et mk s
  | .vredmax sd a et mk => Sys2Proof.Machine.execVredmax sd a et mk s
  | .vscan d a et mk => Sys2Proof.Machine.execVscan d a et mk s
  | .vperm d a b et mk => Sys2Proof.Machine.execVperm d a b et mk s
  | .vcompress d a mb et mk => Sys2Proof.Machine.execVcompress d a mb et mk s
  | .vld d sa et mk => Sys2Proof.Machine.execVld d sa et mk s
  | .vst d sa et mk => Sys2Proof.Machine.execVst d sa et mk s
  | .vlds d sa sb et mk => Sys2Proof.Machine.execVlds d sa sb et mk s
  | .vsts d sa sb et mk => Sys2Proof.Machine.execVsts d sa sb et mk s
  | .vgath d sa b et mk => Sys2Proof.Machine.execVgath d sa b et mk s
  | .vscat d sa b et mk => Sys2Proof.Machine.execVscat d sa b et mk s
  | .vsread d q => Sys2Proof.Machine.execVsread d q s
  | .ldb d a imm => Sys2Proof.Machine.execLdb d a imm s
  | .ldbs d a imm => Sys2Proof.Machine.execLdbs d a imm s
  | .ldh d a imm => Sys2Proof.Machine.execLdh d a imm s
  | .ldhs d a imm => Sys2Proof.Machine.execLdhs d a imm s
  | .ldw d a imm => Sys2Proof.Machine.execLdw d a imm s
  | .ldws d a imm => Sys2Proof.Machine.execLdws d a imm s
  | .ldd d a imm => Sys2Proof.Machine.execLdd d a imm s
  | .stb d a imm => Sys2Proof.Machine.execStb d a imm s
  | .sth d a imm => Sys2Proof.Machine.execSth d a imm s
  | .stw d a imm => Sys2Proof.Machine.execStw d a imm s
  | .std d a imm => Sys2Proof.Machine.execStd d a imm s
  | .lda d a scope size => Sys2Proof.Machine.execLda d a scope size s
  | .stl d a scope size => Sys2Proof.Machine.execStl d a scope size s
  | .fst d a b scope order size => Sys2Proof.Machine.execFst d a b scope order size s
  | .fence scope order => Sys2Proof.Machine.execFence scope order s
  | .amoadd d a b scope order size => Sys2Proof.Machine.execAmoadd d a b scope order size s
  | .amoand d a b scope order size => Sys2Proof.Machine.execAmoand d a b scope order size s
  | .amoor d a b scope order size => Sys2Proof.Machine.execAmoor d a b scope order size s
  | .amoxor d a b scope order size => Sys2Proof.Machine.execAmoxor d a b scope order size s
  | .amosmin d a b scope order size => Sys2Proof.Machine.execAmosmin d a b scope order size s
  | .amosmax d a b scope order size => Sys2Proof.Machine.execAmosmax d a b scope order size s
  | .amoumin d a b scope order size => Sys2Proof.Machine.execAmoumin d a b scope order size s
  | .amoumax d a b scope order size => Sys2Proof.Machine.execAmoumax d a b scope order size s
  | .amoswap d a b scope order size => Sys2Proof.Machine.execAmoswap d a b scope order size s
  | .amocas d a b scope order size => Sys2Proof.Machine.execAmocas d a b scope order size s
  | .amofadd d a b scope order => Sys2Proof.Machine.execAmofadd d a b scope order s
  | .amocas128 d a b scope order => Sys2Proof.Machine.execAmocas128 d a b scope order s
  | .nnew d a b scope order => Sys2Proof.Machine.execNnew d a b scope order s
  | .nkill d a scope order sync => Sys2Proof.Machine.execNkill d a scope order sync s
  | .nres d a b scope order => Sys2Proof.Machine.execNres d a b scope order s
  | .ncas d a b scope order live => Sys2Proof.Machine.execNcas d a b scope order live s
  | .nwait d a scope => Sys2Proof.Machine.execNwait d a scope s
  | .waita d a b scope => Sys2Proof.Machine.execWaita d a b scope s
  | .wake d a b scope order => Sys2Proof.Machine.execWake d a b scope order s
  | .bara d a => Sys2Proof.Machine.execBara d a s
  | .barw d a b => Sys2Proof.Machine.execBarw d a b s
  | .beq a b off => Sys2Proof.Machine.execBeq a b off s
  | .bne a b off => Sys2Proof.Machine.execBne a b off s
  | .blt a b off => Sys2Proof.Machine.execBlt a b off s
  | .bge a b off => Sys2Proof.Machine.execBge a b off s
  | .bltu a b off => Sys2Proof.Machine.execBltu a b off s
  | .bgeu a b off => Sys2Proof.Machine.execBgeu a b off s
  | .jmp off => Sys2Proof.Machine.execJmp off s
  | .call fsz off => Sys2Proof.Machine.execCall fsz off s
  | .jr a => Sys2Proof.Machine.execJr a s
  | .jalr a => Sys2Proof.Machine.execJalr a s
  | .ret => Sys2Proof.Machine.execRet s
  | .loop a off => Sys2Proof.Machine.execLoop a off s
  | .spawn d a b => Sys2Proof.Machine.execSpawn d a b s
  | .send d a b => Sys2Proof.Machine.execSend d a b s
  | .recv d a => Sys2Proof.Machine.execRecv d a s
  | .setprio d a => Sys2Proof.Machine.execSetprio d a s
  | .taskname d a => Sys2Proof.Machine.execTaskname d a s
  | .sread d q => Sys2Proof.Machine.execSread d q s
  | .speek d q => Sys2Proof.Machine.execSpeek d q s
  | .sstat d q => Sys2Proof.Machine.execSstat d q s
  | .sdrop q => Sys2Proof.Machine.execSdrop q s
  | .chld vs => Sys2Proof.Machine.execChld vs s
  | .cmdq vs eng n chk => Sys2Proof.Machine.execCmdq vs eng n chk s
  | .tokacq d a => Sys2Proof.Machine.execTokacq d a s
  | .tokrel d a => Sys2Proof.Machine.execTokrel d a s
  | .vadd d a b twist mk => Sys2Proof.Machine.execVadd d a b twist mk s
  | .vsub d a b twist mk => Sys2Proof.Machine.execVsub d a b twist mk s
  | .vmul d a b twist mk => Sys2Proof.Machine.execVmul d a b twist mk s
  | .vmac d a b twist mk => Sys2Proof.Machine.execVmac d a b twist mk s
  | .vand d a b twist mk => Sys2Proof.Machine.execVand d a b twist mk s
  | .vor d a b twist mk => Sys2Proof.Machine.execVor d a b twist mk s
  | .vxor d a b twist mk => Sys2Proof.Machine.execVxor d a b twist mk s
  | .vshl d a b twist mk => Sys2Proof.Machine.execVshl d a b twist mk s
  | .vshr d a b twist mk => Sys2Proof.Machine.execVshr d a b twist mk s
  | .vmin d a b twist mk => Sys2Proof.Machine.execVmin d a b twist mk s
  | .vmax d a b twist mk => Sys2Proof.Machine.execVmax d a b twist mk s
  | .vfadd d a b twist mk => Sys2Proof.Machine.execVfadd d a b twist mk s
  | .vfmul d a b twist mk => Sys2Proof.Machine.execVfmul d a b twist mk s
  | .vfma d a b twist mk => Sys2Proof.Machine.execVfma d a b twist mk s
  | .vsel d a b twist mk => Sys2Proof.Machine.execVsel d a b twist mk s
  | .vmov d b twist mk => Sys2Proof.Machine.execVmov d b twist mk s
  | .cpy c => Sys2Proof.Machine.execCpy c s
  | .cpys c => Sys2Proof.Machine.execCpys c s
  | .pack c => Sys2Proof.Machine.execPack c s
  | .gath c => Sys2Proof.Machine.execGath c s
  | .scat c => Sys2Proof.Machine.execScat c s
  | .fill c => Sys2Proof.Machine.execFill c s
  | .wload c => Sys2Proof.Machine.execWload c s
  | .cseq c => Sys2Proof.Machine.execCseq c s
  | .copyCommandComplete c => Sys2Proof.Machine.execCopyCommandComplete c s
  | .stageCopyBegin c => Sys2Proof.Machine.execStageCopyBegin c s
  | .cpysItem c => Sys2Proof.Machine.execCpysItem c s
  | .cperrClear g => Sys2Proof.Machine.execCperrClear g s
  | .mctx c => Sys2Proof.Machine.execMctx c s
  | .mstg c => Sys2Proof.Machine.execMstg c s
  | .mpass c => Sys2Proof.Machine.execMpass c s
  | .tnew c => Sys2Proof.Machine.execTnew c s
  | .tfwd c => Sys2Proof.Machine.execTfwd c s
  | .tread c => Sys2Proof.Machine.execTread c s
  | .tabandon c => Sys2Proof.Machine.execTabandon c s
  | .tstat c => Sys2Proof.Machine.execTstat c s
  | .arrayGrant cl residueOk => Sys2Proof.Machine.execArrayGrant cl residueOk s
  | .contributionArrival n => Sys2Proof.Machine.execContributionArrival n s
  | .tfwdStatusReturn n => Sys2Proof.Machine.execTfwdStatusReturn n s
  | .arrayIdle cl => Sys2Proof.Machine.execArrayIdle cl s
  | .startPermitGrant die => Sys2Proof.Machine.execStartPermitGrant die s
  | .mpassReplay c => Sys2Proof.Machine.execMpassReplay c s
  | .mxerrClear g => Sys2Proof.Machine.execMxerrClear g s
  | .cmdqPush c eng => Sys2Proof.Machine.execCmdqPush c eng s
  | .weightStoreRequest n => Sys2Proof.Machine.execWeightStoreRequest n s
  | .wsStateChange die => Sys2Proof.Machine.execWsStateChange die s
  | .preemptSave g => Sys2Proof.Machine.execPreemptSave g s
  | .faultPacketRelease die => Sys2Proof.Machine.execFaultPacketRelease die s
  | .completionRecordRelease port => Sys2Proof.Machine.execCompletionRecordRelease port s
  | .migrationCopyDone die n => Sys2Proof.Machine.execMigrationCopyDone die n s
  | .tcinvDone die => Sys2Proof.Machine.execTcinvDone die s
  | .handOverComplete die => Sys2Proof.Machine.execHandOverComplete die s
  | .retireComplete die => Sys2Proof.Machine.execRetireComplete die s
  | .graphNodeSpawn n => Sys2Proof.Machine.execGraphNodeSpawn n s
  | .tmwake die => Sys2Proof.Machine.execTmwake die s
  | .loadReturn n => Sys2Proof.Machine.execLoadReturn n s
  | .homeRequest n peer => Sys2Proof.Machine.execHomeRequest n peer s
  | .homeCorrection n => Sys2Proof.Machine.execHomeCorrection n s
  | .localMemoryRequest n => Sys2Proof.Machine.execLocalMemoryRequest n s
  | .guardNote n => Sys2Proof.Machine.execGuardNote n s
  | .commitComplete g => Sys2Proof.Machine.execCommitComplete g s
  | .commitRefusal g => Sys2Proof.Machine.execCommitRefusal g s
  | .atomicAtNse n peer => Sys2Proof.Machine.execAtomicAtNse n peer s
  | .atomicReturn g => Sys2Proof.Machine.execAtomicReturn g s
  | .tokenRecall n => Sys2Proof.Machine.execTokenRecall n s
  | .chainStep n peer => Sys2Proof.Machine.execChainStep n peer s
  | .chainReturn n => Sys2Proof.Machine.execChainReturn n s
  | .nameOpAtSlice n => Sys2Proof.Machine.execNameOpAtSlice n s
  | .nameOpReturn g => Sys2Proof.Machine.execNameOpReturn g s
  | .shootDown n => Sys2Proof.Machine.execShootDown n s
  | .shootDownAck n => Sys2Proof.Machine.execShootDownAck n s
  | .serialBlockReserve ok => Sys2Proof.Machine.execSerialBlockReserve ok s
  | .park n => Sys2Proof.Machine.execPark n s
  | .spawnAppend n => Sys2Proof.Machine.execSpawnAppend n s
  | .sendDelivery n => Sys2Proof.Machine.execSendDelivery n s
  | .sendStatus g => Sys2Proof.Machine.execSendStatus g s
  | .ksyncComplete g => Sys2Proof.Machine.execKsyncComplete g s
  | .icinvComplete g => Sys2Proof.Machine.execIcinvComplete g s
  | .dispatch g => Sys2Proof.Machine.execDispatch g s
  | .holdLimit g => Sys2Proof.Machine.execHoldLimit g s
  | .rxring g w v => Sys2Proof.Machine.execRxring g w v s
  | .grreplay g v => Sys2Proof.Machine.execGrreplay g v s
  | .deadlockTrap => Sys2Proof.Machine.execDeadlockTrap s
  | .tcinv die v => Sys2Proof.Machine.execTcinv die v s
  | .rhreqHandOver die v => Sys2Proof.Machine.execRhreqHandOver die v s
  | .rhreqRetire die v => Sys2Proof.Machine.execRhreqRetire die v s
  | .migreq die v => Sys2Proof.Machine.execMigreq die v s
  | .smpctl die v => Sys2Proof.Machine.execSmpctl die v s
  | .systab die v => Sys2Proof.Machine.execSystab die v s
  | .wsrightsRead die v => Sys2Proof.Machine.execWsrightsRead die v s
  | .wsrightsLoad die v => Sys2Proof.Machine.execWsrightsLoad die v s
  | .wsRefreshStart die => Sys2Proof.Machine.execWsRefreshStart die s
  | .wsRefreshEnd die => Sys2Proof.Machine.execWsRefreshEnd die s
  | .resume g => Sys2Proof.Machine.execResume g s
  | .restart g => Sys2Proof.Machine.execRestart g s
  | .kill g => Sys2Proof.Machine.execKill g s
  | .preEmpt g => Sys2Proof.Machine.execPreEmpt g s
  | .step g => Sys2Proof.Machine.execStep g s
  | .slotView g off v n => Sys2Proof.Machine.execSlotView g off v n s
  | .dhaltSet die => Sys2Proof.Machine.execDhaltSet die s
  | .dhaltClear die => Sys2Proof.Machine.execDhaltClear die s
  | .ctxkill v => Sys2Proof.Machine.execCtxkill v s
  | .ctxkillComplete => Sys2Proof.Machine.execCtxkillComplete s
  | .trstatClear c => Sys2Proof.Machine.execTrstatClear c s
  | .hckpt port v => Sys2Proof.Machine.execHckpt port v s
  | .checkpointStart die => Sys2Proof.Machine.execCheckpointStart die s
  | .checkpointMarker die input => Sys2Proof.Machine.execCheckpointMarker die input s
  | .checkpointStreamDone ok => Sys2Proof.Machine.execCheckpointStreamDone ok s
  | .recovery round => Sys2Proof.Machine.execRecovery round s
  | .railMonitorWindow die => Sys2Proof.Machine.execRailMonitorWindow die s
  | .rmfreeze die => Sys2Proof.Machine.execRmfreeze die s
  | .linkRetrain l ok => Sys2Proof.Machine.execLinkRetrain l ok s
  | .linkFlit l good => Sys2Proof.Machine.execLinkFlit l good s
  | .governorWindow die => Sys2Proof.Machine.execGovernorWindow die s
  | .throttleEntry die => Sys2Proof.Machine.execThrottleEntry die s
  | .throttleExit die => Sys2Proof.Machine.execThrottleExit die s
  | .gvexempt die v => Sys2Proof.Machine.execGvexempt die v s
  | .registerWrite addr v => Sys2Proof.Machine.execRegisterWrite addr v s
  | .hostAperture port off size wr v => Sys2Proof.Machine.execHostAperture port off size wr v s
  | .hqpush w off v => Sys2Proof.Machine.execHqpush w off v s
  | .hlcreq port v => Sys2Proof.Machine.execHlcreq port v s
  | .hattest port v => Sys2Proof.Machine.execHattest port v s
  | .hlcgo port v => Sys2Proof.Machine.execHlcgo port v s
  | .loadImage port ctx img len => Sys2Proof.Machine.execLoadImage port ctx img len s
  | .moduleReset => Sys2Proof.Machine.execModuleReset s
  | .linkLost l => Sys2Proof.Machine.execLinkLost l s
  | .powerLoss => Sys2Proof.Machine.execPowerLoss s
  | .checkpointRangeStreamed r => Sys2Proof.Machine.execCheckpointRangeStreamed r s

end Sys2Proof.Machine
end

