-- ==== Sys2Proof/Machine/Issue.lean ====
section
/-! DEFINITION. A slot's turn: whether it may issue, fetching, waiting for registers, the check of block signatures, and the word itself
(R24, R25, R178, R191 to R193, R252, R254, R327, R330, R335, R336, R341, R342, R344); and what each turn brings with it: time, errors,
and what follows at once (R166, R229, R335, R339, R342). -/
namespace Sys2Proof.Machine

/-! Whether a slot issues (R252, R327, R328, R330, R336, R344, R345) -/

/-- Whether a word may begin in slot `g`: not while issue stops at instruction boundaries, nor after the one word of a step (R335). -/
def State.mayStart (s : State) (g : Nat) : Bool :=
  let x := s.slot g
  let c := coreOf g
  ! x.preempting && ! (x.stepping && x.stepDone) && ! s.cutting c && (! (s.die (dieOf c)).halt || x.stepping) && ! (s.core c).quarantined &&
    (match s.killing with | some (k, _) => k != x.ctx | none => true)

/-- Whether slot `g` has something to do on its own: a restore, a word under way that waits for nothing outside, or a word to begin. -/
def State.canIssue (s : State) (g : Nat) : Bool :=
  let x := s.slot g
  match x.state with
  | .running => x.await == .none && x.mode == .none && (x.restoring || x.begun || s.mayStart g)
  | .held => s.holds g x && s.mayStart g
  | _ => false

/-! Fetching (R16, R25, R73, R191, R340) -/

/-- The words of the 64-byte line at key `k`, for the instruction cache; `pc` is that of the line's first word. -/
def State.lineWords (s : State) (ctx : BitVec 16) (pc : Pc) (k : Nat) : List IcEntry :=
  (List.range 16).map fun i => ⟨ctx, pc + BitVec.ofNat 48 (4 * i), BitVec.ofNat 32 (s.nat (k + 4 * i) 4)⟩

/-- The word of slot `g` at its pc: the cluster's instruction cache, else the home of the code page, whose line the cache takes; that request
goes in its turn, after those that a correction makes it wait for (R82). -/
def State.fetch (s : State) (g : Nat) : Got (State × W32) :=
  let x := s.slot g
  let cl := clusterOf (coreOf g)
  let hit := if s.miss then none else (s.cluster cl).icache.find? fun e => e.ctx == x.ctx && e.pc == x.pc
  match hit with
  | some e => .ok (s, e.word)
  | none =>
    let ea := mkAddr 4 x.pc.toNat
    if ¬ s.first (s.nowItem cl x.ctx ea) then .wait [] else
    match s.global cl x.ctx ea 4 .fetch 3 with
    | .wait h => .wait h
    | .bad s f => .bad s f
    | .ok (s, k) =>
      if s.poisoned k 4 then .bad s ⟨7, ea, 0⟩ else
      let first : Pc := x.pc - BitVec.ofNat 48 (k % 64)
      let line := s.lineWords x.ctx first (k / 64 * 64)
      let keep := fun (e : IcEntry) => ! (e.ctx == x.ctx && e.pc.toNat / 64 == x.pc.toNat / 64)
      .ok (s.modCluster cl fun c => { c with icache := c.icache.filter keep ++ line }, BitVec.ofNat 32 (s.nat k 4))

/-! Block signatures (R341, R342) -/

/-- The signature window of die `d` that covers `pc` in context `ctx`: text start, text length, table. -/
def State.sigWindow (s : State) (d : Nat) (ctx : BitVec 16) (pc : Pc) : Option (Nat × Nat × Nat) :=
  (List.range 16).findSome? fun w =>
    let r := fun i => ((s.die d).gov.sgwin.get 0 (4 * w + i)).toNat
    if bit (r 3) 16 && fld (r 3) 0 16 == ctx.toNat && decide (r 0 ≤ pc.toNat ∧ pc.toNat < r 0 + r 1) then some (r 0, r 1, r 2) else none

/-- The entry of a check table for the block that holds offset `off`, from entry `i` on, in ascending order; one that cannot be read is
passed over, a read that its home holds is waited for (R82, R341, R342; log entry 7). -/
def State.checkEntry (s : State) (cl : Nat) (ctx : BitVec 16) (table off : Nat) : Nat → Nat → Met (State × Option Nat)
  | _, 0 => .ok (s, none)
  | i, n + 1 =>
    let ea := mkAddr 4 (table + 32 * i)
    if ¬ s.first (s.nowItem cl ctx ea) then .wait [] else
    match s.global cl ctx ea 32 .read 0 with
    | .ok (t, k) =>
      let e := t.nat k 32
      if t.poisoned k 32 then State.checkEntry t cl ctx table off (i + 1) n
      else if fld e 32 16 = 0 ∨ off < fld e 0 32 then .ok (t, none)
      else if off < fld e 0 32 + 4 * fld e 32 16 then .ok (t, some e)
      else State.checkEntry t cl ctx table off (i + 1) n
    | .bad t _ => State.checkEntry t cl ctx table off (i + 1) n
    | .wait h => .wait h

/-- A word begins in slot `g`: it goes on with the block it stands in, or enters one; one entered past its first word is not checked,
but is the predecessor of the next. It waits where the read of the check table does. -/
def State.sigStart (s : State) (g : Nat) (w : W32) : Met State :=
  let x := s.slot g
  let c := coreOf g
  let jr : Bool := match decode w with | .ok (.jr _) => true | _ => false
  let step := fun (r : SigRun) => { r with left := r.left - 1, fold := foldItem r.fold (depItem w), jr := jr }
  match s.sigWindow (dieOf c) x.ctx x.pc with
  | none => .ok (s.modSlot g fun x => { x with sig := none, prevBlock := none })
  | some (text, len, table) =>
    let off := x.pc.toNat - text
    match x.sig with
    | some r => .ok (s.modSlot g fun x => { x with sig := some (step r) })
    | none => match s.checkEntry (clusterOf c) x.ctx table off 0 (len / 4 + 1) with
      | .wait h => .wait h
      | .bad f => .bad f
      | .ok (s, none) => .ok (s.modSlot g fun x => { x with prevBlock := none })
      | .ok (s, some e) =>
        if fld e 0 32 ≠ off then .ok (s.modSlot g fun x => { x with prevBlock := if jr then none else some (fld e 0 32) }) else
        let known : Bool := match x.prevBlock with
          | some a => fld e 48 1 == 0 && decide (fld e 49 3 ≤ 4) && ! (List.range (fld e 49 3)).any fun i => fld e (128 + 32 * i) 32 == a
          | none => false
        let r : SigRun := ⟨x.ctx, off, fld e 32 16, BitVec.ofNat 32 (fld e 64 32), BitVec.ofNat 32 (fld e 96 32), known, false⟩
        .ok (s.modSlot g fun x => { x with sig := some (step r) })

/-- A slot whose block has ended is judged before its next word: a mismatch stops it, else the block is the predecessor of the next
unless a JR left it (R342). -/
def State.sigEnd (s : State) (g : Nat) : State :=
  let x := s.slot g
  match x.sig with
  | some r =>
    if r.left ≠ 0 ∨ x.begun then s else
    let s := s.modSlot g fun x => { x with sig := none, prevBlock := if r.jr then none else some r.start }
    if r.bad ∨ r.fold ≠ r.want then s.mismatch g 0 r.ctx else s
  | none => s

/-! The turn of a slot -/

/-- The word at the pc of slot `g` begins: the trace's trigger on it, its place in its block (R338, R342). -/
def State.beginWord (s : State) (g : Nat) (w : W32) : Met State :=
  let x := s.slot g
  let hot := fun (t : Trace) => if bit t.ctl.toNat 0 && ! t.frozen && fld t.ctl.toNat 13 3 == 1 && t.cmp == BitVec.zeroExtend 64 x.pc then t.trigger else t
  let s := s.modCore (coreOf g) fun c => { c with trace := hot c.trace }
  match s.sigStart g w with
  | .ok t => .ok (t.modSlot g fun y => { y with begun := true, word := w, woken := false, sigWas := (x.sig, x.prevBlock) })
  | r => r

/-- Whether an instruction must wait for a load of slot `g` in flight (R89, R193). -/
def State.awaits (s : State) (g : Nat) (i : Instr) : Bool := s.loads.any fun l => l.g == g && Instr.names i l.dst.reg

/-- Word `w`, which has begun, in the running slot: ILLEGAL, or its meaning once the registers it names are loaded (R24, R193). -/
def State.runWord (s : State) (w : W32) : Ans :=
  match decode w with
  | .error _ => s.illegal w
  | .ok i => if s.awaits s.cur i then .next s else exec i s

/-- The running slot fetches its next word and begins it; a fetch that fails takes its course once nothing of the slot is on its way, an
eviction once the context's memory takes it (R191, R258, R259, R346). -/
def State.nextWord (s : State) : Ans :=
  let g := s.cur
  match s.fetch g with
  | .wait h => .next (s.ckWant h)
  | .bad t f => if s.loading g || s.storing g then .next s else s.orEvict t f fun t => t.targetFault g f (s.slot g).pc
  | .ok (t, w) => (match t.beginWord g w with
    | .ok t => t.runWord w
    | .bad _ => .next s
    | .wait h => .next (s.ckWant h))

/-- The turn of slot `g`: nothing if it waits; a park whose NSE has room; a restore; the word under way or the next one (R252, R254,
R297). -/
def State.slotTurn (s : State) (g : Nat) : Ans :=
  let s : State := { s with cur := g }
  if ! s.canIssue g then .next s else
  match (s.slot g).state, (s.slot g).hold with
  | .held, .listFull p => .next ((s.join p).getD s)
  | _, _ =>
  let s := if (s.slot g).state = .held then s.run g else s
  let x := s.slot g
  if x.restoring then .next (s.restoreWindow g)
  else if x.begun then s.runWord x.word
  else s.nextWord

/-! What comes with a turn -/

/-- Accumulator lines among the lines of `Turn.errors`, above every flat key. -/
def accLine : Nat := 2 ^ 184

/-- Lines of NSE SRAM that no live barrier has, 2^18 of each die, likewise (R6). -/
def nseLine : Nat := 2 ^ 185

/-- The die that counts an uncorrectable error on a line; none for memory outside the module and for a barrier that is gone (R339, R348). Of
NSE SRAM only a barrier's line has a reader that its mark reaches (log entry 79). -/
def State.lineDie (s : State) (l : Nat) : Option Nat :=
  let k := 64 * l
  if nseLine ≤ l then some ((l - nseLine) / 2 ^ 18 % Config.dies)
  else if accLine ≤ l then some ((l - accLine) / 2 ^ 17 % Config.clusters / 32)
  else if k < 2 ^ 48 then some (dieOf (k / 2 ^ 18) % 64)
  else if k < 2 ^ 50 then some (Config.stackDie (Fin.ofNat 32 ((k - 2 ^ 48) / 2 ^ 36))).val
  else if k < 2 ^ 66 then some ((k - 2 ^ 50) / 2 ^ 29 % 64)
  else if k < 2 ^ 80 then none
  else if k < 2 ^ 160 then (s.barriers.find? fun b => b.key == k).map fun b => nmCluster b.name / 32
  else none

/-- An uncorrectable error is found on line `l`: it is counted, the line is poisoned; of accumulator storage the sixteen elements of line
`j` of a tile (R339, R340). -/
def State.lineError (s : State) (l : Nat) : State :=
  match s.lineDie l with
  | none => s
  | some d =>
    let s := s.modDie d fun x => { x with gov := { x.gov with ue := x.gov.ue + 1 } }
    if l < accLine then s.mark (64 * l) else if nseLine ≤ l then s else
    let n := l - accLine
    let cl := n / 2 ^ 17
    let j := n % 512
    match (s.cluster cl).tiles[n / 512 % 256]? with
    | none => s
    | some t => s.modTile cl t.name fun t => { t with bad := union t.bad (((List.range 16).map (16 * j + ·)).filter fun e => decide (e / 128 < t.m ∧ e % 128 < t.n)) }

/-- Some copy queue's head of cluster `cl` waits at the stage interlock, or at its die's weight store (R150, R166, R167; log entry
12). -/
def State.stalls (s : State) (cl : Nat) : Bool :=
  s.cores.any fun e => clusterOf e.1 == cl && match e.2.copyQ.cmds with
    | k :: _ => (k.phase == .staging && (e.2.stages.get Stage.reset k.stageIx).inuse != 0) ||
        (s.die (cl / 32)).wsHeld.any fun h => h.1 == wsEngine e.1 .copy
    | [] => false

/-- Time passes before a turn, and the errors found then (R150, R339, R348). -/
def State.elapse (s : State) (t : Turn) : State :=
  let s : State := { s with
    cycle := s.cycle + t.cycles, miss := t.miss
    clusters := s.clusters.foldl (fun u e =>
      if s.stalls e.1 then u.set Cluster.reset e.1 { e.2 with copyStall := e.2.copyStall + w64 t.cycles } else u) s.clusters }
  t.corrected.foldl (fun s e => s.correctedError e.1 e.2) (t.errors.foldl State.lineError s)

/-- A slot whose step command has done its instruction freezes with cause STEP once its loads and stores have been answered: a fault of one
is the instruction's, which is reported instead (R335). -/
def State.stepEnd (s : State) (g : Nat) : State :=
  let x := s.slot g
  if ! (x.stepping && x.stepDone) || x.state != .running || s.loading g || s.storing g then s else
  let (d, a) := x.stepRep
  (s.freeze g ⟨0x12, a, BitVec.zeroExtend 64 d⟩).modSlot g fun x => { x with stepSeq := a }

/-- What follows a turn at once: blocks are judged, steps end, the arrays of slots evicted in it let go (R229, R259, R335, R342). -/
def State.settle (before s : State) : State :=
  let s := s.slots.foldl (fun s e => s.sigEnd e.1) s
  let s := s.slots.foldl (fun s e => s.stepEnd e.1) s
  s.slots.foldl (fun s e => if e.2.state = .preempted ∧ (before.slot e.1).state ≠ .preempted ∧ e.2.faults ≠ (before.slot e.1).faults
    then s.strike e.1 else s) s

/-! Whose turn it is when the schedule says nothing (log entry 2) -/

/-- What a queue's head would do next. -/
def headActs (c : Nat) (q : Queue) : List Instr :=
  match q.cmds with
  | [] => []
  | k :: _ => match k.op with
    | 1 => [.cpy c] | 2 => [.cpys c] | 3 => [.pack c] | 4 => [.gath c] | 5 => [.scat c] | 6 => [.fill c] | 7 => [.wload c] | 8 => [.cseq c]
    | 0x20 => [.mctx c] | 0x21 => [.mstg c] | 0x22 => [.mpass c, .arrayGrant (clusterOf c) true, .startPermitGrant (dieOf c), .mpassReplay c]
    | 0x23 => [.tnew c] | 0x24 => [.tfwd c] | 0x25 => [.tread c] | 0x26 => [.tabandon c] | _ => [.tstat c]

/-- The events that are under way or due. -/
def State.due (s : State) : List Instr :=
  s.loads.flatMap (fun l => if l.reply.isSome then [Instr.loadReturn l.grp]
    else if tagOf l.addr = 2 then [.localMemoryRequest l.id] else if tagOf l.addr = 5 then [.weightStoreRequest l.id] else [.homeRequest l.id 0]) ++
  s.out.flatMap (fun o => [Instr.localMemoryRequest o.id, .homeRequest o.id 0, .atomicAtNse o.id 0, .commitRefusal o.g]) ++
  s.amos.map (fun a => if a.reply.isSome then Instr.atomicReturn a.g else .atomicAtNse a.id 0) ++
  s.slots.flatMap (fun e => (if e.2.mode = .none then [] else [Instr.commitComplete e.1]) ++ (if e.2.preempting then [.preemptSave e.1] else []) ++
    (if e.2.state = .held then [.holdLimit e.1] else [])) ++
  s.chains.flatMap (fun h => [Instr.chainStep h.id 0, .chainReturn h.id]) ++
  s.nameOps.flatMap (fun o => [Instr.nameOpAtSlice o.id, .nameOpReturn o.g]) ++
  s.shoots.map (fun h => if h.ack then Instr.shootDownAck h.id else .shootDown h.id) ++
  s.spawns.map (fun r => Instr.spawnAppend r.id) ++ s.sends.flatMap (fun r => [Instr.sendDelivery r.id, .sendStatus r.g]) ++
  s.notes.map (fun n => Instr.guardNote n.id) ++ s.parks.map (fun p => Instr.park p.id) ++
  s.contribs.flatMap (fun q => [Instr.contributionArrival q.id, .tfwdStatusReturn q.id]) ++
  (s.graph.filter (·.due)).map (fun n => Instr.graphNodeSpawn n.id) ++ s.ksyncs.map (fun k => Instr.ksyncComplete k.1) ++
  s.clusters.flatMap (fun e => e.2.icFlush.map Instr.icinvComplete ++ e.2.corrections.map (fun c => Instr.homeCorrection c.1)) ++
  s.cores.flatMap (fun e => headActs e.1 e.2.copyQ ++ headActs e.1 e.2.mxQ ++
    (if e.2.copyQ.cmds.isEmpty then [] else [.copyCommandComplete e.1, .stageCopyBegin e.1, .cpysItem e.1]) ++
    (if e.2.copyQ.waiters.isEmpty then [] else [.cmdqPush e.1 .copy]) ++ (if e.2.mxQ.waiters.isEmpty then [] else [.cmdqPush e.1 .matrix])) ++
  s.dies.flatMap (fun e => (if e.2.tcinv.isSome then [Instr.tcinvDone e.1] else []) ++
    (if e.2.rhreq.isSome then [.handOverComplete e.1, .retireComplete e.1] else []) ++ (if e.2.wsWant.isSome then [.wsStateChange e.1] else []) ++
    (if e.2.fqheld.isEmpty then [] else [.faultPacketRelease e.1]) ++ (if e.2.tmwake = 0 then [] else [.tmwake e.1]) ++
    e.2.migs.map (fun m => Instr.migrationCopyDone e.1 m.id)) ++
  (s.ports.filter fun e => ! e.2.queue.isEmpty).map (fun e => Instr.completionRecordRelease e.1) ++ (if s.killing.isSome then [.ctxkillComplete] else []) ++
  (if s.serialNext < s.serialEnd then [] else [.serialBlockReserve true]) ++
  (s.cores.filter (fun e => ! e.2.waitList.isEmpty)).flatMap (fun e => (List.range 4).map fun i => Instr.dispatch (4 * e.1 + i)) ++
  (s.clusters.filter (fun e => ! e.2.ready.isEmpty)).flatMap (fun e => (List.range 128).map fun i => Instr.dispatch (128 * e.1 + i)) ++
  (s.skeins.filter (fun k => ! k.items.isEmpty)).flatMap fun k => (List.range 128).map fun i => Instr.dispatch (128 * k.cluster + i)

/-- Whether slot `g` can issue and its word, if one is under way, waits for no load. -/
def State.goesOn (s : State) (g : Nat) : Bool :=
  let x := s.slot g
  s.canIssue g && ! (x.begun && match decode x.word with | .ok i => s.awaits g i | .error _ => false)

/-- The turn taken when the schedule is empty: the slot that ran last, while it can go on, in three cycles of four; else, by turns, one of
the slots that can go on and of what else is due (log entry 2). -/
def State.defaultAct (s : State) : Act :=
  let on := s.goesOn s.cur
  if on ∧ s.cycle % 4 ≠ 0 then .slot s.cur else
  let l := ((s.slots.filter fun e => s.goesOn e.1).map fun e => Act.slot e.1) ++ s.due.map Act.event
  l.getD ((if on then s.cycle / 4 else s.cycle) % l.length) (.slot s.cur)

/-- The next turn and what is left of the schedule. -/
def State.turn (s : State) : Turn × State :=
  match s.sched with
  | t :: rest => (t, { s with sched := rest })
  | [] => (⟨1, [], [], false, s.defaultAct⟩, s)

/-- What the agent of a turn does; an instruction word is no event, only slots execute words. -/
def State.act (s : State) : Act → Ans
  | .slot g => if g < Config.slots then s.slotTurn g else .fault (.noSuchSlot g)
  | .event i => if (encode i).isSome then .next s else exec i s

/-! A word placed where the next step fetches it -/

/-- Slot 0 runs and stands before its next word, and nothing stops or delays it. -/
def Slot.ready (x : Slot) : Slot :=
  { x with state := .running, hold := .none, await := .none, mode := .none, restoring := false, begun := false, stamped := false, preempting := false,
           sig := none }

/-- Word `w` in the instruction cache of cluster 0 at the pc of slot 0, which runs next. -/
def State.placeWord (s : State) (w : W32) : State :=
  let s : State := { s with sched := [⟨1, [], [], false, .slot 0⟩], cur := 0, loads := s.loads.filter (fun l => l.g != 0), killing := none }
  let s := s.modSlot 0 Slot.ready
  let s := (s.modCore 0 fun c => { c with quarantined := false }).modDie 0 fun d => { d with halt := false, ckcut := false }
  let x := s.slot 0
  s.modCluster 0 fun k => { k with icache := (⟨x.ctx, x.pc, w⟩ : IcEntry) :: k.icache }

end Sys2Proof.Machine
end

