-- ==== Sys2Proof/Machine/Step.lean ====
section
/-! DEFINITION. One step of the machine: one turn of the schedule. -/
namespace Sys2Proof.Machine

/-- The state as the turn that is next leaves it before its agent acts: the turn taken off the schedule, time passed, errors found. -/
def State.onTurn (s : State) : State := s.turn.2.elapse s.turn.1

/-- One step: the agent whose turn it is acts, and what follows at once happens (log entry 2). -/
def step (s : State) : Host.Outcome State Fault Refusal :=
  match s.onTurn.act s.turn.1.act with
  | .next t => .next (State.settle s t)
  | .fault f => .fault f
  | .refused r => .refused r

/-- The instruction whose bits are `w`, as the opcode table numbers them, placed where the next step fetches it (log entry 31). -/
def State.withFetchWord (s : State) (nbits w : Nat) : State := s.placeWord (BitVec.ofNat 32 (w % 2 ^ nbits))

end Sys2Proof.Machine
end

