-- ==== Sys2Proof/Safety.lean ====
section
/-! DEFINITION. What claims call a safe run: the invariant that every step keeps, and the only way a run can stop. -/
namespace Sys2Proof.Machine

/-- Memory stands in its canonical form, and so does that of the cut being recorded and of every cut the safe tier holds: equal memories are
equal data. -/
def State.Inv (s : State) : Prop :=
  Memory.wf s.mem = true ∧ (∀ m, s.cut = some m → Memory.wf m.mem = true) ∧ ∀ e ∈ s.tier, Memory.wf e.cut.mem = true

/-- The next turn names an agent that exists. -/
def State.Scheduled (s : State) : Prop := match s.turn.1.act with
  | .slot g => g < Config.slots
  | .event _ => True

/-- A run of `n` steps stops nowhere. -/
def State.Safe : Nat → State → Prop
  | 0, _ => True
  | n + 1, s => match step s with
    | .next t => State.Safe n t
    | _ => False

end Sys2Proof.Machine
end

