-- ==== Sys2Proof/Certificates/Slice0/Obligations.lean ====
section
/-! DEFINITION. What is claimed of the model: each obligation formalises rules of the spec, over every state and every operand, and says
where an instruction completes and what it leaves alone. -/
namespace Sys2Proof.Claims
open Sys2Proof.Machine

/-! What a step leaves alone -/

/-- Nothing but the slot whose instruction runs has changed: memory, every queue, every other unit stand as before. -/
def OnlyMe (s t : State) : Prop := ({ t with slots := s.slots } : State) = s ∧ ∀ g, g ≠ s.cur → t.slot g = s.slot g

/-- The same, but for the trace of the slot's core, which records events of the slot while it is enabled (R337). -/
def OnlyMeTraced (s t : State) : Prop :=
  ({ t with slots := s.slots, cores := s.cores } : State) = s ∧ (∀ g, g ≠ s.cur → t.slot g = s.slot g) ∧
  ∀ c, ({ t.core c with trace := (s.core c).trace } : Core) = s.core c ∧ (c ≠ coreOf s.cur → t.core c = s.core c)

/-- The running slot goes on at the next instruction with scalar register `d` holding `v`; s0 stays 0, every other register and every
entry of the window file, the status of the slot and its segment stand as before (R171, R174). -/
def ScalarDone (s t : State) (d : BitVec 5) (v : W64) : Prop :=
  OnlyMe s t ∧
  t.me = { s.me with low := t.me.low, win := t.me.win, pc := s.me.pc + 4, begun := false, stamped := false, stepDone := s.me.stepping } ∧
  (∀ r, t.me.s r = if r = d ∧ d ≠ 0 then v else s.me.s r) ∧
  ∀ k, (d.toNat < 8 ∨ k ≠ s.me.phys d.toNat) → t.me.win.get 0 k = s.me.win.get 0 k

/-- The running slot goes on at the next instruction with vector register `d` changed and nothing else (R194). -/
def VectorDone (s t : State) (d : BitVec 4) : Prop :=
  OnlyMe s t ∧ t.me = { s.me with v := t.me.v, pc := s.me.pc + 4, begun := false, stamped := false, stepDone := s.me.stepping } ∧
  ∀ r, r ≠ d → t.me.vr r = s.me.vr r

/-- The running slot goes on at the next instruction with mask register `d` holding `v`; the trace may record it (R338). -/
def MaskDone (s t : State) (d : Nat) (v : W32) : Prop :=
  OnlyMeTraced s t ∧ t.me = { s.me with m := t.me.m, pc := s.me.pc + 4, begun := false, stamped := false, stepDone := s.me.stepping } ∧
  ∀ r, t.me.mr r = if r = d then v else s.me.mr r

/-- The running slot stands at `p` and nothing else of it has changed. -/
def Jumped (s t : State) (p : Pc) : Prop :=
  OnlyMeTraced s t ∧ t.me = { s.me with pc := p, begun := false, stamped := false, stepDone := s.me.stepping }

/-- A commit finds nothing to wait for: no load, store or atomic of the slot is under way and its segment buffer is empty (R92, R193). -/
def Quiet (s : State) : Prop := s.loading s.cur = false ∧ s.storing s.cur = false ∧ s.me.mode = .none ∧ s.me.buf = []

/-- Slot `x` as a commit leaves it at its word, once: the restart point there, a new segment, no write-through mode, the poison count
settled (R92, R256, R340). -/
def AtWord (x : Slot) : Slot :=
  if x.stamped then x else
    { x with rstpc := x.pc, seg := x.seg + 1, through := false, prest := if x.psince then x.prest else 0, psince := false, sent := 0, stamped := true }

/-- Slot `x` as a commit leaves it where the instruction goes on. -/
def Committed (x y : Slot) : Slot := { AtWord x with seg := y.seg, begun := false, stamped := false, stepDone := x.stepping }

/-- The core of the running slot has the feature bits (R26). -/
def Has (s : State) (bits : Nat) : Prop := maskHas (s.coreFeat (coreOf s.cur)) bits = true

/-- Element `k` of `n` of register `v`, of width `w`, is `f k` where the mask has a 1 and as in `old` elsewhere (R21, R196). -/
def Governed (w n : Nat) (mask : W32) (old v : W256) (f : Nat → Nat) : Prop :=
  ∀ k, k < n → elem v w k = if bit mask.toNat k then f k % 2 ^ w else elem old w k

/-- A load has given register `d` the value `v`: memory, queues and the other slots stand as before; of the slot only the register, the pc
and the record of which writes it has seen have changed. -/
def LoadDone (s t : State) (d : BitVec 5) (v : W64) : Prop :=
  t.mem = s.mem ∧ t.poison = s.poison ∧ t.loads = s.loads ∧ t.out = s.out ∧ (∀ g, g ≠ s.cur → t.slot g = s.slot g) ∧
  t.me = { s.me with low := t.me.low, win := t.me.win, obs := t.me.obs, hb := t.me.hb, seen := t.me.seen,
                     pc := s.me.pc + 4, begun := false, stamped := false, stepDone := s.me.stepping } ∧
  ∀ r, t.me.s r = if r = d ∧ d ≠ 0 then v else s.me.s r

/-- The slot runs, none of its stores or atomics is under way and its segment buffer is empty. -/
def Clear (s : State) : Prop := s.me.state = .running ∧ s.storing s.cur = false ∧ s.me.buf = []

/-- The running slot is one the module has (R1, R3), and `n` bytes at `ea` lie in the program area of its own local memory, whose cluster is
not fenced (R122). -/
def OwnBytes (s : State) (ea : W64) (n : Nat) : Prop :=
  s.cur < Config.slots ∧ ea.toNat + n ≤ 0x24000 ∧ (s.cluster (clusterOf (coreOf s.cur))).fenced = false

/-- The flat key of offset `ea` of the running slot's own local memory. -/
def ownKey (s : State) (ea : W64) : Nat := localKey (coreOf s.cur) ea.toNat

/-- A value of `n` bytes as a load leaves it in a register (R88). -/
def extended (n : Nat) (signed : Bool) (v : Nat) : W64 := if signed then (BitVec.ofNat (8 * n) v).signExtend 64 else w64 (v % 2 ^ (8 * n))

/-- Memory `m'` is `m` with the low `n` bytes of `v` at key `k`, little-endian (R10). -/
def Stored (m m' : Tab Byte) (k n v : Nat) : Prop :=
  ∀ j, m'.get 0 j = if k ≤ j ∧ j < k + n then BitVec.ofNat 8 (v / 256 ^ (j - k)) else m.get 0 j

/-- No slot but those that wait has changed. -/
def OthersRun (s t : State) : Prop := ∀ g, g ≠ s.cur → (s.slot g).state ≠ .held → t.slot g = s.slot g

/-- The running slot goes on at the next instruction and nothing else of it has changed. -/
def Passed (s t : State) : Prop := t.me = { s.me with pc := s.me.pc + 4, begun := false, stamped := false, stepDone := s.me.stepping }

end Sys2Proof.Claims

section
open Sys2Proof Sys2Proof.Machine Sys2Proof.Claims

/-! Words and steps -/

/-- Words the spec writes out, each with the instruction it stands for (R17 to R23 and the examples of the rules named beside them). -/
def Obligations.WrittenWordsDecode : Prop :=
  decode 0x052A5800 = .ok (.add 9 10 11) ∧            -- R180
  decode 0x09290004 = .ok (.addi 9 9 4) ∧             -- R182
  decode 0x2A00000C = .ok (.li 16 12) ∧               -- R179
  decode 0x9D000003 = .ok (.call 2 3) ∧               -- R179
  decode 0xA520FFFE = .ok (.loop 9 0xFFFE) ∧
  decode 0xA0090001 = .ok (.jalr 9) ∧                 -- R176
  decode 0xAC020003 = .ok (.sdrop 2) ∧                -- R186
  decode 0x01203804 = .ok (.rdk 9 7) ∧                -- R188
  decode 0xF448C000 = .ok (.vfma 1 2 3 0 0) ∧         -- R197
  decode 0xE4846010 = .ok (.vmin 2 1 1 0x804 0) ∧     -- R197
  decode 0x3048E401 = .ok (.vfdiv 1 2 3 .fp16 2) ∧    -- R201
  decode 0x35509A00 = .ok (.vcmp 5 4 2 .u32 1) ∧      -- R202
  decode 0x38857200 = .ok (.vcvt 2 1 .bf16 .fp32 1) ∧ -- R204
  decode 0x3C401800 = .ok (.vld 1 0 .u32 0) ∧         -- R208
  decode 0x3CC41006 = .ok (.vsread 3 1)               -- R211

/-- Encoding a well-formed instruction word and decoding it gives the instruction back: every constructor, every operand its form admits. -/
def Obligations.EncodeThenDecode : Prop :=
  ∀ (i : Instr) (w : W32), encode i = some w → i.wfCheck = none → decode w = .ok i

/-- What the decoder takes for an instruction is the one word that the encoder gives it, and it is well formed. -/
def Obligations.DecodeThenEncode : Prop :=
  ∀ (w : W32) (i : Instr), decode w = .ok i → encode i = some w ∧ i.wfCheck = none

/-- The turn of a slot whose word is read and decoded runs that instruction, and what follows a turn at once follows it. -/
def Sys2Proof.Claims.freshWordRuns : Prop :=
  ∀ (s u v : State) (g : Nat) (w : W32) (i : Instr),
    s.turn.1.act = .slot g → g < Config.slots →
    ({ s.onTurn with cur := g } : State).canIssue g = true →
    (({ s.onTurn with cur := g } : State).slot g).state = .running →
    (({ s.onTurn with cur := g } : State).slot g).restoring = false →
    (({ s.onTurn with cur := g } : State).slot g).begun = false →
    ({ s.onTurn with cur := g } : State).fetch g = .ok (u, w) →
    u.beginWord g w = .ok v → v.cur = g → decode w = .ok i → v.awaits g i = false →
    step s = match exec i v with
      | .next t => .next (State.settle s t)
      | .fault f => .fault f
      | .refused r => .refused r

/-- A word that has begun is not fetched again: the turn of its slot runs what was fetched, as it was fetched. -/
def Sys2Proof.Claims.begunWordRuns : Prop :=
  ∀ (s : State) (g : Nat) (i : Instr),
    s.turn.1.act = .slot g → g < Config.slots →
    ({ s.onTurn with cur := g } : State).canIssue g = true →
    (({ s.onTurn with cur := g } : State).slot g).state = .running →
    (({ s.onTurn with cur := g } : State).slot g).restoring = false →
    (({ s.onTurn with cur := g } : State).slot g).begun = true →
    decode (({ s.onTurn with cur := g } : State).slot g).word = .ok i →
    ({ s.onTurn with cur := g } : State).awaits g i = false →
    step s = match exec i { s.onTurn with cur := g } with
      | .next t => .next (State.settle s t)
      | .fault f => .fault f
      | .refused r => .refused r

/-- A word that no instruction has ends in ILLEGAL: the slot freezes at it with the segment kept, the word in the packet's detail. -/
def Obligations.UndecodableWordIsIllegal : Prop :=
  ∀ (s : State) (w : W32) (e : DecodeError), decode w = .error e →
    ∃ t, s.runWord w = .next t ∧ t.me.state = .frozen ∧ t.me.pc = s.me.pc ∧ t.me.rstpc = s.me.rstpc ∧ t.me.buf = s.me.buf ∧
      t.me.lastCause = 1 ∧ t.me.faults = s.me.faults + 1 ∧
      t = s.freeze s.cur ⟨1, 0, BitVec.zeroExtend 64 w⟩ ∧
      (s.cur < Config.slots → fld (s.packet s.cur ⟨1, 0, BitVec.zeroExtend 64 w⟩).toNat 0 8 = 1 ∧
        fld (s.packet s.cur ⟨1, 0, BitVec.zeroExtend 64 w⟩).toNat 32 48 = s.me.pc.toNat ∧
        fld (s.packet s.cur ⟨1, 0, BitVec.zeroExtend 64 w⟩).toNat 192 64 = w.toNat)

/-- A step runs the decoded instruction: a word that is fetched and decoded, or that has begun, is what the turn of its slot executes. -/
def Obligations.StepRunsDecodedWord : Prop := freshWordRuns ∧ begunWordRuns

/-! Integer words (R180 to R183) -/

/-- ADD to LEA3 of two operands: sd alone changes, to the function of R180 and R181 in integers. -/
def Sys2Proof.Claims.aluTwo : Prop :=
  ∀ (s : State) (d a b : BitVec 5),
    let x := s.me.s a
    let y := s.me.s b
    let k := y.toNat % 64
    let done := fun (i : Instr) (v : W64) => ∃ t, exec i s = .next t ∧ ScalarDone s t d v
    done (.add d a b) (w64 (x.toNat + y.toNat)) ∧
    done (.sub d a b) (BitVec.ofInt 64 (x.toInt - y.toInt)) ∧
    done (.and d a b) (x &&& y) ∧ done (.or d a b) (x ||| y) ∧ done (.xor d a b) (x ^^^ y) ∧ done (.andn d a b) (x &&& ~~~ y) ∧
    done (.shl d a b) (w64 (x.toNat * 2 ^ k)) ∧
    done (.shr d a b) (w64 (x.toNat / 2 ^ k)) ∧
    done (.sra d a b) (BitVec.ofInt 64 (x.toInt / 2 ^ k)) ∧
    done (.rol d a b) (w64 (x.toNat * 2 ^ k % 2 ^ 64 + x.toNat / 2 ^ (64 - k))) ∧
    done (.mul d a b) (w64 (x.toNat * y.toNat)) ∧
    done (.mulh d a b) (BitVec.ofInt 64 (x.toInt * y.toInt / 2 ^ 64)) ∧
    done (.mulhu d a b) (w64 (x.toNat * y.toNat / 2 ^ 64)) ∧
    done (.div d a b) (if y = 0 then w64 (2 ^ 64 - 1) else BitVec.ofInt 64 (x.toInt.tdiv y.toInt)) ∧
    done (.divu d a b) (if y = 0 then w64 (2 ^ 64 - 1) else w64 (x.toNat / y.toNat)) ∧
    done (.rem d a b) (if y = 0 then x else BitVec.ofInt 64 (x.toInt.tmod y.toInt)) ∧
    done (.remu d a b) (if y = 0 then x else w64 (x.toNat % y.toNat)) ∧
    done (.min d a b) (if x.toInt ≤ y.toInt then x else y) ∧
    done (.max d a b) (if y.toInt ≤ x.toInt then x else y) ∧
    done (.minu d a b) (if x.toNat ≤ y.toNat then x else y) ∧
    done (.maxu d a b) (if y.toNat ≤ x.toNat then x else y) ∧
    done (.slt d a b) (if x.toInt < y.toInt then 1 else 0) ∧
    done (.sltu d a b) (if x.toNat < y.toNat then 1 else 0) ∧
    done (.seq d a b) (if x = y then 1 else 0) ∧
    done (.lea1 d a b) (w64 (x.toNat + 2 * y.toNat)) ∧
    done (.lea2 d a b) (w64 (x.toNat + 4 * y.toNat)) ∧
    done (.lea3 d a b) (w64 (x.toNat + 8 * y.toNat))

/-- CLZ to ZEXTW of one operand: the count that R180 names, the extension it names. -/
def Sys2Proof.Claims.aluOne : Prop :=
  ∀ (s : State) (d a : BitVec 5),
    let x := s.me.s a
    let done := fun (i : Instr) (v : W64) => ∃ t, exec i s = .next t ∧ ScalarDone s t d v
    (∃ n : Nat, n ≤ 64 ∧ x.toNat < 2 ^ (64 - n) ∧ (n < 64 → 2 ^ (63 - n) ≤ x.toNat) ∧ done (.clz d a) (w64 n)) ∧
    (∃ n : Nat, n ≤ 64 ∧ 2 ^ n ∣ x.toNat ∧ (n < 64 → x.toNat / 2 ^ n % 2 = 1) ∧ (n = 64 → x = 0) ∧ done (.ctz d a) (w64 n)) ∧
    done (.popc d a) (w64 ((List.range 64).countP fun k => x.getLsbD k)) ∧
    done (.sextb d a) ((x.truncate 8).signExtend 64) ∧
    done (.sexth d a) ((x.truncate 16).signExtend 64) ∧
    done (.sextw d a) ((x.truncate 32).signExtend 64) ∧
    done (.zextw d a) (w64 (x.toNat % 2 ^ 32))

/-- The immediate words, LI and LIH: sd alone changes (R182, R183). -/
def Sys2Proof.Claims.immediates : Prop :=
  ∀ (s : State) (d a : BitVec 5) (imm : BitVec 16) (amt : BitVec 6) (pos : BitVec 2) (big : BitVec 21),
    let x := s.me.s a
    let done := fun (i : Instr) (v : W64) => ∃ t, exec i s = .next t ∧ ScalarDone s t d v
    done (.addi d a imm) (x + imm.signExtend 64) ∧
    done (.andi d a imm) (x &&& imm.zeroExtend 64) ∧
    done (.ori d a imm) (x ||| imm.zeroExtend 64) ∧
    done (.xori d a imm) (x ^^^ imm.zeroExtend 64) ∧
    done (.slti d a imm) (if x.toInt < imm.toInt then 1 else 0) ∧
    done (.sltiu d a imm) (if x.toNat < (imm.signExtend 64).toNat then 1 else 0) ∧
    done (.shli d a amt) (w64 (x.toNat * 2 ^ amt.toNat)) ∧
    done (.shri d a amt) (w64 (x.toNat / 2 ^ amt.toNat)) ∧
    done (.srai d a amt) (BitVec.ofInt 64 (x.toInt / 2 ^ amt.toNat)) ∧
    done (.li d big) (big.signExtend 64) ∧
    done (.lih d pos imm) (s.me.s d ||| w64 (imm.toNat * 2 ^ (16 * pos.toNat)))

/-! Control flow (R175 to R177, R184, R185) -/

/-- Branches and JMP: the pc alone changes, to the target where the condition holds and else to the next word. -/
def Sys2Proof.Claims.branches : Prop :=
  ∀ (s : State) (a b : BitVec 5) (off : BitVec 16) (far : BitVec 26),
    let x := s.me.s a
    let y := s.me.s b
    let there := s.me.pc + BitVec.ofInt 48 (4 * off.toInt)
    let go := fun (i : Instr) (c : Prop) [Decidable c] => ∃ t, exec i s = .next t ∧ Jumped s t (if c then there else s.me.pc + 4)
    go (.beq a b off) (x = y) ∧ go (.bne a b off) (x ≠ y) ∧
    go (.blt a b off) (x.toInt < y.toInt) ∧ go (.bge a b off) (y.toInt ≤ x.toInt) ∧
    go (.bltu a b off) (x.toNat < y.toNat) ∧ go (.bgeu a b off) (y.toNat ≤ x.toNat) ∧
    ∃ t, exec (.jmp far) s = .next t ∧ Jumped s t (s.me.pc + BitVec.ofInt 48 (4 * far.toInt))

/-- LOOP: sa one less and the pc; nothing else. A LOOP on s0 reads 0, so that the value it tests is all ones. -/
def Sys2Proof.Claims.loops : Prop :=
  ∀ (s : State) (a : BitVec 5) (off : BitVec 16),
    ∃ t, exec (.loop a off) s = .next t ∧ OnlyMeTraced s t ∧
      t.me = { s.me with low := t.me.low, win := t.me.win, pc := t.me.pc, begun := false, stamped := false, stepDone := s.me.stepping } ∧
      (∀ r, t.me.s r = if r = a ∧ a ≠ 0 then s.me.s a - 1 else s.me.s r) ∧
      t.me.pc = if s.me.s a - 1 ≠ 0 then s.me.pc + BitVec.ofInt 48 (4 * off.toInt) else s.me.pc + 4

/-- JR goes to an aligned address of 48 bits and changes nothing else; on any other value it faults at the word. -/
def Sys2Proof.Claims.jumpRegister : Prop :=
  ∀ (s : State) (a : BitVec 5),
    let v := s.me.s a
    (v.toNat % 4 = 0 → v.toNat < 2 ^ 48 → ∃ t, exec (.jr a) s = .next t ∧ Jumped s t (BitVec.ofNat 48 v.toNat)) ∧
    (v.toNat % 4 ≠ 0 → exec (.jr a) s = .next (s.freeze s.cur ⟨3, v, 3⟩)) ∧
    (v.toNat % 4 = 0 → 2 ^ 48 ≤ v.toNat → exec (.jr a) s = .next (s.freeze s.cur ⟨2, v, 3⟩))

/-- A call in one of its forms: CALL with its frame and target, or JALR by a well-formed procedure pointer. -/
def Sys2Proof.Claims.CallOf (s : State) (i : Instr) (fsz : BitVec 3) (dest : Pc) : Prop :=
  (∃ off : BitVec 23, i = .call fsz off ∧ dest = s.me.pc + BitVec.ofInt 48 (4 * off.toInt)) ∨
  (∃ a, i = .jalr a ∧ s.me.s a = w64 (dest.toNat + fsz.toNat * 2 ^ 48) ∧ dest.toNat % 4 = 0)

/-- CALL and JALR with room in the window file: the window moves up by F entries, the callee's s31 is the link, the callee's sK is the
caller's s(K + F), and the restart point is at the target. -/
def Sys2Proof.Claims.calls : Prop :=
  ∀ (s : State) (i : Instr) (fsz : BitVec 3) (dest : Pc), Quiet s → 2 ≤ fsz.toNat → fsz.toNat ≤ 6 → s.me.res.toNat + 4 * fsz.toNat ≤ 104 →
    CallOf s i fsz dest →
    ∃ t, exec i s = .next t ∧ OnlyMeTraced s t ∧
      t.me = { Committed s.me t.me with win := t.me.win, wb := t.me.wb, res := t.me.res, pc := dest, rstpc := dest } ∧
      t.me.res.toNat = s.me.res.toNat + 4 * fsz.toNat ∧ t.me.wb.toNat = (s.me.wb.toNat + 4 * fsz.toNat) % 128 ∧
      t.me.s 31 = w64 ((s.me.pc + 4).toNat + fsz.toNat * 2 ^ 48) ∧
      (∀ k r : BitVec 5, 8 ≤ k.toNat → r.toNat = k.toNat + 4 * fsz.toNat → t.me.s k = s.me.s r) ∧
      ∀ k, k ≠ t.me.phys 31 → t.me.win.get 0 k = s.me.win.get 0 k

/-- RET with its frame still in the file: the window moves down by F entries and the pc and the restart point to the link's address. -/
def Sys2Proof.Claims.returns : Prop :=
  ∀ (s : State) (fsz : Nat) (dest : Pc), Quiet s → 2 ≤ fsz → fsz ≤ 6 → 4 * fsz ≤ s.me.res.toNat →
    s.me.s 31 = w64 (dest.toNat + fsz * 2 ^ 48) → dest.toNat % 4 = 0 →
    ∃ t, exec .ret s = .next t ∧ OnlyMeTraced s t ∧
      t.me = { Committed s.me t.me with wb := t.me.wb, res := t.me.res, pc := dest, rstpc := dest } ∧
      t.me.res.toNat = s.me.res.toNat - 4 * fsz ∧ t.me.wb.toNat = (s.me.wb.toNat + 128 - 4 * fsz) % 128

/-- CALL and JALR that need more room than the file has, with a frame stack in the task's own local memory: the oldest entries go to it at
FSP, which rises by as much; no other byte changes; then the window moves as with room (R175, R178). -/
def Sys2Proof.Claims.spillingCalls : Prop :=
  ∀ (s : State) (i : Instr) (fsz : BitVec 3) (dest : Pc) (n : Nat), Quiet s → s.me.state = .running → 2 ≤ fsz.toNat → fsz.toNat ≤ 6 →
    CallOf s i fsz dest → s.me.res.toNat ≤ 104 → s.me.res.toNat + 4 * fsz.toNat = 104 + n → 0 < n →
    s.me.fsp ≠ 0 → s.me.fsp.toNat % 8 = 0 → s.me.fsp.toNat + 8 * n ≤ s.me.fslim.toNat → OwnBytes s s.me.fsp (8 * n) → s.streaming = false →
    ∃ t, exec i s = .next t ∧ t.me.state = .running ∧ t.me.pc = dest ∧ t.me.rstpc = dest ∧ t.me.res.toNat = 104 ∧
      t.me.wb.toNat = (s.me.wb.toNat + 4 * fsz.toNat) % 128 ∧ t.me.fsp.toNat = s.me.fsp.toNat + 8 * n ∧ t.me.fslim = s.me.fslim ∧
      t.me.s 31 = w64 ((s.me.pc + 4).toNat + fsz.toNat * 2 ^ 48) ∧ (∀ k, k ≠ t.me.phys 31 → t.me.win.get 0 k = s.me.win.get 0 k) ∧
      (∀ j, j < n → t.nat (ownKey s s.me.fsp + 8 * j) 8 = (s.me.win.get 0 ((s.me.wb.toNat + 128 - s.me.res.toNat + j) % 128)).toNat) ∧
      ∀ k, k < ownKey s s.me.fsp ∨ ownKey s s.me.fsp + 8 * n ≤ k → t.mem.get 0 k = s.mem.get 0 k

/-- RET to a frame that has been spilled: the newest spilled entries come back from below FSP, which falls by as much; memory stays, and the
window moves down (R177, R178). -/
def Sys2Proof.Claims.fillingReturns : Prop :=
  ∀ (s : State) (fsz n : Nat) (dest : Pc) (base : W64), Quiet s → s.me.state = .running → 2 ≤ fsz → fsz ≤ 6 →
    s.me.s 31 = w64 (dest.toNat + fsz * 2 ^ 48) → dest.toNat % 4 = 0 → s.me.res.toNat + n = 4 * fsz → 0 < n →
    s.me.fsp ≠ 0 → base = s.me.fsp - w64 (8 * n) → base.toNat % 8 = 0 → OwnBytes s base (8 * n) →
    (∀ j, j < n → s.poisoned (ownKey s base + 8 * j) 8 = false) →
    ∃ t, exec .ret s = .next t ∧ t.mem = s.mem ∧ t.me.state = .running ∧ t.me.pc = dest ∧ t.me.rstpc = dest ∧ t.me.res = 0 ∧
      t.me.wb.toNat = (s.me.wb.toNat + 128 - 4 * fsz) % 128 ∧ t.me.fsp = base ∧
      (∀ j, j < n → (t.me.win.get 0 ((s.me.wb.toNat + 256 - s.me.res.toNat - n + j) % 128)).toNat = s.nat (ownKey s base + 8 * j) 8) ∧
      ∀ k, (∀ j, j < n → k ≠ (s.me.wb.toNat + 256 - s.me.res.toNat - n + j) % 128) → t.me.win.get 0 k = s.me.win.get 0 k

/-- What stops a call or a return, at its word: no frame stack, or none left, where room is missing: STACK; a frame stack that is not aligned
to 8 bytes: ALIGN; a link or a pointer that is not well formed: ILLEGAL; one whose address is misaligned: ALIGN. The window, FSP and memory
stay (R176 to R178). -/
def Sys2Proof.Claims.frameFaults : Prop :=
  ∀ s : State, Quiet s → ∃ u, OnlyMeTraced s u ∧ u.me = AtWord s.me ∧
    (∀ (i : Instr) (fsz : BitVec 3) (dest : Pc) (n : Nat), 2 ≤ fsz.toNat → fsz.toNat ≤ 6 → CallOf s i fsz dest →
      s.me.res.toNat + 4 * fsz.toNat = 104 + n → 0 < n →
      (s.me.fsp = 0 → exec i s = .next (u.freeze s.cur ⟨0x0A, 0, 0⟩)) ∧
      (s.me.fsp ≠ 0 → s.me.fslim.toNat < s.me.fsp.toNat + 8 * n → exec i s = .next (u.freeze s.cur ⟨0x0A, s.me.fsp, 0⟩)) ∧
      (s.me.fsp ≠ 0 → s.me.fsp.toNat + 8 * n ≤ s.me.fslim.toNat → s.me.fsp.toNat % 8 ≠ 0 →
        exec i s = .next (u.freeze s.cur ⟨3, s.me.fsp, 1⟩))) ∧
    (∀ a, (2 ^ 51 ≤ (s.me.s a).toNat ∨ (s.me.s a).toNat / 2 ^ 48 < 2 ∨ (s.me.s a).toNat / 2 ^ 48 = 7 →
        exec (.jalr a) s = .next (s.freeze s.cur ⟨1, 0, w64 (0xA0000001 + a.toNat * 2 ^ 16)⟩)) ∧
      (2 ≤ (s.me.s a).toNat / 2 ^ 48 → (s.me.s a).toNat / 2 ^ 48 ≤ 6 → (s.me.s a).toNat % 4 ≠ 0 →
        exec (.jalr a) s = .next (s.freeze s.cur ⟨3, s.me.s a, 3⟩))) ∧
    (2 ^ 51 ≤ (s.me.s 31).toNat ∨ (s.me.s 31).toNat / 2 ^ 48 < 2 ∨ (s.me.s 31).toNat / 2 ^ 48 = 7 →
      exec .ret s = .next (u.freeze s.cur ⟨1, 0, 0xA0000002⟩)) ∧
    (2 ≤ (s.me.s 31).toNat / 2 ^ 48 → (s.me.s 31).toNat / 2 ^ 48 ≤ 6 → (s.me.s 31).toNat % 4 ≠ 0 →
      exec .ret s = .next (u.freeze s.cur ⟨3, s.me.s 31, 3⟩)) ∧
    ∀ (fsz : Nat) (dest : Pc), 2 ≤ fsz → fsz ≤ 6 → s.me.s 31 = w64 (dest.toNat + fsz * 2 ^ 48) → dest.toNat % 4 = 0 → s.me.res.toNat < 4 * fsz →
      (s.me.fsp = 0 → exec .ret s = .next (u.freeze s.cur ⟨0x0A, 0, 0⟩)) ∧
      (s.me.fsp ≠ 0 → s.me.fsp.toNat % 8 ≠ 0 → ∃ w, exec .ret s = .next (u.freeze s.cur ⟨3, w, 0⟩) ∧ w = s.me.fsp - w64 (8 * (4 * fsz - s.me.res.toNat)))

/-- The ALU group, of two operands and of one, and the immediate words. Completes: add, sub, and, or, xor, andn, shl, shr, sra, rol, mul, mulh, mulhu,
div, divu, rem, remu, min, max, minu, maxu, slt, sltu, seq, clz, ctz, popc, sextb, sexth, sextw, zextw, lea1, lea2, lea3, addi, andi, ori, xori,
slti, sltiu, shli, shri, srai, lih, li. -/
def Obligations.IntegerWords : Prop := aluTwo ∧ aluOne ∧ immediates

/-- Branches, JMP, LOOP and JR.
That a LOOP on s0 tests all ones, the value that was to be written, is the model's choice (log entry 18).
Completes: beq, bne, blt, bge, bltu, bgeu, jmp, loop, jr. -/
def Obligations.BranchesAndJumps : Prop := branches ∧ loops ∧ jumpRegister

/-- CALL, JALR and RET with the frames they touch in the window file, spilled to the frame stack and filled from it where the file has no room
or does not hold them, and what stops them. Completes: call, jalr, ret. -/
def Obligations.CallsAndReturns : Prop := calls ∧ returns ∧ spillingCalls ∧ fillingReturns ∧ frameFaults

/-! The SYS group, faults and streams (R187 to R191, R211, R258, R320 to R323) -/

/-- NOP changes only the pc; COMMIT, with nothing to wait for, moves the restart point to the next instruction. -/
def Sys2Proof.Claims.nopAndCommit : Prop :=
  ∀ s : State,
    (∃ t, exec .nop s = .next t ∧ OnlyMe s t ∧ t.me = { s.me with pc := s.me.pc + 4, begun := false, stamped := false, stepDone := s.me.stepping }) ∧
    (Quiet s → ∃ t, exec .commit s = .next t ∧ OnlyMeTraced s t ∧
      t.me = { Committed s.me t.me with pc := s.me.pc + 4, rstpc := s.me.pc + 4 })

/-- RDK puts the control register it names into sd; CYCLE lies within 8 cycles of the module count; numbers 12 to 31 are ILLEGAL. -/
def Sys2Proof.Claims.controlRead : Prop :=
  ∀ (s : State) (d b : BitVec 5),
    let x := s.me
    let reads := fun (v : W64) => ∃ t, exec (.rdk d b) s = .next t ∧ ScalarDone s t d v
    (b = 0 → reads (x.rstpc.zeroExtend 64)) ∧ (b = 1 → reads x.taskid) ∧ (b = 2 → reads (x.prio.zeroExtend 64)) ∧
    (b = 3 → reads (x.ctx.zeroExtend 64)) ∧ (b = 4 → reads (w64 (x.feat.toNat + s.coreFeat (coreOf s.cur) * 2 ^ 32))) ∧
    (b = 5 → reads x.holdlim) ∧ (b = 6 → reads (w64 (s.wsPhase (dieOf (coreOf s.cur))))) ∧
    (b = 7 → ∃ n, s.cycle ≤ n ∧ n ≤ s.cycle + 8 ∧ ∃ t, exec (.rdk d b) s = .next t ∧ ScalarDone { s with fresh := s.fresh + 1 } t d (w64 n)) ∧
    (b = 8 → reads x.fsp) ∧ (b = 9 → reads x.fslim) ∧ (b = 10 → reads (w64 (x.wb.toNat + x.res.toNat * 128))) ∧
    (b = 11 → reads (w64 (slotId s.cur))) ∧
    (12 ≤ b.toNat → ∃ w, encode (.rdk d b) = some w ∧ exec (.rdk d b) s = .next (s.freeze s.cur ⟨1, 0, w.zeroExtend 64⟩))

/-- WRK writes HOLDLIM, FSP or FSLIM within their ranges and nothing else; every other number or value is ILLEGAL and leaves them. -/
def Sys2Proof.Claims.controlWritten : Prop :=
  ∀ (s : State) (a b : BitVec 5),
    let v := s.me.s a
    let okLim := 256 ≤ v.toNat ∧ v.toNat ≤ 2 ^ 31
    let okFsp := v = 0 ∨ (v.toNat % 32 = 0 ∧ v.toNat / 2 ^ 60 ∈ [0, 1, 2, 4])
    let wrote := fun (y : Slot) => ∃ t, exec (.wrk a b) s = .next t ∧ OnlyMe s t ∧ t.me = { y with pc := s.me.pc + 4, begun := false, stamped := false, stepDone := s.me.stepping }
    (b = 5 → okLim → wrote { s.me with holdlim := v }) ∧ (b = 8 → okFsp → wrote { s.me with fsp := v }) ∧
    (b = 9 → wrote { s.me with fslim := v }) ∧
    ((b = 5 ∧ ¬ okLim ∨ b = 8 ∧ ¬ okFsp ∨ b ∉ [5, 8, 9]) →
      ∃ w, encode (.wrk a b) = some w ∧ exec (.wrk a b) s = .next (s.freeze s.cur ⟨1, 0, w.zeroExtend 64⟩))

/-- A packet at die `d` from slot `g`: it waits behind those that wait, in the die's queue of 64 or in its slot; it waits while the ring is off
or full; else the ring's entry `head mod 2^n` receives it, the head rises by one, as a release at DEVICE scope, the slot's fault mirror
receives it with the fault count, and it counts as sent (R322, R323). -/
def Sys2Proof.Claims.packetsSent : Prop :=
  ∀ (s : State) (d g : Nat) (pkt : W256), g < Config.slots →
    let x := s.die d
    let t := s.sendPacket d g pkt
    let base := x.fqbase.toNat / 64 % 2 ^ 46 * 64
    let n := 2 ^ (x.fqctl.toNat / 256 % 32)
    let mir := localKey (coreOf g) (0x27040 + 0x400 * (g % 4))
    let kept := fun (t : State) => (x.fqheld.length < 64 → (t.die d).fqheld = x.fqheld ++ [(g, pkt)]) ∧
      (64 ≤ x.fqheld.length → (t.die d).fqheld = x.fqheld ∧ (t.slot g).packet = some pkt)
    (x.fqheld ≠ [] ∨ x.fqctl.toNat % 2 = 0 → kept t ∧ t.mem = s.mem) ∧
    (x.fqheld = [] → x.fqctl.toNat % 2 = 1 → s.ckHold mir = false →
      ∀ (u v w z : State) (head tail : Nat), s.sysRead d base 8 = (u, some head) → u.sysRead d (base + 8) 8 = (v, some tail) →
        head < 2 ^ 64 → tail < 2 ^ 64 →
        ((head + 2 ^ 64 - tail) % 2 ^ 64 = n → kept t) ∧
        ((head + 2 ^ 64 - tail) % 2 ^ 64 ≠ n → v.sysWrite d (base + 64 + 32 * (head % n)) 32 pkt.toNat false = (w, true) →
          w.sysWrite d base 8 (head + 1) true = (z, true) →
          (t.die d).fqheld = [] ∧ (t.die d).fqsent = (z.die d).fqsent + 1 ∧ t.nat mir 32 = pkt.toNat ∧
          t.nat (mir + 32) 8 = (z.slot g).faults.toNat ∧ ∀ k, k < mir ∨ mir + 40 ≤ k → t.mem.get 0 k = z.mem.get 0 k))

/-- What becomes of a fault that a target returned for slot `g` (R93, R258 to R260, R340): in write-through mode WTFAULT at the instruction; POISON restarts
the segment, and the third time on one line freezes; a page that is not present evicts the task, its context saved with pc at the restart point, and
sends the paging packet; any other fault freezes the slot at its restart point. -/
def Sys2Proof.Claims.targetFates : Prop :=
  ∀ (s : State) (g : Nat) (f : FaultInfo) (ipc : Pc), g < Config.slots →
    let x := s.slot g
    let t := s.targetFault g f ipc
    let absent := f.cause = 4 ∧ f.detail.toNat % 2 ^ 4 = 3
    let times := if x.paddr = lineOf f.addr ∧ x.prest ≠ 0 then x.prest.toNat + 1 else 1
    let given := fun (y : Slot) => y.rstpc = x.rstpc ∧ y.buf = [] ∧ ∀ r, y.s r = x.s r
    (x.through = true → ∃ u : State, t = u.freeze g ⟨0x0D, f.addr, w64 (f.cause.toNat + f.detail.toNat % 2 ^ 4 * 2 ^ 8)⟩ ∧ u.mem = s.mem ∧ u.slot g = { x with pc := ipc, buf := [] }) ∧
    (x.through = false → f.cause = 7 → times < 3 → (t.slot g).state = .running ∧ (t.slot g).pc = x.rstpc ∧ (t.slot g).prest.toNat = times ∧ given (t.slot g) ∧ t.mem = s.mem) ∧
    (x.through = false → f.cause = 7 → 3 ≤ times → ∃ u : State, t = u.freeze g ⟨7, lineOf f.addr, 2⟩ ∧ (u.slot g).pc = x.rstpc ∧ given (u.slot g) ∧ u.mem = s.mem) ∧
    (x.through = false → absent → x.npre = false → ∃ (u : State) (p : W256), t = u.sendPacket (dieOf (coreOf g)) g p ∧ (u.slot g).state = .preempted ∧ (u.slot g).pc = x.rstpc ∧
      given (u.slot g) ∧ (u.slot g).lastCause = 5 ∧ (u.slot g).faults = x.faults + 1 ∧ u.nat (ctxKey g + 0x38) 8 = x.rstpc.toNat ∧
      u.nat (ctxKey g + 0x40) 8 = x.rstpc.toNat ∧ (∀ j, j < ctxKey g ∨ ctxKey g + 0x700 ≤ j → u.mem.get 0 j = s.mem.get 0 j) ∧
      p.toNat % 2 ^ 8 = 5 ∧ p.toNat / 2 ^ 32 % 2 ^ 48 = x.rstpc.toNat ∧ p.toNat / 2 ^ 128 % 2 ^ 64 = f.addr.toNat) ∧
    (x.through = false → f.cause ≠ 7 → (¬ absent ∨ x.npre = true) → ∃ u : State, t = u.freeze g f ∧ (u.slot g).pc = x.rstpc ∧ given (u.slot g) ∧ u.mem = s.mem)

/-- Words of the rows of R26's table, and the feature bits that they require. -/
def Sys2Proof.Claims.requires (i : Instr) (need : Nat) : Prop :=
  (∃ d a b tw mk, i = .vadd d a b tw mk ∧ need = 1) ∨ (∃ d q, i = .vsread d q ∧ need = 1) ∨
  (∃ d a b mk, i = .vfdiv d a b .fp32 mk ∧ need = 10 ∨ i = .vfdiv d a b .fp16 mk ∧ need = 12 ∨ i = .vfdiv d a b .bf16 mk ∧ need = 12) ∨
  (∃ d a rm, i = .vcvt d a .fp32 .i8 rm ∧ need = 3 ∨ i = .vcvt d a .fp16 .fp32 rm ∧ need = 6) ∨ (∃ vs n chk, i = .cmdq vs .matrix n chk ∧ need = 16) ∨
  (∃ vs, i = .chld vs ∧ need = 32) ∨ ∃ d a, (i = .tokacq d a ∨ i = .tokrel d a) ∧ need = 64

/-- Feature migration: a word whose bits its core lacks raises no fault. Its segment is abandoned and the missing bits join the task's mask; with no frame
stack, or no enabled core of its placement that has the mask, the slot freezes with NOFEAT; else the task is saved and goes, at its
restart point, to the ready list of its cluster (R26, R253, R261). -/
def Sys2Proof.Claims.featuresMigrate : Prop :=
  ∀ (s : State) (i : Instr) (need : Nat), requires i need → maskHas (s.coreFeat (coreOf s.cur)) need = false → s.me.guard = none → s.me.mode = .none →
    (∀ n ∈ s.notes, n.g ≠ s.cur) → s.storing s.cur = false → (∀ k ∈ s.chains, k.g ≠ s.cur) → s.me.stepping = false →
    let x := s.me
    let c := coreOf s.cur
    let cl := clusterOf c
    let want := x.feat.toNat ||| (need - (need &&& s.coreFeat c))
    let able := ∃ k, k < Config.cores ∧ inPlace (x.place.toNat % 8) cl c k = true ∧ frameAllows (rewrite c x.fsp) k = true ∧ s.enabled k = true ∧
      maskHas (s.coreFeat k) want = true
    (x.fsp = 0 ∨ ¬ able → ∃ u : State, exec i s = .next (u.freeze s.cur ⟨0x0E, 0, w64 want⟩) ∧ u.mem = s.mem ∧ u.me.pc = x.rstpc ∧ u.me.rstpc = x.rstpc ∧
      u.me.feat.toNat = want ∧ u.me.buf = [] ∧ u.me.through = false) ∧
    (x.fsp ≠ 0 → able → ∃ w : State, w.mem = s.mem ∧ w.me.pc = x.rstpc ∧ w.me.feat.toNat = want ∧ w.me.buf = [] ∧ w.me.through = false ∧
      (∀ u, w.saveWindow s.cur = (u, .ok ()) → ∃ t r, exec i s = .next t ∧ t.mem = u.mem ∧ t.me.state = .empty ∧
        (t.cluster cl).ready = (u.cluster cl).ready ++ [r] ∧ stPc r.st = x.rstpc.toNat ∧ stState r.st = 0 ∧ stFeat r.st = want ∧ stCtx r.st = x.ctx ∧
        stPrio r.st = x.prio.toNat ∧ r.core = c) ∧
      ∀ u f, w.saveWindow s.cur = (u, .bad f) → s.evictWaits s.cur f = false → exec i s = .next (u.wordFault s.cur f))

/-- Signatures: a word that begins in a checked block takes one step of the fold; a block entered at its first word begins with the table's prefix, and is bad from
the start where the block before it is known and no predecessor. A block that ends as the table says leaves the slot running; one
that does not stops it before the next word: SIGCHK, the core quarantined, its other tasks frozen too, and the context, unless it is 0, asked to be killed
(R341, R342, R344). -/
def Sys2Proof.Claims.blocksJudged : Prop :=
  ∀ (s : State) (g : Nat), g < 4 * Config.cores →
    let x := s.slot g
    let c := coreOf g
    let item := fun (f : W32) (w : W32) => f.rotateLeft 5 ^^^ BitVec.ofNat 32 (depItem w)
    (∀ w r place, s.sigWindow (dieOf c) x.ctx x.pc = some place → x.sig = some r → ∃ t y, s.sigStart g w = .ok t ∧ t.mem = s.mem ∧ (t.slot g).sig = some y ∧
      y.left = r.left - 1 ∧ y.fold = item r.fold w ∧ y.want = r.want ∧ y.bad = r.bad ∧ y.start = r.start) ∧
    (∀ w text len table u e, s.sigWindow (dieOf c) x.ctx x.pc = some (text, len, table) → x.sig = none →
      s.checkEntry (clusterOf c) x.ctx table (x.pc.toNat - text) 0 (len / 4 + 1) = .ok (u, some e) →
      e % 2 ^ 32 = x.pc.toNat - text → ∃ t y, s.sigStart g w = .ok t ∧ (t.slot g).sig = some y ∧
        y.left = e / 2 ^ 32 % 2 ^ 16 - 1 ∧ y.fold = item (BitVec.ofNat 32 (e / 2 ^ 64)) w ∧ y.want = BitVec.ofNat 32 (e / 2 ^ 96) ∧
        (y.bad = true ↔ ∃ a, x.prevBlock = some a ∧ e / 2 ^ 48 % 2 = 0 ∧ e / 2 ^ 49 % 2 ^ 3 ≤ 4 ∧
          ∀ k, k < e / 2 ^ 49 % 2 ^ 3 → e / 2 ^ (128 + 32 * k) % 2 ^ 32 ≠ a)) ∧
    ∀ r, x.sig = some r → r.left = 0 → x.begun = false →
      let t := s.sigEnd g
      (r.bad = false → r.fold = r.want → t.slot g = { x with sig := none, prevBlock := if r.jr then none else some r.start } ∧ t.mem = s.mem ∧ t.cores = s.cores) ∧
      (r.bad = true ∨ r.fold ≠ r.want → x.state ≠ .empty → (t.slot g).state = .frozen ∧ (t.slot g).lastCause = 0x13 ∧ (t.core c).quarantined = true ∧
        (∀ k, k < 4 → (s.slot (4 * c + k)).state ≠ .empty → (t.slot (4 * c + k)).state = .frozen) ∧
        (x.state ≠ .preempted → x.ctx ≠ 0 → t.killing.isSome = true))

/-- TAKING A FAULT: the slot is FROZEN where its pc stands, cause and count are kept, a step or pre-empt under way ends, and nothing else of
the slot changes, but that a signature block whose last word is this TRAP, BRK or HALT stays to be judged; the packet holds cause, wt, pc,
restart point, address and detail, and it is the one that goes to the die's ring.
Which slots a mismatch freezes beside the RUNNING and HELD ones (log entry 24) is the model's choice. -/
def Obligations.TakingAFault : Prop := packetsSent ∧ targetFates ∧ featuresMigrate ∧ blocksJudged ∧
  ∀ (s : State) (g : Nat) (f : FaultInfo),
    let x := s.slot g
    let t := s.freeze g f
    let p := (s.packet g f).toNat
    (∃ u : State, t = u.sendPacket (dieOf (coreOf g)) g (s.packet g f) ∧ u.mem = s.mem ∧ u.dies = s.dies ∧ (u.slot g).packet = x.packet ∧
      (u.slot g).faults = x.faults + 1) ∧
    t.slot g = { x with state := .frozen, hold := .none, await := .none, mode := .none, lastCause := f.cause, faults := x.faults + 1,
                        stepping := false, stepDone := false, begun := false, stamped := false, sig := (t.slot g).sig, prevBlock := none, inspect := (f.cause == 0x11),
                        busy := false, preempting := false, cmdStatus := if x.preempting then 4 else x.cmdStatus, packet := (t.slot g).packet } ∧
    (t.slot g).sig = (if f.cause = 0x0F ∨ f.cause = 0x10 ∨ f.cause = 0x11 then x.sig.filter fun r => r.left == 0 else none) ∧
    (g < Config.slots → fld p 0 8 = f.cause.toNat ∧ fld p 8 2 = g % 4 ∧ fld p 15 11 = clusterOf (coreOf g) ∧ fld p 26 1 = b2n x.through ∧
      fld p 27 5 = 0 ∧ fld p 32 48 = x.pc.toNat ∧ fld p 80 48 = x.rstpc.toNat ∧ fld p 128 64 = f.addr.toNat ∧ fld p 192 64 = f.detail.toNat ∧
      fld p 10 5 = if coreOf g < Config.cores then coreOf g % 32 else 0)

/-- TRAP and HALT commit and then freeze at the word with sa in the packet, the restart point at the next word; BRK freezes without a commit, its
segment and restart point as they were. Completes: trap, brk, halt. -/
def Obligations.TrapBrkHaltFreeze : Prop :=
  ∀ (s : State) (a : BitVec 5),
    (Quiet s → ∀ i c, (i = .trap a ∧ c = 0x0F ∨ i = .halt a ∧ c = 0x11) →
      ∃ u t, exec i s = .next t ∧ t = u.freeze s.cur ⟨c, s.me.s a, 0⟩ ∧ OnlyMeTraced s u ∧
        u.me = { AtWord s.me with rstpc := s.me.pc + 4 } ∧
        t.me.state = .frozen ∧ t.me.pc = s.me.pc ∧ t.me.inspect = (c == 0x11)) ∧
    ∃ t, exec .brk s = .next t ∧ t = s.freeze s.cur ⟨0x10, 0, 0⟩ ∧ t.me.state = .frozen ∧ t.me.pc = s.me.pc ∧ t.me.rstpc = s.me.rstpc ∧
      t.me.buf = s.me.buf

/-- ICINV and KSYNC, with nothing to wait for, set their invalidation going and wait for it; it completes, and the slot goes on at the next
instruction, its restart point there. -/
def Sys2Proof.Claims.invalidationsBegin : Prop :=
  ∀ (s : State) (a : BitVec 5), Quiet s →
    let v := s.me.s a
    let cl := clusterOf (coreOf s.cur)
    let on := fun (u : State) => u.me.await = .none ∧ u.me.pc = s.me.pc + 4 ∧ u.me.rstpc = s.me.pc + 4 ∧ u.mem = s.mem
    (∃ t, exec .icinv s = .next t ∧ t.me = { AtWord s.me with await := .reply s.nextId } ∧
      (t.cluster cl).icFlush = (s.cluster cl).icFlush ++ [s.cur] ∧ t.mem = s.mem ∧
      ∃ u, exec (.icinvComplete s.cur) t = .next u ∧ (u.cluster cl).icache = [] ∧ on u) ∧
    (v.toNat / 2 ^ 60 ∈ [0, 1, 2, 4] → addrOk (isSup (coreOf s.cur)) v = true → v.toNat % 64 = 0 →
      ∃ t, exec (.ksync a) s = .next t ∧ t.me = { AtWord s.me with await := .reply s.nextId } ∧
        t.ksyncs = s.ksyncs ++ [(s.cur, s.canon (coreOf s.cur) v)] ∧ t.mem = s.mem ∧
        ∃ u, exec (.ksyncComplete s.cur) t = .next u ∧ u.ksyncs.all (fun k => k.1 != s.cur) = true ∧ on u) ∧
    (v.toNat / 2 ^ 60 ∉ [0, 1, 2, 4] ∨ addrOk (isSup (coreOf s.cur)) v = false → exec (.ksync a) s = .next (s.freeze s.cur ⟨2, v, 0⟩)) ∧
    (v.toNat / 2 ^ 60 ∈ [0, 1, 2, 4] → addrOk (isSup (coreOf s.cur)) v = true → v.toNat % 64 ≠ 0 →
      exec (.ksync a) s = .next (s.freeze s.cur ⟨3, v, 0⟩))

/-- An invalidation completes: the cluster's instruction cache is empty, or the block's cached copies are stale, and the slot goes on with
its restart point at the next word. -/
def Sys2Proof.Claims.invalidationsComplete : Prop :=
  ∀ (s : State) (g : Nat),
    let x := s.slot g
    let on : Slot := { x with await := .none, pc := x.pc + 4, rstpc := x.pc + 4, seg := x.seg + 1, begun := false, stamped := false, stepDone := x.stepping }
    ((s.cluster (clusterOf (coreOf g))).icFlush.contains g = true →
      ∃ t, exec (.icinvComplete g) s = .next t ∧ (t.cluster (clusterOf (coreOf g))).icache = [] ∧ t.slot g = on ∧ t.mem = s.mem ∧
        ∀ k, k ≠ clusterOf (coreOf g) → t.cluster k = s.cluster k) ∧
    ∀ blk, s.ksyncs.find? (fun k => k.1 == g) = some (g, blk) →
      ∃ t, exec (.ksyncComplete g) s = .next t ∧ t.slot g = on ∧ t.mem = s.mem ∧ t.ksyncs.all (fun k => k.1 != g) = true ∧
        ∀ k ∈ t.skeins, k.descAt = blk → (tagOf blk ≠ 4 ∨ k.ctx = x.ctx) → k.stale = true

/-- A stream register with an item: SREAD and VSREAD remove what they take, oldest first, SPEEK leaves it, SDROP discards everything. -/
def Sys2Proof.Claims.streamReads : Prop :=
  ∀ (s : State) (d : BitVec 5) (dv : BitVec 4) (q : BitVec 2) (v : W64) (rest : List W64),
    let r := s.me.st q.toNat
    let left := fun (l : List W64) => if r.last = true ∧ l = [] then ({ r with items := l, src := none, last := false } : Stream) else { r with items := l }
    (r.items = v :: rest →
      (∃ t, exec (.sread d q) s = .next t ∧ (∀ k, t.me.st k = if k = q.toNat then left rest else s.me.st k) ∧ ScalarDone (s.modMe fun x => x.setSt q.toNat (left rest)) t d v) ∧
      ∃ t, exec (.speek d q) s = .next t ∧ ScalarDone s t d v) ∧
    (∃ t, exec (.sstat d q) s = .next t ∧ ScalarDone s t d (w64 (r.items.length + b2n r.src.isSome * 2 ^ 8 +
      (match r.src with | some (.cpys _) => 2 ^ 9 | _ => 0) + b2n r.fail * 2 ^ 10 +
      b2n (s.mxOf s.cur s.me.task q.toNat) * 2 ^ 11))) ∧
    (∃ t, exec (.sdrop q) s = .next t ∧ OnlyMe s t ∧
      t.me = { s.me with q := t.me.q, pc := s.me.pc + 4, begun := false, stamped := false, stepDone := s.me.stepping } ∧
      ∀ k, t.me.st k = if k = q.toNat then { r with src := none, items := [], last := false } else s.me.st k) ∧
    (Has s 1 → r.src ≠ none ∨ s.me.woken = true → 4 ≤ r.items.length →
      ∃ t, exec (.vsread dv q) s = .next t ∧ VectorDone (s.modMe fun x => x.setSt q.toNat (left (r.items.drop 4))) t dv ∧
        ∀ i, i < 4 → some (w64 (elem (t.me.vr dv) 64 i)) = r.items[i]?)

/-- A read of an empty stream register waits while a producer is bound and is QIDLE where none is. -/
def Sys2Proof.Claims.streamWaits : Prop :=
  ∀ (s : State) (d : BitVec 5) (q : BitVec 2), (s.me.st q.toNat).items = [] →
    ∀ i, (i = .sread d q ∨ i = .speek d q) →
      ((s.me.st q.toNat).src.isSome = true → ∃ t, exec i s = .next t ∧ OnlyMe s t ∧ t.me = { s.me with state := .held, hold := .stream q.toNat 1, heldSince := s.cycle }) ∧
      ((s.me.st q.toNat).src = none → exec i s = .next (s.freeze s.cur ⟨8, 0, w64 q.toNat⟩))

/-- NOP, COMMIT, RDK and WRK. Completes: nop, commit, rdk, wrk. -/
def Obligations.SystemWords : Prop := nopAndCommit ∧ controlRead ∧ controlWritten

/-- ICINV and KSYNC from their start to their end. Completes: icinv, ksync, icinvComplete, ksyncComplete. -/
def Obligations.Invalidations : Prop := invalidationsBegin ∧ invalidationsComplete

/-- SREAD, SPEEK, SSTAT, SDROP and VSREAD. Completes: sread, speek, sstat, sdrop, vsread. -/
def Obligations.StreamWords : Prop := streamReads ∧ streamWaits

/-! Vector words (R194 to R207) -/

/-- The integer words of the V group on a core with VECI: each governed 32-bit element of vd, as R197 defines it on va and on vb after the
twist; no other register changes. -/
def Sys2Proof.Claims.groupIntegers : Prop :=
  ∀ (s : State) (d a b : BitVec 4) (tw : BitVec 12) (mk : BitVec 2), Has s 1 →
    let m := s.me.mr mk.toNat
    let v := fun k => elem (s.me.vr d) 32 k
    let x := fun k => elem (s.me.vr a) 32 k
    let y := fun k => elem (s.me.vr b) 32 (twistIdx tw k)
    let int := fun n : Nat => (BitVec.ofNat 32 n).toInt
    let done := fun (i : Instr) (f : Nat → Nat) => ∃ t, exec i s = .next t ∧ VectorDone s t d ∧ Governed 32 8 m (s.me.vr d) (t.me.vr d) f
    twistOk tw = true →
    done (.vadd d a b tw mk) (fun k => x k + y k) ∧
    done (.vsub d a b tw mk) (fun k => x k + (2 ^ 32 - y k)) ∧
    done (.vmul d a b tw mk) (fun k => x k * y k) ∧
    done (.vmac d a b tw mk) (fun k => v k + x k * y k) ∧
    done (.vand d a b tw mk) (fun k => x k &&& y k) ∧
    done (.vor d a b tw mk) (fun k => x k ||| y k) ∧
    done (.vxor d a b tw mk) (fun k => x k ^^^ y k) ∧
    done (.vshl d a b tw mk) (fun k => x k * 2 ^ (y k % 32)) ∧
    done (.vshr d a b tw mk) (fun k => x k / 2 ^ (y k % 32)) ∧
    done (.vmin d a b tw mk) (fun k => if int (x k) ≤ int (y k) then x k else y k) ∧
    done (.vmax d a b tw mk) (fun k => if int (y k) ≤ int (x k) then x k else y k) ∧
    done (.vsel d a b tw mk) (fun k => (x k &&& v k) ||| (y k &&& (2 ^ 32 - 1 - v k))) ∧
    done (.vmov d b tw mk) y

/-- The twists that R20 lists are the valid ones. Under a valid one the operation reads, in the element's own segment of L elements: for a rotation
the element dist further, for a butterfly the element whose place differs by dist, for a broadcast the element dist, and else the element itself. -/
def Obligations.TwistsReadTheirSegment : Prop :=
  ∀ (tw : BitVec 12),
    let cls := tw.toNat / 2 ^ 10
    let seg := tw.toNat / 2 ^ 7 % 8
    let dist := tw.toNat % 2 ^ 7
    let L := if seg = 0 then 8 else 2 ^ seg
    (twistOk tw = true ↔ (cls = 0 ∧ seg = 0 ∧ dist = 0) ∨ (cls ≠ 0 ∧ seg ≤ 3 ∧ dist < L ∧ (cls = 2 → dist = 1 ∨ dist = 2 ∨ dist = 4))) ∧
    (twistOk tw = true → ∀ i, i < 8 →
      let b := i - i % L
      (cls = 0 → twistIdx tw i = i) ∧ (cls = 1 → twistIdx tw i = b + (i % L + dist) % L) ∧ (cls = 2 → twistIdx tw i = b + (i % L ^^^ dist)) ∧
      (cls = 3 → twistIdx tw i = b + dist))

/-- The rational number that a finite value is. -/
def Sys2Proof.Claims.flVal : Fl → Option Rat
  | .fin n m e => some (mkRat ((if n then -(m : Int) else m) * 2 ^ e.toNat) (2 ^ (-e).toNat))
  | _ => none

/-- The magnitude of a number. -/
def Sys2Proof.Claims.mag (z : Rat) : Rat := if z < 0 then -z else z

/-- Pattern `r` of format `f` is the number `z` rounded once by a mode: 0 to nearest, ties to even, 1 toward zero, 2 upward, 3 downward; its
sign bit is `neg`, a zero's too. To nearest, the result is infinite from half a step above the largest finite value on: the model's choice,
made after rounding (R141, R198; log entry 91). -/
def Sys2Proof.Claims.Rounded (f : Fmt) (mode : Nat) (neg : Bool) (z : Rat) (r : Nat) : Prop :=
  let wid := f.man + f.exp + 1
  let big : Rat := mkRat ((2 ^ (f.man + 1) - 1) * 2 ^ (f.bias - f.man)) 1
  let huge : Rat := mkRat (2 ^ (f.bias + 1)) 1
  r < 2 ^ wid ∧ bit r (wid - 1) = neg ∧
  match flVal (flDec f r) with
  | some v =>
    (mode = 0 → 2 * mag z < big + huge) ∧ (mode = 1 → mag v ≤ mag z) ∧ (mode = 2 → z ≤ v) ∧ (mode = 3 → v ≤ z) ∧
    ∀ p w, p < 2 ^ wid → flVal (flDec f p) = some w → w ≠ v →
      (mode = 0 → (w < v → w + v ≤ 2 * z) ∧ (v < w → 2 * z ≤ w + v) ∧ (w + v = 2 * z → r % 2 = 0)) ∧
      (mode = 1 → mag v < mag w → mag z < mag w) ∧ (mode = 2 → w < v → w < z) ∧ (mode = 3 → v < w → z < w)
  | none => flDec f r = .inf neg ∧ (mode = 0 → big + huge ≤ 2 * mag z) ∧ mode ≠ 1 ∧ (mode = 2 → neg = false ∧ big < z) ∧
    (mode = 3 → neg = true ∧ z < -big)

/-- The one rounding of the floating words and of VCVT, in each of the three formats: of a finite value, of an infinity and of NaN, whose pattern
is the canonical one (R13, R140, R141, R198). -/
def Sys2Proof.Claims.roundedOnce : Prop :=
  ∀ (f : Fmt) (mode : Nat) (n : Bool) (m : Nat) (e : Int), f ∈ [fmtOf .fp32, fmtOf .fp16, fmtOf .bf16] → mode < 4 →
    (∀ z, flVal (.fin n m e) = some z → Rounded f mode n z (flEnc f mode (.fin n m e))) ∧
    flDec f (flEnc f mode (.inf n)) = .inf n ∧
    flEnc (fmtOf .fp32) mode .nan = 0x7FC00000 ∧ flEnc (fmtOf .fp16) mode .nan = 0x7E00 ∧ flEnc (fmtOf .bf16) mode .nan = 0x7FC0

/-- Sums and products are exact, their special operands as R199 has them; a zero sum of opposite signs is +0; a product's sign is the xor of
its operands' signs (R198, R199). -/
def Sys2Proof.Claims.sumsAndProducts : Prop :=
  ∀ (n n' : Bool) (m m' : Nat) (e e' : Int) (a b : Rat),
    let x : Fl := .fin n m e
    let y : Fl := .fin n' m' e'
    flVal x = some a → flVal y = some b →
    flVal (flAdd x y) = some (a + b) ∧ flVal (flMul x y) = some (a * b) ∧
    (a + b = 0 → ∃ k q, flAdd x y = .fin (n && n') k q) ∧ (∃ k q, flMul x y = .fin (n != n') k q) ∧
    (∀ z, flAdd .nan z = .nan ∧ flAdd z .nan = .nan ∧ flMul .nan z = .nan ∧ flMul z .nan = .nan) ∧
    flAdd (.inf n) (.inf n') = (if n = n' then .inf n else .nan) ∧ flAdd (.inf n) y = .inf n ∧ flAdd x (.inf n') = .inf n' ∧
    flMul (.inf n) (.inf n') = .inf (n != n') ∧ flMul (.inf n) y = (if b = 0 then .nan else .inf (n != n')) ∧
    flMul x (.inf n') = if a = 0 then .nan else .inf (n != n')

/-- Quotients and square roots of elements are the exact ones rounded once to nearest; special operands as R199 has them. -/
def Sys2Proof.Claims.quotientsAndRoots : Prop :=
  ∀ (et : Et) (x y : Nat), et.isFloat = true → x < 2 ^ etWidth et → y < 2 ^ etWidth et →
    let f := fmtOf et
    let X := flDec f x
    let Y := flDec f y
    let sx := bit x (etWidth et - 1)
    let sy := bit y (etWidth et - 1)
    (∀ a b, flVal X = some a → flVal Y = some b →
      (b ≠ 0 → Rounded f 0 (sx != sy) (a / b) (flEnc f 0 (flDiv X Y))) ∧
      (b = 0 → flDiv X Y = if a = 0 then .nan else .inf (sx != sy))) ∧
    (flVal X = none → X ≠ .nan → flVal Y ≠ none → flDiv X Y = .inf (sx != sy)) ∧
    (flVal X ≠ none → flVal Y = none → Y ≠ .nan → ∃ e, flDiv X Y = .fin (sx != sy) 0 e) ∧
    (flVal X = none → flVal Y = none → flDiv X Y = .nan) ∧ (Y = .nan → flDiv X Y = .nan) ∧ (X = .nan → flDiv X Y = .nan ∧ flSqrt X = .nan) ∧
    (∀ a, flVal X = some a → 0 < a →
      let r := flEnc f 0 (flSqrt X)
      ∃ v, flVal (flDec f r) = some v ∧ 0 ≤ v ∧ ∀ p w, p < 2 ^ etWidth et → flVal (flDec f p) = some w → 0 ≤ w → w ≠ v →
        (w < v → (w + v) * (w + v) ≤ 4 * a) ∧ (v < w → 4 * a ≤ (w + v) * (w + v)) ∧ ((w + v) * (w + v) = 4 * a → r % 2 = 0)) ∧
    (∀ a, flVal X = some a → a < 0 → flSqrt X = .nan) ∧ (flVal X = some 0 → ∃ e, flSqrt X = .fin sx 0 e) ∧
    (X = .inf true → flSqrt X = .nan) ∧ (X = .inf false → flSqrt X = .inf false)

/-- One value lies below another, −0 and +0 being equal; NaN below and above nothing (R202). -/
def Sys2Proof.Claims.Below (x y : Fl) : Prop :=
  match flVal x, flVal y with
  | some a, some b => a < b
  | none, some _ => x = .inf true
  | some _, none => y = .inf false
  | none, none => x = .inf true ∧ y = .inf false

/-- The minimum and maximum keep their operands' order, −0 below +0; the absolute value and the negation change the sign alone (R199). -/
def Sys2Proof.Claims.minimaAndSigns : Prop :=
  ∀ x y : Fl, (x = .nan ∨ y = .nan → flMin x y = .nan ∧ flMax x y = .nan) ∧
    (x ≠ .nan → y ≠ .nan →
      (Below x y → flMin x y = x ∧ flMin y x = x ∧ flMax x y = y ∧ flMax y x = y) ∧
      (∀ m e m' e', x = .fin true m e → y = .fin false m' e' → flVal x = some 0 → flVal y = some 0 →
        flMin x y = x ∧ flMin y x = x ∧ flMax x y = y ∧ flMax y x = y)) ∧
    flNeg .nan = .nan ∧ flAbs .nan = .nan ∧ (∀ n, flNeg (.inf n) = .inf (! n) ∧ flAbs (.inf n) = .inf false) ∧
    ∀ n m e, flNeg (.fin n m e) = .fin (! n) m e ∧ flAbs (.fin n m e) = .fin false m e

/-- The conditions of VCMP on two elements: on integers by their value in the type, on unsigned patterns, and on floating values, with NaN
(R202). -/
def Sys2Proof.Claims.conditions : Prop :=
  ∀ (et : Et) (x y : Nat), x < 2 ^ etWidth et → y < 2 ^ etWidth et →
    let c := fun n => vcond n et x y = true
    (et.isFloat = false →
      let w := etWidth et
      let X : Int := if et = .u32 then x else (BitVec.ofNat w x).toInt
      let Y : Int := if et = .u32 then y else (BitVec.ofNat w y).toInt
      (c 0 ↔ x = y) ∧ (c 1 ↔ x ≠ y) ∧ (c 2 ↔ X < Y) ∧ (c 3 ↔ X ≤ Y) ∧ (c 4 ↔ Y < X) ∧ (c 5 ↔ Y ≤ X) ∧
      (c 8 ↔ x < y) ∧ (c 9 ↔ x ≤ y) ∧ (c 10 ↔ y < x) ∧ (c 11 ↔ y ≤ x)) ∧
    (et.isFloat = true →
      let X := flDec (fmtOf et) x
      let Y := flDec (fmtOf et) y
      let nan := X = .nan ∨ Y = .nan
      (nan → ¬ c 0 ∧ c 1 ∧ ¬ c 2 ∧ ¬ c 3 ∧ ¬ c 4 ∧ ¬ c 5 ∧ c 6) ∧
      (¬ nan → (c 0 ↔ ¬ Below X Y ∧ ¬ Below Y X) ∧ (c 1 ↔ ¬ c 0) ∧ (c 2 ↔ Below X Y) ∧ (c 3 ↔ ¬ Below Y X) ∧ (c 4 ↔ Below Y X) ∧
        (c 5 ↔ ¬ Below X Y) ∧ ¬ c 6))

/-- A number rounded to an integer by a mode (R141). -/
def Sys2Proof.Claims.RoundedInt (mode : Nat) (z : Rat) (k : Int) : Prop :=
  let v : Rat := mkRat k 1
  (mode = 0 → 2 * mag (z - v) ≤ 1 ∧ (2 * mag (z - v) = 1 → k % 2 = 0)) ∧
  (mode = 1 → mag v ≤ mag z ∧ mag z < mag v + 1 ∧ 0 ≤ v * z) ∧ (mode = 2 → z ≤ v ∧ v < z + 1) ∧ (mode = 3 → v ≤ z ∧ z < v + 1)

/-- One element converted: a number rounded by the mode into a floating type, or to an integer and then clamped to the integer type's range;
infinities and NaN (R141, R204). -/
def Sys2Proof.Claims.elementsConverted : Prop :=
  ∀ (src dst : Et) (mode x : Nat), mode < 4 → x < 2 ^ etWidth src →
    let w := etWidth dst
    let r := cvtElem src dst mode x
    let X := flDec (fmtOf src) x
    let lo : Int := if dst = .u32 then 0 else -2 ^ (w - 1)
    let hi : Int := if dst = .u32 then 2 ^ w - 1 else 2 ^ (w - 1) - 1
    let pat := fun (k : Int) => ((if k < lo then lo else if hi < k then hi else k) % 2 ^ w).toNat
    let number := fun (z : Rat) (neg : Bool) =>
      (dst.isFloat = true → Rounded (fmtOf dst) mode neg z r) ∧ (dst.isFloat = false → ∃ k, RoundedInt mode z k ∧ r = pat k)
    (src.isFloat = false →
      let k : Int := if src = .u32 then x else (BitVec.ofNat (etWidth src) x).toInt
      number (mkRat k 1) (decide (k < 0))) ∧
    (src.isFloat = true → (∀ z, flVal X = some z → number z (bit x (etWidth src - 1))) ∧
      (X = .nan → r = if dst.isFloat then flEnc (fmtOf dst) 0 .nan else 0) ∧
      ∀ n, X = .inf n → r = if dst.isFloat then flInf (fmtOf dst) n else if n then pat lo else pat hi)

/-- The floating words of the V group, on a core with VECF32: the exact result rounded once to FP32 (R197, R198). -/
def Sys2Proof.Claims.groupFloats : Prop :=
  ∀ (s : State) (d a b : BitVec 4) (tw : BitVec 12) (mk : BitVec 2), Has s 2 → twistOk tw = true →
    let m := s.me.mr mk.toNat
    let v := fun k => flDec fp32 (elem (s.me.vr d) 32 k)
    let x := fun k => flDec fp32 (elem (s.me.vr a) 32 k)
    let y := fun k => flDec fp32 (elem (s.me.vr b) 32 (twistIdx tw k))
    let done := fun (i : Instr) (f : Nat → Fl) =>
      ∃ t, exec i s = .next t ∧ VectorDone s t d ∧ Governed 32 8 m (s.me.vr d) (t.me.vr d) fun k => flEnc fp32 0 (f k)
    done (.vfadd d a b tw mk) (fun k => flAdd (x k) (y k)) ∧
    done (.vfmul d a b tw mk) (fun k => flMul (x k) (y k)) ∧
    done (.vfma d a b tw mk) (fun k => flAdd (flMul (x k) (y k)) (v k))

/-- The typed integer words: every governed element modulo 2^w, saturated where R200 says so. -/
def Sys2Proof.Claims.typedIntegers : Prop :=
  ∀ (s : State) (d a b : BitVec 4) (et : Et) (mk : BitVec 2), Has s 1 → et.isFloat = false →
    let w := etWidth et
    let m := s.me.mr mk.toNat
    let x := fun k => elem (s.me.vr a) w k
    let y := fun k => elem (s.me.vr b) w k
    let X := fun k => etInt et (x k)
    let Y := fun k => etInt et (y k)
    let sat := fun (z : Int) => if z < etMin et then etMin et else if etMax et < z then etMax et else z
    let done := fun (i : Instr) (f : Nat → Int) =>
      ∃ t, exec i s = .next t ∧ VectorDone s t d ∧ Governed w (256 / w) m (s.me.vr d) (t.me.vr d) fun k => (f k % 2 ^ w).toNat
    done (.vaddt d a b et mk) (fun k => X k + Y k) ∧ done (.vsubt d a b et mk) (fun k => X k - Y k) ∧
    done (.vmult d a b et mk) (fun k => X k * Y k) ∧
    done (.vmint d a b et mk) (fun k => if X k ≤ Y k then X k else Y k) ∧
    done (.vmaxt d a b et mk) (fun k => if Y k ≤ X k then X k else Y k) ∧
    done (.vabs d a et mk) (fun k => (X k).natAbs) ∧ done (.vneg d a et mk) (fun k => - X k) ∧
    done (.vshlt d a b et mk) (fun k => x k * 2 ^ (y k % w)) ∧ done (.vshrt d a b et mk) (fun k => ((x k / 2 ^ (y k % w) : Nat) : Int)) ∧
    done (.vsrat d a b et mk) (fun k => X k / 2 ^ (y k % w)) ∧
    done (.vadds d a b et mk) (fun k => sat (X k + Y k)) ∧ done (.vsubs d a b et mk) (fun k => sat (X k - Y k))

/-- The typed floating words: the exact result of R201 rounded once to the type, a NaN canonical (R198, R199). -/
def Sys2Proof.Claims.typedFloats : Prop :=
  ∀ (s : State) (d a b : BitVec 4) (et : Et) (mk : BitVec 2), et.isFloat = true →
    let w := etWidth et
    let feat := if et = .fp32 then 2 else 4
    let v := fun k => flDec (fmtOf et) (elem (s.me.vr d) w k)
    let x := fun k => flDec (fmtOf et) (elem (s.me.vr a) w k)
    let y := fun k => flDec (fmtOf et) (elem (s.me.vr b) w k)
    let done := fun (i : Instr) (f : Nat → Fl) => ∃ t, exec i s = .next t ∧ VectorDone s t d ∧
      Governed w (256 / w) (s.me.mr mk.toNat) (s.me.vr d) (t.me.vr d) fun k => flEnc (fmtOf et) 0 (f k)
    (Has s feat →
      done (.vfsub d a b et mk) (fun k => flAdd (x k) (flNeg (y k))) ∧ done (.vfmint d a b et mk) (fun k => flMin (x k) (y k)) ∧
      done (.vfmaxt d a b et mk) (fun k => flMax (x k) (y k)) ∧ done (.vfabs d a et mk) (fun k => flAbs (x k)) ∧
      done (.vfneg d a et mk) (fun k => flNeg (x k)) ∧ done (.vfmat d a b et mk) (fun k => flAdd (flMul (x k) (y k)) (v k))) ∧
    (Has s (feat + 8) →
      done (.vfdiv d a b et mk) (fun k => flDiv (x k) (y k)) ∧ done (.vfsqrt d a et mk) (fun k => flSqrt (x k)) ∧
      done (.vfrcp d a et mk) (fun k => flDiv (flDec (fmtOf et) (flEnc (fmtOf et) 0 (.fin false 1 0))) (x k)))

/-- VCMP and the mask words: every bit below E of the result, zero above, or the count that MPOPC and MFIRST name; what each condition says of
two elements. Completes: vcmp, mand, mor, mxor, mnot, mpopc, mfirst. -/
def Obligations.ComparesAndMasks : Prop := conditions ∧
  ∀ (s : State) (d a : BitVec 4) (c : BitVec 4) (et : Et) (mk : BitVec 2) (md ma mb : BitVec 3) (sd : BitVec 4),
    let e := 256 / etWidth et
    let A := s.me.mr ma.toNat
    let B := s.me.mr mb.toNat
    let low := fun (f : Nat → Bool) (v : W32) => ∀ k, k < 32 → v.getLsbD k = (decide (k < e) && f k)
    let mask := fun (i : Instr) (f : Nat → Bool) => ∃ v t, exec i s = .next t ∧ MaskDone s t md.toNat v ∧ low f v
    let feat := if et = .fp32 then 2 else if et.isFloat then 4 else 1
    (Has s feat → condOk c et = true → ∃ v t, exec (.vcmp d a c et mk) s = .next t ∧ MaskDone s t mk.toNat v ∧
      low (fun k => vcond c.toNat et (elem (s.me.vr a) (etWidth et) k) (elem (s.me.vr d) (etWidth et) k)) v) ∧
    (Has s 1 →
      mask (.mand md ma mb et) (fun k => A.getLsbD k && B.getLsbD k) ∧ mask (.mor md ma mb et) (fun k => A.getLsbD k || B.getLsbD k) ∧
      mask (.mxor md ma mb et) (fun k => A.getLsbD k != B.getLsbD k) ∧ mask (.mnot md ma et) (fun k => ! A.getLsbD k) ∧
      (∃ t, exec (.mpopc sd ma et) s = .next t ∧ ScalarDone s t (sHi sd) (w64 ((List.range e).countP fun k => A.getLsbD k))) ∧
      ∃ n t, exec (.mfirst sd ma et) s = .next t ∧ ScalarDone s t (sHi sd) (w64 n) ∧ n ≤ e ∧ (∀ k, k < n → A.getLsbD k = false) ∧
        (n < e → A.getLsbD n = true))

/-- VCVT, VSPLAT, VEXT and VINS: the elements R204 and R205 name, the rest as before or zero. -/
def Sys2Proof.Claims.conversions : Prop :=
  ∀ (s : State) (d a : BitVec 4) (dt et : Et) (rm mk : BitVec 2) (sa sb sd : BitVec 4),
    let w := etWidth et
    let n := 256 / max (etWidth et) (etWidth dt)
    let feat := fun (t : Et) => if t = .fp32 then 2 else if t.isFloat then 4 else 1
    (Has s (feat et ||| feat dt) → ∃ t, exec (.vcvt d a dt et rm) s = .next t ∧ VectorDone s t d ∧
      (∀ k, k < n → elem (t.me.vr d) (etWidth dt) k = cvtElem et dt rm.toNat (elem (s.me.vr a) w k) % 2 ^ etWidth dt) ∧
      ∀ k, n ≤ k → k < 256 / etWidth dt → elem (t.me.vr d) (etWidth dt) k = 0) ∧
    (Has s 1 →
      (∃ t, exec (.vsplat d sa et mk) s = .next t ∧ VectorDone s t d ∧
        Governed w (256 / w) (s.me.mr mk.toNat) (s.me.vr d) (t.me.vr d) fun _ => (s.me.s (sHi sa)).toNat) ∧
      (∃ t, exec (.vext sd a sb et) s = .next t ∧
        ScalarDone s t (sHi sd) (extScalar et (elem (s.me.vr a) w ((s.me.s (sHi sb)).toNat % (256 / w))))) ∧
      ∃ t, exec (.vins d sa sb et) s = .next t ∧ VectorDone s t d ∧ ∀ k, k < 256 / w → elem (t.me.vr d) w k =
        if k = (s.me.s (sHi sb)).toNat % (256 / w) then (s.me.s (sHi sa)).toNat % 2 ^ w else elem (s.me.vr d) w k)

/-- The reductions take the contributing elements in ascending order, the scan writes each running result, and with no contributing element the result
is the operation's neutral value of the type (R206). Completes: vredadd, vredmin, vredmax, vscan. -/
def Obligations.ReductionsRunUpward : Prop :=
  ∀ (s : State) (sd d a : BitVec 4) (et : Et) (mk : BitVec 2), Has s (if et = .fp32 then 2 else if et.isFloat then 4 else 1) →
    let w := etWidth et
    let m := s.me.mr mk.toNat
    let elems := fun n => ((List.range n).filter fun k => bit m.toNat k).map fun k => elem (s.me.vr a) w k
    let run := fun (op : Nat) (l : List Nat) => match l with
      | [] => none
      | x :: l => some (l.foldl (redOp op et) (redOne et x))
    let big := if et.isFloat then flInf (fmtOf et) false else (etMax et % 2 ^ w).toNat
    let small := if et.isFloat then flInf (fmtOf et) true else (etMin et % 2 ^ w).toNat
    let done := fun (i : Instr) (op neutral : Nat) =>
      ∃ t, exec i s = .next t ∧ ScalarDone s t (sHi sd) (extScalar et ((run op (elems (256 / w))).getD neutral))
    done (.vredadd sd a et mk) 0 0 ∧ done (.vredmin sd a et mk) 1 big ∧ done (.vredmax sd a et mk) 2 small ∧
    ∃ t, exec (.vscan d a et mk) s = .next t ∧ VectorDone s t d ∧
      Governed w (256 / w) m (s.me.vr d) (t.me.vr d) fun k => (run 0 (elems (k + 1))).getD 0

/-- VPERM picks elements of va by vb; VCOMPRESS writes the selected elements of va in order from element 0 and leaves the rest (R207). -/
def Sys2Proof.Claims.permutations : Prop :=
  ∀ (s : State) (d a b : BitVec 4) (mb : BitVec 3) (et : Et) (mk : BitVec 2), Has s 1 →
    let w := etWidth et
    let sel := (List.range (256 / w)).filter fun k => bit (s.me.mr mb.toNat).toNat k
    (∃ t, exec (.vperm d a b et mk) s = .next t ∧ VectorDone s t d ∧
      Governed w (256 / w) (s.me.mr mk.toNat) (s.me.vr d) (t.me.vr d) fun k => elem (s.me.vr a) w (elem (s.me.vr b) w k % (256 / w))) ∧
    ∃ t, exec (.vcompress d a mb et mk) s = .next t ∧ VectorDone s t d ∧
      ∀ j, j < 256 / w → elem (t.me.vr d) w j =
        if bit (s.me.mr mk.toNat).toNat j then (match sel[j]? with | some k => elem (s.me.vr a) w k | none => elem (s.me.vr d) w j)
        else elem (s.me.vr d) w j

/-- The integer words of the V group and of VXI. Completes: vadd, vsub, vmul, vmac, vand, vor, vxor, vshl, vshr, vmin, vmax, vsel, vmov, vaddt, vsubt,
vmult, vmint, vmaxt, vabs, vneg, vshlt, vshrt, vsrat, vadds, vsubs. -/
def Obligations.VectorIntegers : Prop := groupIntegers ∧ typedIntegers

/-- The floating words of the V group and of VXF: the exact sum, product, quotient or root of each governed element, rounded once; to nearest
overflow is decided after rounding, the model's choice (log entry 91). Completes: vfadd, vfmul, vfma, vfsub, vfmint, vfmaxt, vfabs, vfneg, vfmat, vfdiv,
vfsqrt, vfrcp. -/
def Obligations.FloatingWords : Prop :=
  groupFloats ∧ typedFloats ∧ roundedOnce ∧ sumsAndProducts ∧ quotientsAndRoots ∧ minimaAndSigns

/-- VCVT, VSPLAT, VEXT, VINS, VPERM and VCOMPRESS; what an element converts to, overflow to nearest decided after rounding, the model's
choice (log entry 91). Completes: vcvt, vsplat, vext, vins, vperm, vcompress. -/
def Obligations.ConversionsAndPermutations : Prop := conversions ∧ elementsConverted ∧ permutations

/-! Loads and stores (R88 to R98, R208 to R210) -/

/-- LDB to LDD and LDA of own local memory, nothing of the slot pending there: the little-endian bytes, zero- or sign-extended, at once; of a window
that may be read, what the window returns. Completes: ldb, ldbs, ldh, ldhs, ldw, ldws, ldd, lda. -/
def Obligations.LoadsAtOnce : Prop :=
  ∀ (s : State) (d a : BitVec 5) (imm : BitVec 16) (sc : Scope) (size : BitVec 2),
    let ea := s.me.s a + imm.signExtend 64
    let load := fun (i : Instr) (e : W64) (n : Nat) (signed : Bool) => e.toNat % n = 0 →
      (Clear s → OwnBytes s e n → s.poisoned (ownKey s e) n = false →
        ∃ t, exec i s = .next t ∧ LoadDone s t d (extended n signed (s.nat (ownKey s e) n))) ∧
      ∀ v, addrOk (isSup (coreOf s.cur)) e = true → e.toNat / 2 ^ 60 ∈ [3, 15] → s.windowRead (coreOf s.cur) e n = some v →
        s.windowHurt e n = false →
        ∃ t, exec i s = .next t ∧ LoadDone s t d (extended n signed v)
    load (.ldb d a imm) ea 1 false ∧ load (.ldbs d a imm) ea 1 true ∧ load (.ldh d a imm) ea 2 false ∧ load (.ldhs d a imm) ea 2 true ∧
    load (.ldw d a imm) ea 4 false ∧ load (.ldws d a imm) ea 4 true ∧ load (.ldd d a imm) ea 8 false ∧
    load (.lda d a sc size) (s.me.s a) (2 ^ size.toNat) false

/-- A load outside own local memory and the windows that neither buffer nor queue holds is sent to its target: of a global or a system line
the slot runs on; of any other, and for LDA, it waits: the model's choice (log entry 16). Where the other module cannot be read it faults at the word (R100,
R102). -/
def Sys2Proof.Claims.scalarLoadsSent : Prop :=
  ∀ (s : State) (d a : BitVec 5) (imm : BitVec 16) (sc : Scope) (size : BitVec 2), s.me.buf = [] → s.loadsFull s.cur = false →
    let ea := s.me.s a + imm.signExtend 64
    let sent := fun (i : Instr) (e : W64) (n : Nat) (signed : Bool) (acq : Scope) =>
      let at_ := s.canon (coreOf s.cur) e
      addrOk (isSup (coreOf s.cur)) e = true → e.toNat / 2 ^ 60 ∉ [0, 3, 15] → e.toNat % n = 0 →
      (∀ f, s.peerGate s.cur e 0 = some f → exec i s = .next (s.freeze s.cur f)) ∧
      (s.peerGate s.cur e 0 = none → s.out.all (fun o => o.e.line != lineOf at_) = true →
        ∃ t q, exec i s = .next t ∧ t.loads = s.loads ++ [q] ∧ q.g = s.cur ∧ q.addr = at_ ∧ q.n = n ∧ q.ctx = s.me.ctx ∧ q.kmask = 0 ∧
          q.dst = .scalar d signed ∧ q.acq = acq ∧ q.ipc = s.me.pc ∧ t.mem = s.mem ∧ t.out = s.out ∧ (∀ g, g ≠ s.cur → t.slot g = s.slot g) ∧
          if acq = .none ∧ (tagOf at_ = 4 ∨ tagOf at_ = 8) then Passed s t else t.me = { s.me with await := .load q.grp })
    sent (.ldb d a imm) ea 1 false .none ∧ sent (.ldbs d a imm) ea 1 true .none ∧ sent (.ldh d a imm) ea 2 false .none ∧
    sent (.ldhs d a imm) ea 2 true .none ∧ sent (.ldw d a imm) ea 4 false .none ∧ sent (.ldws d a imm) ea 4 true .none ∧
    sent (.ldd d a imm) ea 8 false .none ∧ sent (.lda d a sc size) (s.me.s a) (2 ^ size.toNat) false sc

/-- A vector load with no element in own local memory sends one request an element it governs, in ascending order, as one load; a VLD of 32
aligned bytes of another core's local memory sends one request for all of them (R123). -/
def Sys2Proof.Claims.vectorLoadsSent : Prop :=
  ∀ (s : State) (d sa sb b : BitVec 4) (et : Et) (mk : BitVec 2), Has s 1 → s.me.buf = [] → s.loadsFull s.cur = false →
    let w := etWidth et / 8
    let ks := (List.range (32 / w)).filter fun k => bit (s.me.mr mk.toNat).toNat k
    let base := s.me.s (sHi sa)
    let sent := fun (i : Instr) (contig : Bool) (addr : Nat → W64) => ks ≠ [] → s.elemsFault (ks.map fun k => (k, addr k)) w false = none →
      let first := s.canon (coreOf s.cur) (addr 0)
      (∀ k ∈ ks, tagOf (addr k) ≠ 0 ∧ (tagOf (s.canon (coreOf s.cur) (addr k)) = 2 → lCore (s.canon (coreOf s.cur) (addr k)) ≠ coreOf s.cur)) →
        ∃ t qs, exec i s = .next t ∧ t.loads = s.loads ++ qs ∧ t.mem = s.mem ∧ t.out = s.out ∧ t.me.vr d = s.me.vr d ∧
          qs.map (fun q => (q.g, q.grp, q.addr, q.n, q.dst)) =
            if contig = true ∧ first.toNat % 32 = 0 ∧ tagOf first = 2 then
              [(s.cur, s.nextId, first, 32, LoadDst.whole d (8 * w) (s.me.mr mk.toNat))]
            else ks.map fun k => (s.cur, s.nextId, s.canon (coreOf s.cur) (addr k), w, LoadDst.vector d k (8 * w))
    sent (.vld d sa et mk) true (fun k => base + w64 (k * w)) ∧
    sent (.vlds d sa sb et mk) false (fun k => base + w64 k * s.me.s (sHi sb)) ∧
    (w = 4 → sent (.vgath d sa b et mk) false (fun k => base + (BitVec.ofNat 32 (elem (s.me.vr b) 32 k)).signExtend 64))

/-- Loads that leave the core, scalar and vector.
That a load of local memory or of the weight store, and an LDA, blocks its slot (log entry 16), is the model's choice.
Completes: ldb, ldbs, ldh, ldhs, ldw, ldws, ldd, lda, vld, vlds, vgath. -/
def Obligations.LoadsAreSent : Prop := scalarLoadsSent ∧ vectorLoadsSent

/-- STB to STD into own local memory are performed at once: the low bytes of sd at the address, every other byte of memory as before; while a
checkpoint has still to stream those bytes they wait (R346). Completes: stb, sth, stw, std. -/
def Obligations.OwnStores : Prop :=
  ∀ (s : State) (d a : BitVec 5) (imm : BitVec 16), Clear s → s.mayStore s.cur = true →
    let ea := s.me.s a + imm.signExtend 64
    let store := fun (i : Instr) (n : Nat) => OwnBytes s ea n → ea.toNat % n = 0 →
      (s.ckHold (ownKey s ea) = true → exec i s = .next (s.ckWant [ownKey s ea])) ∧
      (s.ckHold (ownKey s ea) = false →
        ∃ t, exec i s = .next t ∧ Stored s.mem t.mem (ownKey s ea) n (s.me.s d).toNat ∧ Passed s t ∧ OthersRun s t ∧ t.out = s.out)
    store (.stb d a imm) 1 ∧ store (.sth d a imm) 2 ∧ store (.stw d a imm) 4 ∧ store (.std d a imm) 8

/-- A store of another core's local memory or of global memory, and a relaxed FST, enter the segment buffer: no byte of memory changes. -/
def Sys2Proof.Claims.scalarStoresBuffered : Prop :=
  ∀ (s : State) (d a b : BitVec 5) (imm : BitVec 16) (sc : Scope) (size : BitVec 2), s.me.through = false →
    let ea := s.me.s a + imm.signExtend 64
    let c := coreOf s.cur
    let enters := fun (i : Instr) (e : Entry) => ∀ l, bufAdd s.me.buf e = some l →
      ∃ t, exec i s = .next t ∧ t.mem = s.mem ∧ t.out = s.out ∧ t.loads = s.loads ∧ (∀ g, g ≠ s.cur → t.slot g = s.slot g) ∧
        t.me = { s.me with buf := l, pc := s.me.pc + 4, begun := false, stamped := false, stepDone := s.me.stepping }
    let store := fun (i : Instr) (n : Nat) => addrOk (isSup c) ea = true → ea.toNat / 2 ^ 60 ∉ [0, 5] → ea.toNat % n = 0 →
      (∀ f, s.peerGate s.cur ea 1 = some f → exec i s = .next (s.freeze s.cur f)) ∧
      (s.peerGate s.cur ea 1 = none → enters i (storeEntry (s.canon c ea) n ((s.me.s d).toNat % 2 ^ (8 * n)) s.me.pc))
    store (.stb d a imm) 1 ∧ store (.sth d a imm) 2 ∧ store (.stw d a imm) 4 ∧ store (.std d a imm) 8 ∧
    let n := 2 ^ size.toNat
    let e := s.me.s a
    let f := s.me.s b
    (addrOk (isSup c) e = true → e.toNat % n = 0 → e.toNat / 2 ^ 60 ≠ 5 → addrOk (isSup c) f = true → f.toNat % 8 = 0 →
      f.toNat / 2 ^ 60 ∉ [3, 5, 15] → ((s.canon c e).toNat + n ≤ (s.canon c f).toNat ∨ (s.canon c f).toNat + 8 ≤ (s.canon c e).toNat) →
      s.peerGate s.cur e 1 = none → s.peerGate s.cur f 2 = none →
      enters (.fst d a b sc .relaxed size)
        { storeEntry (s.canon c e) n ((s.me.s d).toNat % 2 ^ (8 * n)) s.me.pc with kind := .fst (s.canon c f) false sc })

/-- A vector store with no element in own local memory enters the segment buffer, its elements in ascending order. -/
def Sys2Proof.Claims.vectorStoresBuffered : Prop :=
  ∀ (s : State) (d sa sb b : BitVec 4) (et : Et) (mk : BitVec 2), Has s 1 → s.me.through = false →
    let w := etWidth et / 8
    let ks := (List.range (32 / w)).filter fun k => bit (s.me.mr mk.toNat).toNat k
    let base := s.me.s (sHi sa)
    let enters := fun (i : Instr) (addr : Nat → W64) => ks ≠ [] → s.elemsFault (ks.map fun k => (k, addr k)) w true = none →
      (∀ k ∈ ks, tagOf (addr k) ≠ 0) →
      ∀ l, (ks.foldl (fun (o : Option (List Entry)) k => o.bind fun es =>
          bufAdd es (storeEntry (s.canon (coreOf s.cur) (addr k)) w (elem (s.me.vr d) (8 * w) k) s.me.pc)) (some s.me.buf)) = some l →
        ∃ t, exec i s = .next t ∧ t.mem = s.mem ∧ t.out = s.out ∧ (∀ g, g ≠ s.cur → t.slot g = s.slot g) ∧
          t.me = { s.me with buf := l, pc := s.me.pc + 4, begun := false, stamped := false, stepDone := s.me.stepping }
    enters (.vst d sa et mk) (fun k => base + w64 (k * w)) ∧
    enters (.vsts d sa sb et mk) (fun k => base + w64 k * s.me.s (sHi sb)) ∧
    (w = 4 → enters (.vscat d sa b et mk) (fun k => base + (BitVec.ofNat 32 (elem (s.me.vr b) 32 k)).signExtend 64))

/-- A scalar store that would be the 65th entry abandons the segment: nothing of it has happened, and the slot restarts at its restart point in write-through
mode. In that mode a store goes to its target at once and the slot waits for its acknowledgement, the restart point where it was (R91, R260). -/
def Sys2Proof.Claims.fullSegments : Prop :=
  ∀ (s : State) (d a : BitVec 5) (imm : BitVec 16),
    let ea := s.me.s a + imm.signExtend 64
    let c := coreOf s.cur
    (∀ (b : List Entry) (e : Entry), (b.length < 64 → (bufAdd b e).isSome = true) ∧ (64 ≤ b.length → e.kind ≠ .store → bufAdd b e = none)) ∧
    ∀ i n, (i, n) ∈ [(Instr.stb d a imm, 1), (.sth d a imm, 2), (.stw d a imm, 4), (.std d a imm, 8)] → addrOk (isSup c) ea = true → ea.toNat / 2 ^ 60 ∉ [0, 5] →
      ea.toNat % n = 0 → s.peerGate s.cur ea 1 = none →
      let e := storeEntry (s.canon c ea) n ((s.me.s d).toNat % 2 ^ (8 * n)) s.me.pc
      (s.me.through = false → bufAdd s.me.buf e = none → ∃ t, exec i s = .next t ∧ t.mem = s.mem ∧ (∀ g, g ≠ s.cur → t.slot g = s.slot g) ∧
        t.me.pc = s.me.rstpc ∧ t.me.rstpc = s.me.rstpc ∧ t.me.buf = [] ∧ t.me.through = true ∧ (∀ r, t.me.s r = s.me.s r) ∧ ∀ l ∈ t.loads, l.g ≠ s.cur) ∧
      (s.me.through = true → ∃ t o, exec i s = .next t ∧ t.mem = s.mem ∧ t.out = s.out ++ [o] ∧ o.g = s.cur ∧ o.e = e ∧ o.scope = .none ∧
        (∀ g, g ≠ s.cur → t.slot g = s.slot g) ∧ t.me.mode = .through ∧ t.me.pc = s.me.pc + 4 ∧ t.me.rstpc = s.me.rstpc ∧ ∀ r, t.me.s r = s.me.s r)

/-- Stores that leave the core, scalar, flagged and vector. Completes: stb, sth, stw, std, fst, vst, vsts, vscat. -/
def Obligations.StoresAreBuffered : Prop := scalarStoresBuffered ∧ vectorStoresBuffered ∧ fullSegments

/-- STL, and FST with release, have committed and send their own store as a release at their scope, never buffered; to own local memory STL
is performed at once and the restart point passes it. -/
def Sys2Proof.Claims.releasingStores : Prop :=
  ∀ (s : State) (d a b : BitVec 5) (sc : Scope) (size : BitVec 2), Quiet s → s.me.state = .running →
    let n := 2 ^ size.toNat
    let e := s.me.s a
    let f := s.me.s b
    let c := coreOf s.cur
    let sent := fun (i : Instr) (k : EntryKind) => ∃ t o, exec i s = .next t ∧ t.mem = s.mem ∧ t.out = s.out ++ [o] ∧ o.g = s.cur ∧ o.word = true ∧
      o.scope = sc ∧ o.e = { storeEntry (s.canon c e) n ((s.me.s d).toNat % 2 ^ (8 * n)) s.me.pc with kind := k } ∧ t.me.pc = s.me.pc + 4 ∧
      t.me.rstpc = (AtWord s.me).rstpc ∧ t.me.buf = [] ∧ ∀ r, t.me.s r = s.me.s r
    addrOk (isSup c) e = true → e.toNat % n = 0 → sc ≠ .none →
    (e.toNat / 2 ^ 60 ∉ [0, 5] → s.peerGate s.cur e 1 = none → sent (.stl d a sc size) .store) ∧
    (OwnBytes s e n → s.visible sc c s.me.obs = true → s.fenceOpen s.cur = true → s.ckHold (ownKey s e) = false → ∃ t, exec (.stl d a sc size) s = .next t ∧ Stored s.mem t.mem (ownKey s e) n (s.me.s d).toNat ∧
      t.me = { Committed s.me t.me with pc := s.me.pc + 4, rstpc := s.me.pc + 4 } ∧ OthersRun s t ∧ t.out = s.out) ∧
    (e.toNat / 2 ^ 60 ≠ 5 → addrOk (isSup c) f = true → f.toNat % 8 = 0 → f.toNat / 2 ^ 60 ∉ [3, 5, 15] →
      ((s.canon c e).toNat + n ≤ (s.canon c f).toNat ∨ (s.canon c f).toNat + 8 ≤ (s.canon c e).toNat) →
      s.peerGate s.cur e 1 = none → s.peerGate s.cur f 2 = none → ∀ o, (o = .release ∨ o = .acqRel) → sent (.fst d a b sc o size) (.fst (s.canon c f) true sc))

/-- FENCE with acquire makes what the slot's loads have read happen-before what follows; with release it commits, and the slot's later
stores carry what it has observed, at its scope, beside what an earlier FENCE covers at a wider one. Neither touches memory or a register. -/
def Sys2Proof.Claims.fences : Prop :=
  ∀ (s : State) (sc : Scope), s.loading s.cur = false →
    let got := acqOf s.me.seen (coreOf s.cur) sc
    (∃ t, exec (.fence sc .acquire) s = .next t ∧ OnlyMe s t ∧
      t.me = { s.me with obs := union s.me.obs got, hb := union s.me.hb got, pc := s.me.pc + 4, begun := false, stamped := false, stepDone := s.me.stepping }) ∧
    (Quiet s → ∀ o, (o = .release ∨ o = .acqRel) → ∃ t r, exec (.fence sc o) s = .next t ∧ OnlyMeTraced s t ∧
      t.me = { Committed s.me t.me with obs := t.me.obs, hb := t.me.hb, fence := t.me.fence, pc := s.me.pc + 4, rstpc := s.me.pc + 4 } ∧
      (∀ w, w ∈ t.me.obs ↔ w ∈ s.me.obs ∨ (o = .acqRel ∧ w ∈ got)) ∧ (∀ w, w ∈ t.me.hb ↔ w ∈ s.me.hb ∨ (o = .acqRel ∧ w ∈ got)) ∧
      t.me.fence = (s.me.fence.filter fun f => decide (scopeCode sc < scopeCode f.scope)) ++ [r] ∧
      r.obs = t.me.obs ∧ r.core = coreOf s.cur ∧ r.scope = sc)

/-- VLD, VLDS and VGATH of own local memory: every governed element is the element at its address, every other as before. -/
def Sys2Proof.Claims.ownVectorLoads : Prop :=
  ∀ (s : State) (d sa sb b : BitVec 4) (et : Et) (mk : BitVec 2), Has s 1 → Clear s →
    let w := etWidth et / 8
    let m := s.me.mr mk.toNat
    let base := s.me.s (sHi sa)
    let load := fun (i : Instr) (addr : Nat → W64) =>
      (∀ k, k < 32 / w → bit m.toNat k = true → OwnBytes s (addr k) w ∧ (addr k).toNat % w = 0 ∧ s.poisoned (ownKey s (addr k)) w = false) →
        ∃ t, exec i s = .next t ∧ t.mem = s.mem ∧ t.loads = s.loads ∧ t.out = s.out ∧ (∀ g, g ≠ s.cur → t.slot g = s.slot g) ∧
          t.me = { s.me with v := t.me.v, obs := t.me.obs, hb := t.me.hb, seen := t.me.seen, pc := s.me.pc + 4, begun := false,
                             stamped := false, stepDone := s.me.stepping } ∧
          (∀ r, r ≠ d → t.me.vr r = s.me.vr r) ∧
          Governed (8 * w) (32 / w) m (s.me.vr d) (t.me.vr d) fun k => s.nat (ownKey s (addr k)) w
    load (.vld d sa et mk) (fun k => base + w64 (k * w)) ∧
    load (.vlds d sa sb et mk) (fun k => base + w64 k * s.me.s (sHi sb)) ∧
    (w = 4 → load (.vgath d sa b et mk) (fun k => base + (BitVec.ofNat 32 (elem (s.me.vr b) 32 k)).signExtend 64))

/-- VST, VSTS and VSCAT into own local memory: each byte takes the governed element with the highest k that covers it; a byte that none
covers stays. -/
def Sys2Proof.Claims.ownVectorStores : Prop :=
  ∀ (s : State) (d sa sb b : BitVec 4) (et : Et) (mk : BitVec 2), Has s 1 → Clear s → s.mayStore s.cur = true →
    let w := etWidth et / 8
    let m := s.me.mr mk.toNat
    let base := s.me.s (sHi sa)
    let store := fun (i : Instr) (addr : Nat → W64) =>
      (∀ k, k < 32 / w → bit m.toNat k = true → OwnBytes s (addr k) w ∧ (addr k).toNat % w = 0 ∧ s.ckHold (ownKey s (addr k)) = false) →
        ∃ t, exec i s = .next t ∧ Passed s t ∧ OthersRun s t ∧ t.out = s.out ∧
          ∀ j, t.mem.get 0 j =
            match ((List.range (32 / w)).filter fun k => bit m.toNat k && decide (ownKey s (addr k) ≤ j ∧ j < ownKey s (addr k) + w)).getLast? with
            | some k => BitVec.ofNat 8 (elem (s.me.vr d) (8 * w) k / 256 ^ (j - ownKey s (addr k)))
            | none => s.mem.get 0 j
    store (.vst d sa et mk) (fun k => base + w64 (k * w)) ∧
    store (.vsts d sa sb et mk) (fun k => base + w64 k * s.me.s (sHi sb)) ∧
    (w = 4 → store (.vscat d sa b et mk) (fun k => base + (BitVec.ofNat 32 (elem (s.me.vr b) 32 k)).signExtend 64))

/-- STL, FST and FENCE. Completes: stl, fst, fence. -/
def Obligations.ReleasesAndFences : Prop := releasingStores ∧ fences

/-- Vector loads and stores of own local memory. Completes: vld, vlds, vgath, vst, vsts, vscat. -/
def Obligations.OwnVectorMemory : Prop := ownVectorLoads ∧ ownVectorStores

/-- The addresses that pass a core's check: the tags of R66 with their zero bits, populated offsets of local memory and of the windows, and the
supervisor windows for a supervisor core alone (R66, R67, R319). -/
def Sys2Proof.Claims.addressesPass : Prop :=
  ∀ (sup : Bool) (ea : W64),
    let tag := ea.toNat / 2 ^ 60
    let a := ea.toNat % 2 ^ 60
    let i := a % 2 ^ 20
    let j := a % 2 ^ 18
    (addrOk sup ea = true ↔
      (tag = 0 ∧ a < 0x28000) ∨ (tag = 1 ∧ a < 2 ^ 23 ∧ j < 0x28000) ∨ (tag = 2 ∧ a < 2 ^ 34 ∧ j < 0x28000) ∨
      (tag = 3 ∧ a < 2 ^ 24 ∧ ((a / 2 ^ 20 = 0 ∧ i < 0x110) ∨ (a / 2 ^ 20 = 1 ∧ i < 0x210) ∨ (a / 2 ^ 20 = 2 ∧ 0xF0000 ≤ i ∧ i < 0xF0140) ∨
        (a / 2 ^ 20 = 3 ∧ i < 0x128))) ∨
      (tag = 4 ∧ a < 2 ^ 52) ∨ (tag = 5 ∧ a < 2 ^ 29) ∨ tag = 8 ∨
      (tag = 15 ∧ sup = true ∧ a < 2 ^ 34 ∧ let b := a / 2 ^ 18 % 32
        b = 0 ∨ (b = 1 ∧ j % 2 ^ 11 < 0x28) ∨ (b = 2 ∧ j % 2 ^ 13 < 0x1018) ∨ (b = 3 ∧ j < 0x1000) ∨ (b = 4 ∧ j < 0x210) ∨ (b = 5 ∧ j < 0x128) ∨
        (b = 8 ∧ j < 0x78) ∨ (b = 9 ∧ j < 0x28) ∨ (b = 10 ∧ j < 0x38) ∨ (b = 11 ∧ j < 0x20) ∨ (b = 12 ∧ j < 0x490) ∨ (b = 13 ∧ j < 0x20)))

/-- The form in which an address is matched: a name of local memory becomes that of tag 0x2, a system address of the own module the global one
with its va, every other stays (R68, R125). -/
def Sys2Proof.Claims.addressesRewritten : Prop :=
  ∀ (s : State) (c : Nat) (ea : W64), c < Config.cores →
    let tag := ea.toNat / 2 ^ 60
    let a := ea.toNat % 2 ^ 60
    let own := tag = 8 ∧ a / 2 ^ 44 = s.durable.module.toNat
    (tag = 0 → a < 0x28000 → (s.canon c ea).toNat = 2 * 2 ^ 60 + c / 32 * 2 ^ 23 + c % 32 * 2 ^ 18 + a) ∧
    (tag = 1 → a < 2 ^ 23 → (s.canon c ea).toNat = 2 * 2 ^ 60 + c / 32 * 2 ^ 23 + a) ∧
    (own → (s.canon c ea).toNat = 4 * 2 ^ 60 + a % 2 ^ 44) ∧
    (tag ≠ 0 → tag ≠ 1 → ¬ own → s.canon c ea = ea)

/-- The rights on local memory: the program area of the own core; the own slot page to read, and MXERR, CPERR and the first word of RXRING to
write; everything else of the program area and of the slot pages by a descriptor that contains the whole access; nothing between them, no atomic
on a slot page, nothing in a fenced cluster (R4, R122, R127 to R129). -/
def Sys2Proof.Claims.localRights : Prop :=
  ∀ (s : State) (g need n : Nat) (d : Tab (BitVec 128)) (ea : W64), need ≤ 2 → tagOf ea = 2 →
    let a := ea.toNat % 2 ^ 60
    let off := a % 2 ^ 18
    let core := a / 2 ^ 18
    let own := core = coreOf g
    let desc := ∃ e ∈ d, e.2.getLsbD 112 = true ∧ e.2.getLsbD (113 + need) = true ∧ e.2.toNat % 2 ^ 64 ≤ ea.toNat ∧
      ea.toNat + n ≤ e.2.toNat % 2 ^ 64 + e.2.toNat / 2 ^ 64 % 2 ^ 48
    let mine := own ∧ off / 2 ^ 10 % 4 = g % 4
    (s.localOk g d need ea n = true ↔
      ¬ (core < Config.cores ∧ (s.cluster (core / 32)).fenced = true) ∧
      ((off + n ≤ 0x24000 ∧ (own ∨ desc)) ∨
       (0x27000 ≤ off ∧ need < 2 ∧ (mine ∨ desc) ∧ (need = 1 → 0x10 ≤ off % 2 ^ 10 ∧ off % 2 ^ 10 + n ≤ 0x28))))

/-- The descriptors of a context: the eight of the lowest valid set of the cluster's table that names it, or eight invalid ones (R128, R129). -/
def Sys2Proof.Claims.descriptorsLoaded : Prop :=
  ∀ (s : State) (cl : Nat) (ctx : BitVec 16),
    let t := (s.cluster cl).prot
    let names := fun k => (t.get 0 (32 * k)).getLsbD 16 = true ∧ (t.get 0 (32 * k)).toNat % 2 ^ 16 = ctx.toNat
    (∀ k, k < 16 → names k → (∀ j, j < k → ¬ names j) → ∀ i, i < 8 →
      ((s.protSet cl ctx).get 0 i).toNat = (t.get 0 (32 * k + 2 + 2 * i)).toNat + (t.get 0 (32 * k + 3 + 2 * i)).toNat * 2 ^ 64) ∧
    ((∀ k, k < 16 → ¬ names k) → ∀ i, (s.protSet cl ctx).get 0 i = 0)

/-- LDA, STL and FST: an address that fails the check is PERM and a misaligned one ALIGN at the word; a store by tag 0x5 is PERM; of FST the
flag too, whose tag must be one of memory and whose 8 bytes must not meet the data's (R67, R90, R94, R98). -/
def Sys2Proof.Claims.orderedChecks : Prop :=
  ∀ (s : State) (d a b : BitVec 5) (sc : Scope) (o : Order) (size : BitVec 2),
    let c := coreOf s.cur
    let n := 2 ^ size.toNat
    let e := s.me.s a
    let f := s.me.s b
    let ok := fun (x : W64) => addrOk (isSup c) x = true
    let stops := fun (i : Instr) (cause : BitVec 8) (x : W64) (k : Nat) => exec i s = .next (s.freeze s.cur ⟨cause, x, w64 k⟩)
    (∀ i k, ((i, k) ∈ [(Instr.lda d a sc size, 0), (.stl d a sc size, 1), (.fst d a b sc o size, 1)]) →
      (¬ ok e → stops i 2 e k) ∧ (ok e → e.toNat % n ≠ 0 → stops i 3 e k) ∧ (k = 1 → ok e → e.toNat % n = 0 → e.toNat / 2 ^ 60 = 5 → stops i 2 e 1)) ∧
    (ok e → e.toNat % n = 0 → e.toNat / 2 ^ 60 ≠ 5 →
      let i : Instr := .fst d a b sc o size
      let good := ok f ∧ f.toNat / 2 ^ 60 ∈ [0, 1, 2, 4, 8]
      (¬ good → stops i 2 f 2) ∧ (good → f.toNat % 8 ≠ 0 → stops i 3 f 2) ∧
      (good → f.toNat % 8 = 0 → (s.canon c e).toNat < (s.canon c f).toNat + 8 → (s.canon c f).toNat < (s.canon c e).toNat + n → stops i 2 f 2))

/-- A load, a store or an STL by tag 0x0 that has no right there is PERM at the word; a load looks for its right once nothing of the slot is
under way (R122, R129). -/
def Sys2Proof.Claims.ownRights : Prop :=
  ∀ (s : State) (d a : BitVec 5) (imm : BitVec 16) (sc : Scope) (size : BitVec 2) (e : W64), Clear s → s.amos = [] →
    addrOk (isSup (coreOf s.cur)) e = true → e.toNat / 2 ^ 60 = 0 →
    (e = s.me.s a + imm.signExtend 64 → ∀ i n k, ((i, n, k) ∈ [(Instr.ldb d a imm, 1, 0), (.ldbs d a imm, 1, 0), (.ldh d a imm, 2, 0),
        (.ldhs d a imm, 2, 0), (.ldw d a imm, 4, 0), (.ldws d a imm, 4, 0), (.ldd d a imm, 8, 0), (.stb d a imm, 1, 1), (.sth d a imm, 2, 1),
        (.stw d a imm, 4, 1), (.std d a imm, 8, 1)]) →
      e.toNat % n = 0 → s.localOk s.cur s.me.descs k (s.canon (coreOf s.cur) e) n = false → exec i s = .next (s.freeze s.cur ⟨2, e, w64 k⟩)) ∧
    (e = s.me.s a → ∀ i k, ((i, k) ∈ [(Instr.lda d a sc size, 0), (.stl d a sc size, 1)]) → e.toNat % 2 ^ size.toNat = 0 →
      s.localOk s.cur s.me.descs k (s.canon (coreOf s.cur) e) (2 ^ size.toNat) = false → exec i s = .next (s.freeze s.cur ⟨2, e, w64 k⟩))

/-- The vector accesses check every governed element before any is performed: PERM for an address that fails the check, a window, a store by
tag 0x5 or a name of local memory without a right; ALIGN for a misaligned one; the word faults for the lowest that fails: the model's choice among
several (R209; log entry 23). -/
def Sys2Proof.Claims.vectorChecks : Prop :=
  ∀ (s : State) (d sa sb b : BitVec 4) (et : Et) (mk : BitVec 2), Has s 1 →
    let w := etWidth et / 8
    let c := coreOf s.cur
    let ks := (List.range (32 / w)).filter fun k => bit (s.me.mr mk.toNat).toNat k
    let base := s.me.s (sHi sa)
    let checks := fun (i : Instr) (st : Nat) (addr : Nat → W64) => ∀ k ∈ ks, (∀ j ∈ ks, j < k → s.elemFault (addr j) w (st == 1) = none) →
      let e := addr k
      let tag := e.toNat / 2 ^ 60
      let out := addrOk (isSup c) e = false ∨ tag = 3 ∨ tag = 15 ∨ (st = 1 ∧ tag = 5)
      (out → exec i s = .next (s.freeze s.cur ⟨2, e, w64 st⟩)) ∧
      (¬ out → e.toNat % w ≠ 0 → exec i s = .next (s.freeze s.cur ⟨3, e, w64 st⟩)) ∧
      (¬ out → e.toNat % w = 0 → tag ≤ 2 → s.localOk s.cur s.me.descs st (s.canon c e) w = false → exec i s = .next (s.freeze s.cur ⟨2, e, w64 st⟩))
    let contig := fun (k : Nat) => base + w64 (k * w)
    let strided := fun (k : Nat) => base + w64 k * s.me.s (sHi sb)
    let indexed := fun (k : Nat) => base + (BitVec.ofNat 32 (elem (s.me.vr b) 32 k)).signExtend 64
    checks (.vld d sa et mk) 0 contig ∧ checks (.vst d sa et mk) 1 contig ∧ checks (.vlds d sa sb et mk) 0 strided ∧
    checks (.vsts d sa sb et mk) 1 strided ∧ (w = 4 → checks (.vgath d sa b et mk) 0 indexed ∧ checks (.vscat d sa b et mk) 1 indexed)

/-- A scalar access whose address fails R67 is PERM and a misaligned one ALIGN, precise at the word, for every load and store: LDB to STD
here, LDA, STL, FST and the vector accesses above, with the rights on local memory and the form an address is matched in.
That of several failing elements the lowest is reported is the model's choice (log entry 23). -/
def Obligations.AddressChecks : Prop :=
  addressesPass ∧ addressesRewritten ∧ localRights ∧ descriptorsLoaded ∧ orderedChecks ∧ ownRights ∧ vectorChecks ∧
  ∀ (s : State) (d a : BitVec 5) (imm : BitVec 16),
    let ea := s.me.s a + imm.signExtend 64
    let ok := addrOk (isSup (coreOf s.cur)) ea
    ∀ i n k, ((i, n, k) ∈ [(Instr.ldb d a imm, 1, 0), (.ldbs d a imm, 1, 0), (.ldh d a imm, 2, 0), (.ldhs d a imm, 2, 0), (.ldw d a imm, 4, 0),
        (.ldws d a imm, 4, 0), (.ldd d a imm, 8, 0), (.stb d a imm, 1, 1), (.sth d a imm, 2, 1), (.stw d a imm, 4, 1), (.std d a imm, 8, 1)]) →
      (ok = false → exec i s = .next (s.freeze s.cur ⟨2, ea, w64 k⟩)) ∧
      (ok = true → ea.toNat % n ≠ 0 → exec i s = .next (s.freeze s.cur ⟨3, ea, w64 k⟩))

/-! Requests at their targets and what comes back (R75, R80 to R82, R89, R92, R93, R129, R131, R134, R193, R256) -/

/-- Memory `m'` is `m` with those bytes of a line at key `k` that the mask selects. -/
def Sys2Proof.Claims.StoredMask (m m' : Tab Byte) (k : Nat) (data : W512) (mask : BitVec 64) : Prop :=
  ∀ j, m'.get 0 j = if k ≤ j ∧ j < k + 64 ∧ mask.getLsbD (j - k) = true then BitVec.ofNat 8 (data.toNat / 256 ^ (j - k)) else m.get 0 j

/-- The load numbered `n` has been answered with `r`; no other load has changed. -/
def Sys2Proof.Claims.Answered (s t : State) (n : Nat) (r : Reply) : Prop :=
  t.loads = s.loads.map fun l => if l.id = n then { l with reply := some r } else l

/-- The word that has committed is done: register `d` holds `v`, the restart point stands behind it, nothing else has changed. -/
def Sys2Proof.Claims.WordDone (s t : State) (d : BitVec 5) (v : W64) : Prop :=
  OnlyMeTraced s t ∧ t.me = { Committed s.me t.me with low := t.me.low, win := t.me.win, pc := s.me.pc + 4, rstpc := s.me.pc + 4 } ∧
  ∀ r, t.me.s r = if r = d ∧ d ≠ 0 then v else s.me.s r

/-- Slot `g`, whose word waited for reply `v`, goes on behind it with `v` in register `d`. -/
def Sys2Proof.Claims.ReplyDone (s t : State) (g : Nat) (d : BitVec 5) (v : W64) : Prop :=
  let x := s.slot g
  let y := t.slot g
  (∀ k, k ≠ g → t.slot k = s.slot k) ∧
  y = { x with low := y.low, win := y.win, await := .none, pc := x.pc + 4, rstpc := x.pc + 4, seg := x.seg + 1, begun := false, stamped := false, stepDone := x.stepping,
               stepRep := y.stepRep } ∧
  ∀ r, y.s r = if r = d ∧ d ≠ 0 then v else x.s r

/-- What a load is answered with at key `k` of state `u`: its bytes, or POISON where they are poisoned and its register needs one of them. -/
def Sys2Proof.Claims.readAnswer (u : State) (l : LoadReq) (k : Nat) : Reply :=
  if u.poisoned k l.n = true ∧ l.want &&& l.kmask.toNat ≠ l.want then .fault ⟨7, l.addr, 0⟩ else .data (BitVec.ofNat 256 (u.nat k l.n))

/-- A global request that its home performs: a store writes the bytes of its line under its mask and leaves the queue; a load is answered
with the bytes there, or with POISON. -/
def Sys2Proof.Claims.homesPerform : Prop :=
  ∀ (s u : State) (n k : Nat) (peer : BitVec 8),
    (∀ o, s.out.find? (fun o => o.id == n) = some o → s.outReady o = true → tagOf o.e.line = 4 → o.e.kind = .store →
      s.route ⟨n, o.cluster, o.ctx, o.home, o.e.line⟩ o.forwarded = .here →
      s.atHome o.home o.cluster o.ctx o.e.line 64 .write false 1 = .ok (u, k) →
      ∃ t, exec (.homeRequest n peer) s = .next t ∧ StoredMask u.mem t.mem k o.e.data o.e.mask ∧ t.out = u.out.filter (fun p => p.id != n) ∧
        t.loads = u.loads ∧ ∀ g, g ≠ o.g → (u.slot g).state ≠ .held → t.slot g = u.slot g) ∧
    ∀ l, s.out.find? (fun o => o.id == n) = none → s.loads.find? (fun l => l.id == n && l.reply.isNone) = some l →
      s.first ⟨n, l.cluster, l.ctx, l.home, l.addr⟩ = true → tagOf l.addr = 4 →
      s.route ⟨n, l.cluster, l.ctx, l.home, l.addr⟩ l.forwarded = .here →
      s.atHome l.home l.cluster l.ctx l.addr l.n .read false 0 = .ok (u, k) →
      ∃ t, exec (.homeRequest n peer) s = .next t ∧ t.mem = u.mem ∧ t.out = u.out ∧ (∀ g, g ≠ l.g → t.slot g = u.slot g) ∧
        Answered u t n (readAnswer u l k)

/-- A request at local memory that its protection unit grants is performed there, unless a checkpoint holds the write; one that it does not
grant is refused or answered with PERM, which a target returned, and no byte changes. -/
def Sys2Proof.Claims.banksPerform : Prop :=
  ∀ (s : State) (n : Nat),
    (∀ o, s.out.find? (fun o => o.id == n) = some o → s.outReady o = true → tagOf o.e.line = 2 → o.e.kind = .store →
      s.ckHold (lKey o.e.line) = false →
      let ok := fun (a : Nat × Nat) => s.localOk o.g (s.slot o.g).descs 1 (o.e.line + w64 a.1) a.2 && s.pageOk (o.e.line + w64 a.1) a.2 (o.e.part a)
      (lOff o.e.line < 0x27000 → (∀ a ∈ o.e.accs, ok a = true) →
        ∃ t, exec (.localMemoryRequest n) s = .next t ∧ StoredMask s.mem t.mem (lKey o.e.line) o.e.data o.e.mask ∧
          t.out = s.out.filter (fun p => p.id != n) ∧ t.loads = s.loads) ∧
      ∀ a, o.e.accs.find? (fun a => ! ok a) = some a →
        ∃ t, exec (.localMemoryRequest n) s = .next t ∧ t.mem = s.mem ∧ t.slots = s.slots ∧
          t.out = s.out.map fun p => if p.id = n then { p with refused := some ⟨2, o.e.line + w64 a.1, w64 0x101⟩ } else p) ∧
    ∀ l, s.out.find? (fun o => o.id == n) = none → s.loads.find? (fun l => l.id == n && l.reply.isNone && tagOf l.addr == 2) = some l →
      s.first ⟨n, l.cluster, l.ctx, l.home, l.addr⟩ = true →
      ∃ t, exec (.localMemoryRequest n) s = .next t ∧ t.mem = s.mem ∧ t.out = s.out ∧ (∀ g, g ≠ l.g → t.slot g = s.slot g) ∧
        Answered s t n (match l.parts.find? fun p => ! s.localOk l.g (s.slot l.g).descs 0 p.1 p.2 with
          | some p => .fault ⟨2, p.1, w64 0x100⟩
          | none => readAnswer s l (lKey l.addr))

/-- A load at the weight store is answered with its bytes where the state of R134 lets its context read them; PERM where not; while its bank
group is refreshed, and behind those held there before it, it is held and not answered. -/
def Sys2Proof.Claims.weightStoreAnswers : Prop :=
  ∀ (s : State) (n : Nat) (l : LoadReq), s.loads.find? (fun l => l.id == n && l.reply.isNone && tagOf l.addr == 5) = some l →
    let d := l.cluster / 32
    let off := fld l.addr.toNat 0 29
    let may := s.wsReadable d l.ctx (s.slot l.g).descs l.addr l.n
    ∃ t, exec (.weightStoreRequest n) s = .next t ∧ t.mem = s.mem ∧ (∀ g, g ≠ l.g → t.slot g = s.slot g) ∧
      (may = false → Answered s t n (.fault ⟨2, l.addr, w64 0x100⟩)) ∧
      (may = true → s.wsFree d off n = false → t.loads = s.loads.map fun x => if x.id = n then { x with held := true } else x) ∧
      (may = true → s.wsFree d off n = true → Answered s t n (readAnswer s l (wsKey d off))) ∧
      (s.refreshing d off = true → s.wsFree d off n = false)

/-- A scalar load of at most 8 bytes whose reply is in: its register alone changes, own buffered bytes over those of the target, extended as R88 says; a slot
that waited for it goes on. -/
def Sys2Proof.Claims.scalarLoadReturns : Prop :=
  ∀ (s : State) (n : Nat) (l : LoadReq) (v : W256) (d : BitVec 5) (signed : Bool),
    s.loads.filter (fun l => l.grp == n) = [l] → l.reply = some (.data v) → l.dst = .scalar d signed → l.n ≤ 8 →
    let x := s.slot l.g
    let val := overlay l.n v.toNat l.known.toNat l.kmask.toNat
    ∃ t, exec (.loadReturn n) s = .next t ∧ t.mem = s.mem ∧ t.out = s.out ∧ t.loads = s.loads.filter (fun l => l.grp != n) ∧
      (∀ g, g ≠ l.g → t.slot g = s.slot g) ∧ (∀ r, (t.slot l.g).s r = if r = d ∧ d ≠ 0 then extended l.n signed val else x.s r) ∧
      (t.slot l.g).rstpc = x.rstpc ∧ (t.slot l.g).pc = (if x.await = .load n then x.pc + 4 else x.pc) ∧
      (t.slot l.g).await = (if x.await = .load n then .none else x.await)

/-- A vector load whose replies are all in: each loaded element takes its value, every other stays. -/
def Sys2Proof.Claims.vectorLoadReturns : Prop :=
  ∀ (s : State) (n g : Nat) (ls : List LoadReq) (d : BitVec 4) (et : Et) (k : LoadReq → Nat),
    let w := etWidth et
    s.loads.filter (fun l => l.grp == n) = ls → ls ≠ [] → (ls.map k).Nodup →
    (∀ l ∈ ls, l.g = g ∧ l.dst = .vector d (k l) w ∧ k l < 256 / w ∧ l.n = w / 8 ∧ ∃ v, l.reply = some (.data v)) →
    ∃ t, exec (.loadReturn n) s = .next t ∧ t.mem = s.mem ∧ t.loads = s.loads.filter (fun l => l.grp != n) ∧
      (∀ i, i ≠ g → t.slot i = s.slot i) ∧ (∀ r, r ≠ d → (t.slot g).vr r = (s.slot g).vr r) ∧
      (∀ l ∈ ls, elem ((t.slot g).vr d) w (k l) = l.value) ∧
      ∀ j, j < 256 / w → j ∉ ls.map k → elem ((t.slot g).vr d) w j = elem ((s.slot g).vr d) w j

/-- A vector load that was one access of 32 bytes: the elements that its mask governs take their bytes, every other stays. -/
def Sys2Proof.Claims.wholeLoadReturns : Prop :=
  ∀ (s : State) (n : Nat) (l : LoadReq) (v : W256) (d : BitVec 4) (et : Et) (mask : W32),
    let w := etWidth et
    s.loads.filter (fun l => l.grp == n) = [l] → l.reply = some (.data v) → l.dst = .whole d w mask →
    ∃ t, exec (.loadReturn n) s = .next t ∧ t.mem = s.mem ∧ t.loads = s.loads.filter (fun l => l.grp != n) ∧
      (∀ i, i ≠ l.g → t.slot i = s.slot i) ∧ (∀ r, r ≠ d → (t.slot l.g).vr r = (s.slot l.g).vr r) ∧
      Governed w (256 / w) mask ((s.slot l.g).vr d) ((t.slot l.g).vr d) fun k => fld l.value (w * k) w

/-- A guard note: the first fills the slot's record, each later one adds to its count, which stops at 255; an empty slot takes none. The notes
that the memories of one cluster send to a slot arrive in the order sent (R106). -/
def Sys2Proof.Claims.guardNotes : Prop :=
  ∀ (s : State) (n : Nat) (k : Note), s.notes.find? (fun k => k.id == n) = some k → k.g < Config.slots →
    let x := s.slot k.g
    let before := fun (m : Note) => m.id < n ∧ m.g = k.g ∧ clusterOf (lCore m.addr) = clusterOf (lCore k.addr)
    ((∃ m ∈ s.notes, before m) → exec (.guardNote n) s = .next s) ∧
    ((∀ m ∈ s.notes, ¬ before m) → ∃ t, exec (.guardNote n) s = .next t ∧ t.notes = s.notes.filter (fun m => m.id != n) ∧ t.mem = s.mem ∧
      (∀ g, g ≠ k.g → t.slot g = s.slot g) ∧
      (x.state = .empty → t.slot k.g = x) ∧
      (x.state ≠ .empty → x.guard = none → t.slot k.g = { x with guard := some ⟨k.addr, k.kind, 0⟩ }) ∧
      ∀ r, x.state ≠ .empty → x.guard = some r → t.slot k.g = { x with guard := some { r with count := BitVec.ofNat 8 (min 255 (r.count.toNat + 1)) } })

/-- A commit whose entries have all been acknowledged completes: the restart point moves to the pc and a new segment begins; a drain's end
leaves both. -/
def Sys2Proof.Claims.commitsComplete : Prop :=
  ∀ (s : State) (g : Nat), s.storing g = false →
    let x := s.slot g
    ∃ t, exec (.commitComplete g) s = .next t ∧ t.mem = s.mem ∧ (∀ k, k ≠ g → t.slot k = s.slot k) ∧
      (x.mode = .none → t = s) ∧
      ((x.mode = .drain ∨ x.mode = .through) → t.slot g = { x with mode := .none }) ∧
      ((x.mode = .ordinary ∨ x.mode = .self ∨ x.mode = .preempt) →
        t.slot g = { x with mode := .none, rstpc := x.pc, seg := x.seg + 1, through := false, prest := (if x.psince then x.prest else 0), psince := false,
                            sent := 0, stamped := (x.stamped || x.mode != .ordinary) })

/-- A refusal that is no eviction and no POISON reaches its slot: what is left of the segment is discarded and the slot freezes at its restart
point with the cause; in write-through mode it freezes with WTFAULT at the store. -/
def Sys2Proof.Claims.refusalsFreeze : Prop :=
  ∀ (s : State) (g : Nat) (o : OutEntry) (f : FaultInfo), s.out.find? (fun o => o.g == g && o.refused.isSome) = some o → o.refused = some f →
    (s.slot g).state ≠ .frozen →
    (f.cause ≠ 7 → ¬ (f.cause = 4 ∧ fld f.detail.toNat 0 4 = 3) → (s.slot g).through = false →
      ∃ t, exec (.commitRefusal g) s = .next t ∧ (t.slot g).state = .frozen ∧ (t.slot g).pc = (s.slot g).rstpc ∧ (t.slot g).rstpc = (s.slot g).rstpc ∧
        (t.slot g).buf = [] ∧ (t.slot g).lastCause = f.cause ∧ t.outs g = false ∧ t.loading g = false) ∧
    ((s.slot g).through = true →
      ∃ t, exec (.commitRefusal g) s = .next t ∧ (t.slot g).state = .frozen ∧ (t.slot g).pc = o.e.ipc ∧ (t.slot g).buf = [] ∧
        (t.slot g).lastCause = 0x0D ∧ t.outs g = false)

/-- A correction whose request is not still forwarded reaches the cluster: its region-home cache holds the new home and no other for it,
and what leaves from now on waits for what left before (R82). -/
def Sys2Proof.Claims.correctionsArrive : Prop :=
  ∀ (s : State) (n cl : Nat) (r : RhEntry),
    s.clusters.findSome? (fun e => (e.2.corrections.find? fun c => c.1 == n).map fun c => (e.1, c.2)) = some (cl, r) →
    (∀ o ∈ s.out, o.id = n → o.forwarded = false) → (∀ l ∈ s.loads, l.id = n → l.reply = none → l.forwarded = false) →
    (∀ a ∈ s.amos, a.id = n → a.reply = none → a.forwarded = false) →
    ∃ t, exec (.homeCorrection n) s = .next t ∧ t.mem = s.mem ∧ t.slots = s.slots ∧ (∀ k, k ≠ cl → t.cluster k = s.cluster k) ∧
      ((t.cluster cl).rhcache.find? fun e => e.ctx == r.ctx && e.region == r.region) = some r ∧ (r, s.nextId) ∈ (t.cluster cl).fixes ∧
      ∀ c ∈ (t.cluster cl).corrections, c.1 ≠ n

/-- Requests at homes, at local memory and at the weight store. Completes: homeRequest, localMemoryRequest, weightStoreRequest. -/
def Obligations.RequestsArePerformed : Prop := homesPerform ∧ banksPerform ∧ weightStoreAnswers

/-! Atomics and tokens (R101 to R104, R256, R292, R293) -/

/-- The value an atomic of `w` bits leaves; none where the compare of AMOCAS128 or NCAS, functions 11 and 12, fails, while AMOCAS leaves the
old value then (R290, R292). -/
def Sys2Proof.Claims.amoValue (w f old b expect : Nat) : Option Nat :=
  let B := b % 2 ^ w
  let int := fun x : Nat => (BitVec.ofNat w x).toInt
  match f with
  | 0 => some ((old + b) % 2 ^ w)
  | 1 => some (old &&& B)
  | 2 => some (old ||| B)
  | 3 => some (old ^^^ B)
  | 4 => some (if int B < int old then B else old)
  | 5 => some (if int old < int B then B else old)
  | 6 => some (if B < old then B else old)
  | 7 => some (if old < B then B else old)
  | 8 => some B
  | 9 => some (if old = expect % 2 ^ w then B else old)
  | 10 => some (flEnc fp32 0 (flAdd (flDec fp32 old) (flDec fp32 B)))
  | _ => if old = expect % 2 ^ w then some B else none

/-- An address an atomic may name, aligned to its size, with the right a where it is own local memory, in no module known to be absent
(R100, R122, R293). -/
def Sys2Proof.Claims.AmoAddress (s : State) (ea : W64) (n : Nat) : Prop :=
  addrOk (isSup (coreOf s.cur)) ea = true ∧ ea.toNat / 2 ^ 60 ∉ [3, 5, 15] ∧ ea.toNat % n = 0 ∧ s.peerGate s.cur ea 2 = none ∧
  (tagOf ea = 0 → s.localOk s.cur s.me.descs 2 (s.canon (coreOf s.cur) ea) n = true)

/-- The AMO words, each with its function and size code. -/
def Sys2Proof.Claims.amoWords (d a b : BitVec 5) (sc : Scope) (o : Order) (sz : BitVec 2) : List (Instr × Nat × Nat) :=
  [(.amoadd d a b sc o sz, 0, sz.toNat), (.amoand d a b sc o sz, 1, sz.toNat), (.amoor d a b sc o sz, 2, sz.toNat),
   (.amoxor d a b sc o sz, 3, sz.toNat), (.amosmin d a b sc o sz, 4, sz.toNat), (.amosmax d a b sc o sz, 5, sz.toNat),
   (.amoumin d a b sc o sz, 6, sz.toNat), (.amoumax d a b sc o sz, 7, sz.toNat), (.amoswap d a b sc o sz, 8, sz.toNat),
   (.amocas d a b sc o sz, 9, sz.toNat), (.amofadd d a b sc o, 10, 2)]

/-- The instruction leaves the segment buffer as `l` and the slot runs on: no byte, no queue and no register changes. -/
def Sys2Proof.Claims.Buffered (s : State) (i : Instr) (l : List Entry) : Prop :=
  ∃ t, exec i s = .next t ∧ t.mem = s.mem ∧ t.out = s.out ∧ t.amos = s.amos ∧ t.loads = s.loads ∧ (∀ g, g ≠ s.cur → t.slot g = s.slot g) ∧
    t.me = { s.me with buf := l, pc := s.me.pc + 4, begun := false, stamped := false, stepDone := s.me.stepping }

/-- A relaxed atomic that returns nothing enters the segment buffer: no byte changes and the slot runs on. -/
def Sys2Proof.Claims.relaxedAtomicsBuffered : Prop :=
  ∀ (s : State) (a b : BitVec 5) (sz : BitVec 2) (l : List Entry) (i : Instr) (f size : Nat), (i, f, size) ∈ amoWords 0 a b .none .relaxed sz →
    let ea := s.me.s a
    let n := 2 ^ size
    let e := s.canon (coreOf s.cur) ea
    AmoAddress s ea n → s.me.through = false →
    bufAdd s.me.buf ⟨lineOf e, 0, BitVec.ofNat 64 ((2 ^ n - 1) * 2 ^ inLine e), [(inLine e, n)],
      .amo f size ((s.me.s b).zeroExtend 128) 0 0, s.me.pc⟩ = some l →
    Buffered s i l

/-- AMOCAS128 in that form reads its operands from its block first. -/
def Sys2Proof.Claims.relaxedCompareBuffered : Prop :=
  ∀ (s : State) (a b : BitVec 5) (l : List Entry), Clear s →
    let ea := s.me.s a
    let e := s.canon (coreOf s.cur) ea
    let blk := s.nat (ownKey s (s.me.s b)) 32
    AmoAddress s ea 16 → OwnBytes s (s.me.s b) 32 → (s.me.s b).toNat % 32 = 0 → s.poisoned (ownKey s (s.me.s b)) 32 = false → s.me.through = false →
    bufAdd s.me.buf ⟨lineOf e, 0, BitVec.ofNat 64 ((2 ^ 16 - 1) * 2 ^ inLine e), [(inLine e, 16)],
      .amo 11 4 (BitVec.ofNat 128 (blk / 2 ^ 128)) (BitVec.ofNat 128 blk) (s.canon (coreOf s.cur) (s.me.s b)), s.me.pc⟩ = some l →
    Buffered s (.amocas128 0 a b .none .relaxed) l

/-- Any other atomic commits, then is sent to its NSE with its operand and the value it expects; no byte and no register changes. One with order
release and sd = s0 is an entry of its own, and its slot runs on; else the slot waits for the answer, with sd = s0 and order acquire too: the
model's choice (log entry 69). -/
def Sys2Proof.Claims.atomicsSent : Prop :=
  ∀ (s : State) (d a b : BitVec 5) (sc : Scope) (o : Order) (sz : BitVec 2), Quiet s → (d ≠ 0 ∨ o ≠ .relaxed) →
    let ea := s.me.s a
    let sent := fun (i : Instr) (f size : Nat) (op ex : W128) (blk : W64) =>
      if d = 0 ∧ o = .release then ∃ t q, exec i s = .next t ∧ t.mem = s.mem ∧ t.amos = s.amos ∧ t.out = s.out ++ [q] ∧ q.g = s.cur ∧ q.word = true ∧
        q.scope = sc ∧ q.e = (let e := s.canon (coreOf s.cur) ea
          ⟨lineOf e, 0, BitVec.ofNat 64 ((2 ^ 2 ^ size - 1) * 2 ^ inLine e), [(inLine e, 2 ^ size)], .amo f size op ex blk, s.me.pc⟩) ∧
        t.me.pc = s.me.pc + 4 ∧ t.me.rstpc = (AtWord s.me).rstpc ∧ t.me.await = s.me.await ∧ (∀ r, t.me.s r = s.me.s r) ∧
        ∀ g, g ≠ s.cur → t.slot g = s.slot g
      else ∃ t q, exec i s = .next t ∧ t.mem = s.mem ∧ t.out = s.out ∧ t.amos = s.amos ++ [q] ∧
      q.g = s.cur ∧ q.addr = s.canon (coreOf s.cur) ea ∧ q.f = f ∧ q.size = size ∧ q.b = op ∧ q.expect = ex ∧ q.d = d ∧ q.order = o ∧ q.scope = sc ∧
      q.ctx = s.me.ctx ∧ q.ipc = s.me.pc ∧ (tagOf q.addr ≠ 4 → q.reply = none) ∧ (∀ g, g ≠ s.cur → t.slot g = s.slot g) ∧
      t.me = { AtWord s.me with await := .reply q.id, obs := t.me.obs, hb := t.me.hb, seen := t.me.seen }
    (∀ i f size, (i, f, size) ∈ amoWords d a b sc o sz → AmoAddress s ea (2 ^ size) →
      sent i f size ((s.me.s b).zeroExtend 128) ((s.me.s d).zeroExtend 128) 0) ∧
    (AmoAddress s ea 16 → OwnBytes s (s.me.s b) 32 → (s.me.s b).toNat % 32 = 0 → s.poisoned (ownKey s (s.me.s b)) 32 = false →
      let blk := s.nat (ownKey s (s.me.s b)) 32
      sent (.amocas128 d a b sc o) 11 4 (BitVec.ofNat 128 (blk / 2 ^ 128)) (BitVec.ofNat 128 blk) (s.canon (coreOf s.cur) (s.me.s b)))

/-- What a new name that is no null name meets at its slice in a context: BADNAME, PERM of another module, OK of a live name of the context, else
GONE (R280, R283, R290). -/
def Sys2Proof.Claims.newNameStatus (s : State) (ctx : BitVec 16) (nm : W128) : Nat :=
  if s.badName nm 0 then 9
  else if nm.toNat / 2 ^ 112 ≠ s.durable.module.toNat then 0x10
  else match s.names.find? fun e => nmSerial e.name == w64 (nm.toNat / 2 ^ 42) && ¬ e.dying with
    | some e => if e.ctx = ctx then 0 else 8
    | none => 8

/-- At its NSE an atomic changes the bytes at its place as R292 says and nothing else of memory, and is answered with the old value, AMOCAS128
also with whether it swapped; NCAS, function 12, first checks a new name that is not null, if asked, and is answered with that status, 0 if it
passes, and in bit 8 with whether it swapped. A releasing one waits until what it covers, what it takes over itself among it, is visible. A
buffered one, and the increment of a flag, leave the queue. -/
def Sys2Proof.Claims.atomicsPerformed : Prop :=
  ∀ (s u : State) (n k : Nat) (peer : BitVec 8),
    let lands := fun (g cluster home : Nat) (ctx : BitVec 16) (ea : W64) (size : Nat) (forwarded : Bool) =>
      s.first ⟨n, cluster, ctx, home, ea⟩ = true ∧
      (tagOf ea = 2 ∧ s.localOk g (s.slot g).descs 2 ea (2 ^ size) = true ∧ s.ckHold (lKey ea) = false ∧ u = s ∧ k = lKey ea ∨
       tagOf ea = 4 ∧ s.route ⟨n, cluster, ctx, home, ea⟩ forwarded = .here ∧ s.atHome home cluster ctx ea (2 ^ size) .rmw false 2 = .ok (u, k) ∨
       tagOf ea = 8 ∧ s.atPeer home n ctx ea .rmw peer = .ok (u, k)) ∧
      u.poisoned k (2 ^ size) = false
    let changed := fun (t : State) (f size b expect : Nat) => match amoValue (8 * 2 ^ size) f (u.nat k (2 ^ size)) b expect with
      | some v => Stored u.mem t.mem k (2 ^ size) v
      | none => t.mem = u.mem
    (∀ a, s.amos.find? (fun a => a.id == n && a.reply.isNone) = some a → a.size ≤ 4 → lands a.g a.cluster a.home a.ctx a.addr a.size a.forwarded →
      (ordRel a.order = true → s.visible a.scope (coreOf a.g) a.obs = true ∧ u.visible a.scope (coreOf a.g)
        (union a.obs (if ordAcq a.order then acqOf (u.carried k (2 ^ a.size)) (coreOf a.g) a.scope else [])) = true) →
      let old := u.nat k (2 ^ a.size)
      let answered := fun (t : State) (st : W64) => t.amos = u.amos.map fun q =>
        if q.id = n then { q with reply := some (.old (BitVec.ofNat 128 old) st) } else q
      (a.f < 11 → ∃ t st, exec (.atomicAtNse n peer) s = .next t ∧ changed t a.f a.size a.b.toNat a.expect.toNat ∧ answered t st) ∧
      (a.f = 11 → a.size = 4 → ∃ t, exec (.atomicAtNse n peer) s = .next t ∧ changed t 11 4 a.b.toNat a.expect.toNat ∧
        answered t (if old = a.expect.toNat then 1 else 0)) ∧
      (a.f = 12 → a.size = 4 →
        let st := if a.check = true ∧ a.b ≠ 0 then newNameStatus u a.ctx a.b else 0
        ∃ t, exec (.atomicAtNse n peer) s = .next t ∧ (if st = 0 then changed t 12 4 a.b.toNat a.expect.toNat else t.mem = u.mem) ∧
          answered t (if st ≠ 0 then w64 st else if old = a.expect.toNat then 0x100 else 0))) ∧
    ∀ o, s.amos.find? (fun a => a.id == n && a.reply.isNone) = none → s.out.find? (fun o => o.id == n && o.refused.isNone) = some o →
      s.releasable o = true →
      (∀ f size b e blk, o.e.kind = .amo f size b e blk → f < 11 → size ≤ 3 → ∀ j, o.e.accs = [(j, 2 ^ size)] →
        lands o.g o.cluster o.home o.ctx (o.e.line + w64 j) size o.forwarded →
        ∃ t, exec (.atomicAtNse n peer) s = .next t ∧ changed t f size b.toNat e.toNat ∧ t.out = u.out.filter (fun p => p.id != n)) ∧
      (∀ b e blk, o.e.kind = .amo 11 4 b e blk → ∀ j, o.e.accs = [(j, 16)] → lands o.g o.cluster o.home o.ctx (o.e.line + w64 j) 4 o.forwarded →
        lOff blk < 0x27000 → s.ckHold (lKey blk) = false →
        ∃ t m, exec (.atomicAtNse n peer) s = .next t ∧ (match amoValue 128 11 (u.nat k 16) b.toNat e.toNat with
            | some v => Stored u.mem m k 16 v
            | none => m = u.mem) ∧
          Stored m t.mem (lKey blk) 16 (u.nat k 16) ∧ t.out = u.out.filter (fun p => p.id != n)) ∧
      (∀ flag rel sc, o.e.kind = .fst flag rel sc → o.half = true → lands o.g o.cluster o.home o.ctx flag 3 o.forwarded →
        ∃ t, exec (.atomicAtNse n peer) s = .next t ∧ Stored u.mem t.mem k 8 (u.nat k 8 + 1) ∧ t.out = u.out.filter (fun p => p.id != n))

/-- The answer of an atomic reaches its slot: the old value in sd, or for a 16-byte compare, AMOCAS128 and NCAS, its status, with the old value
in the word's own block; the restart point stands behind the word. -/
def Sys2Proof.Claims.atomicsReturn : Prop :=
  ∀ (s : State) (g : Nat) (a : AmoReq) (old : W128) (st : W64), s.amos.find? (fun a => a.g == g && a.reply.isSome) = some a →
    a.reply = some (.old old st) → (s.slot g).await = .reply a.id →
    (a.f < 11 → ∃ t, exec (.atomicReturn g) s = .next t ∧ t.mem = s.mem ∧ t.amos = s.amos.filter (fun q => q.id != a.id) ∧
      ReplyDone s t g a.d (old.truncate 64)) ∧
    (11 ≤ a.f → (s.slot g).state = .running → lOff a.blk < 0x27000 → s.ckHold (lKey a.blk) = false → ∃ t, exec (.atomicReturn g) s = .next t ∧
      Stored s.mem t.mem (lKey a.blk) 16 old.toNat ∧ t.amos = s.amos.filter (fun q => q.id != a.id) ∧ (t.slot g).pc = (s.slot g).pc + 4 ∧
      (t.slot g).rstpc = (s.slot g).pc + 4 ∧ ∀ r, (t.slot g).s r = if r = a.d ∧ a.d ≠ 0 then st else (s.slot g).s r)

/-- The atomic words as they issue.
That an atomic with sd = s0 and order acquire keeps the restart point at its word is the model's choice (log entry 69).
Completes: amoadd, amoand, amoor, amoxor, amosmin, amosmax, amoumin, amoumax, amoswap, amocas, amofadd, amocas128. -/
def Obligations.AtomicWords : Prop := relaxedAtomicsBuffered ∧ relaxedCompareBuffered ∧ atomicsSent

/-- Atomics at their NSEs and back at their slots.
Completes: atomicAtNse, atomicReturn. -/
def Obligations.AtomicsArePerformed : Prop := atomicsPerformed ∧ atomicsReturn

/-- TOKACQ of a reachable peer's region that is not held, with room for it, binds it where the peer grants it (what the peer answers is a
free value, log entry 1); its statuses where not, PERM of an unreachable module before DUP before FULL before the peer's PERM: the model's
choice (log entry 70). TOKREL commits and ends the binding. -/
def Sys2Proof.Claims.tokensTaken : Prop :=
  ∀ (s : State) (d a : BitVec 5), Has s 64 →
    let ea := s.me.s a
    let m := fld ea.toNat 44 16
    let r := fld ea.toNat 21 23
    let bnd := s.binding s.me.ctx m r
    let others := s.bindings.filter fun b => ! (b.ctx == s.me.ctx && b.module.toNat == m && b.region == r)
    let die := bindDie s.me.ctx ea
    let there := m ≠ s.durable.module.toNat ∧ s.reachable die s.nextId m = true
    let room := bnd ≠ none ∨ s.bindingsOf die < 512
    let got := fun (u : State) (v : W64) => ∃ t, exec (.tokacq d a) s = .next t ∧ ScalarDone u t d v
    let asked : State := { s with fresh := s.fresh + 1 }
    let grants := (Config.freeWord s.fresh).getLsbD 0 = false
    ea.toNat / 2 ^ 60 = 8 →
    (¬ there → got s 0x10) ∧
    (there → (∃ b, bnd = some b ∧ b.held = true) → got s 2) ∧
    (there → (∀ b, bnd = some b → b.held = false) → (¬ room → got s 0x11) ∧
      (room → (¬ grants → got asked 0x10) ∧ (grants → got { asked with bindings := others ++ [⟨s.me.ctx, BitVec.ofNat 16 m, r, true, [], []⟩] } 0))) ∧
    (Quiet s → s.settled s.me.obs = true →
      (bnd = none → ∃ t, exec (.tokrel d a) s = .next t ∧ WordDone s t d 2) ∧
      (bnd ≠ none → ∃ t, exec (.tokrel d a) s = .next t ∧ WordDone { s with bindings := others } t d 0))

/-- A recall leaves the binding without its token and its cached lines; memory and the slots stay. -/
def Sys2Proof.Claims.tokensRecalled : Prop :=
  ∀ (s : State) (n : Nat) (b : Binding), s.bindings[n]? = some b →
    ∃ t, exec (.tokenRecall n) s = .next t ∧ t.mem = s.mem ∧ t.slots = s.slots ∧ t.bindings = s.bindings.map fun c =>
      if c.ctx = b.ctx ∧ c.module = b.module ∧ c.region = b.region then { c with held := false, lines := [], dirty := [] } else c

/-- TOKACQ, TOKREL and recalls.
The order in which TOKACQ's statuses are tested is the model's choice (log entry 70); whether the peer's context is valid is free (log entry 1).
Completes: tokacq, tokrel, tokenRecall. -/
def Obligations.TokenWords : Prop := tokensTaken ∧ tokensRecalled

/-- Loads return, guard notes and corrections arrive, commits complete or are refused. Completes: loadReturn, guardNote, homeCorrection,
commitComplete, commitRefusal. -/
def Obligations.RepliesAndCommits : Prop := scalarLoadReturns ∧ vectorLoadReturns ∧ wholeLoadReturns ∧ guardNotes ∧ correctionsArrive ∧ commitsComplete ∧ refusalsFreeze

/-! Names (R278 to R291) -/

/-- With nothing to wait for, the word commits and reads the `n` bytes of its block at `ea`, as an acquire if asked: `v`, in state `u`. -/
def Sys2Proof.Claims.Reads (s u : State) (ea : W64) (n v : Nat) (acq : Scope := .none) : Prop :=
  Quiet s ∧ s.atWord.readAt s.cur ea n acq = .ok (u, v)

/-- The word ends: its result is in `d`, pc and restart point stand behind it, no other slot has changed. -/
def Sys2Proof.Claims.Ended (u t : State) (d : BitVec 5) (v : W64) : Prop :=
  (∀ g, g ≠ u.cur → t.slot g = u.slot g) ∧ (t.slot u.cur).pc = u.me.pc + 4 ∧ (t.slot u.cur).rstpc = u.me.pc + 4 ∧
  ∀ r, (t.slot u.cur).s r = if r = d ∧ d ≠ 0 then v else u.me.s r

/-- The running slot waits for reply `n` and nothing else of any slot has changed. -/
def Sys2Proof.Claims.Waits (u t : State) (n : Nat) : Prop :=
  (∀ g, g ≠ u.cur → t.slot g = u.slot g) ∧ t.slot u.cur = { u.me with await := .reply n }

/-- The task of the running slot, its chains done, saves its window and is sent as a WAITING stitch, pc at the word, to the wait list `on`; the
slot waits with its window as it stood. -/
def Sys2Proof.Claims.Parks (i : Instr) (s u : State) (on : WaitOn) (d : BitVec 5) (sc : Scope) : Prop :=
  u.noted = false → u.chainsOf u.cur = 0 → ∀ v, (u.modMe Slot.endCpys).saveWindow u.cur = (v, .ok ()) →
    ∃ t p, exec i s = .next t ∧ t.parks = v.parks ++ [p] ∧ p.on = on ∧ p.d = d ∧ p.scope = sc ∧ p.g = v.cur ∧ p.core = coreOf v.cur ∧
      stPc p.st = v.me.pc.toNat ∧ stState p.st = 1 ∧ stPrio p.st = v.me.prio.toNat ∧ stCtx p.st = v.me.ctx ∧
      (∀ k, k < 4 → stLive p.st k = v.me.s (BitVec.ofNat 5 (8 + k))) ∧ t.mem = v.mem ∧ (∀ g, g ≠ v.cur → t.slot g = v.slot g) ∧
      t.slot v.cur = { v.me with await := .reply p.id, fsp := u.me.fsp, res := u.me.res }

/-- NNEW, NKILL and NRES commit, read their blocks and send their operation to a slice; NCAS sends its compare to the NSE of its word. -/
def Sys2Proof.Claims.namesSent : Prop :=
  ∀ (s u : State) (d a b : BitVec 5) (sc : Scope) (o : Order) (v : Nat),
    let ea := s.me.s a
    let rb := s.me.s b
    let c := coreOf s.cur
    let sent := fun (i : Instr) (fn : NameFn) (nm : W128) (sb : W64) => ∃ t op, exec i s = .next t ∧ t.nameOps = u.nameOps ++ [op] ∧
      op.fn = fn ∧ op.nm = nm ∧ op.sb = sb ∧ op.d = d ∧ op.order = o ∧ op.scope = sc ∧ op.ctx = u.me.ctx ∧ op.g = u.cur ∧ op.status = none ∧
      t.mem = u.mem ∧ Waits u t op.id
    (s.operandFault ea false 128 128 0 0 = none → s.operandFault rb true 16 16 1 1 = none → Reads s u ea 128 v →
      sent (.nnew d a b sc o) (.nnew (BitVec.ofNat 1024 v)) ((s.canon c ea + 64).zeroExtend 128) (s.canon c rb)) ∧
    (∀ sync, s.operandFault ea false 16 16 0 0 = none → Reads s u ea 16 v →
      sent (.nkill d a sc o sync) (.nkill (sync == 1)) (BitVec.ofNat 128 v) 0) ∧
    (s.operandFault ea false 16 16 0 0 = none → s.operandFault rb true 32 32 1 1 = none → Reads s u ea 16 v (if ordAcq o then sc else .none) →
      sent (.nres d a b sc o) .nres (BitVec.ofNat 128 v) (s.canon c rb)) ∧
    (∀ live, s.operandFault ea false 16 16 0 2 = none → (tagOf ea = 0 → s.localOk s.cur s.me.descs 2 (s.canon c ea) 16 = true) →
      s.operandFault rb true 32 32 1 1 = none → Reads s u rb 32 v →
      ∃ t q, exec (.ncas d a b sc o live) s = .next t ∧ t.amos = u.amos ++ [q] ∧ q.f = 12 ∧ q.size = 4 ∧ q.addr = u.canon (coreOf u.cur) ea ∧
        q.expect = BitVec.ofNat 128 v ∧ q.b = BitVec.ofNat 128 (v / 2 ^ 128) ∧ q.check = (live == 1) ∧ q.d = d ∧ q.order = o ∧ q.scope = sc ∧
        q.g = u.cur ∧ t.mem = u.mem ∧ Waits u t q.id)

/-- NWAIT resolves its name; of one that is not live at its slice it ends with the status; of a live one it parks until the name dies. -/
def Sys2Proof.Claims.nameWaits : Prop :=
  ∀ (s u w : State) (d a : BitVec 5) (sc : Scope) (v st : Nat) (e : Option NcEntry), s.operandFault (s.me.s a) false 16 16 0 0 = none →
    s.noted = false → Reads s u (s.me.s a) 16 v →
    let nm := BitVec.ofNat 128 v
    u.resolve (clusterOf (coreOf u.cur)) u.me.ctx nm 0 = (w, st, e) →
    let st' := if e = none then st else if w.entry (nmSerial nm) = none then 8 else 0
    (st' ≠ 0 → ∃ t, exec (.nwait d a sc) s = .next t ∧ t.mem = w.mem ∧ t.parks = w.parks ∧ Ended w t d (w64 st')) ∧
    (st' = 0 → Parks (.nwait d a sc) s w (.name (nmSerial nm)) d sc)

/-- Resolving a name for a cluster and a context: an ill-formed one is BADNAME and counts at the requester's die, one of another module PERM;
else the cluster's cache answers, or the slice, whose live entry the cache then holds and whose sharers have the die's bit; GONE without one, or
in another context; of a tile, barrier or skein the object's own tag decides: GONE without it, MOVED, with the cache corrected, where it lies at
another home (R280, R283). -/
def Sys2Proof.Claims.resolutions : Prop :=
  ∀ (s w : State) (cl need st : Nat) (ctx : BitVec 16) (nm : W128) (x : Option NcEntry), cl / 32 < 64 → s.resolve cl ctx nm need = (w, st, x) →
    let ill := nm.toNat % 2 ^ 24 ≠ (Config.checkCode s.durable.nameKey (BitVec.ofNat 104 (nm.toNat / 2 ^ 24))).toNat ∨
      nm.toNat / 2 ^ 106 % 64 = 0 ∨ 7 < nm.toNat / 2 ^ 106 % 64 ∨ nm.toNat / 2 ^ 35 % 128 ≠ 0 ∨ (need ≠ 0 ∧ nm.toNat / 2 ^ 106 % 64 ≠ need)
    let other := nm.toNat / 2 ^ 112 ≠ s.durable.module.toNat
    let ser := w64 (nm.toNat / 2 ^ 42)
    let cached := if s.miss then none else (s.cluster cl).ncache.find? fun e => e.serial == ser
    let live := s.names.find? fun e => nmSerial e.name == ser && ¬ e.dying
    let stored := nm.toNat / 2 ^ 106 % 64 ≤ 3
    w.mem = s.mem ∧ w.slots = s.slots ∧
    (ill → st = 9 ∧ x = none ∧ (w.die (cl / 32)).badname = (s.die (cl / 32)).badname + 1) ∧
    (¬ ill → other → st = 0x10 ∧ x = none ∧ w = s) ∧
    (¬ ill → ¬ other → cached = none → live = none → st = 8 ∧ x = none ∧ w = s) ∧
    ∀ e : NcEntry, ¬ ill → ¬ other → (cached = some e ∨ (cached = none ∧ ∃ y, live = some y ∧ e = ⟨ser, y.cls, y.ctx, y.home, y.value⟩)) →
      (cached = none → (∀ z ∈ w.names, nmSerial z.name = ser → z.sharers.getLsbD (cl / 32) = true) ∧ ∃ c ∈ (w.cluster cl).ncache, c.serial = ser) ∧
      (e.ctx ≠ ctx → st = 8 ∧ x = none) ∧
      (e.ctx = ctx → ¬ stored → st = 0 ∧ x = some e) ∧
      (e.ctx = ctx → stored → match s.names.find? fun y => y.name == nm && ¬ y.dying with
        | none => st = 8 ∧ x = none
        | some y => if y.home = e.home then st = 0 ∧ x = some e else st = 10 ∧ x = some { e with home := y.home })

/-- The slice may act on the operation: what its release covers is visible, and no checkpoint holds its result block or the slice's memory
(R315, R346). -/
def Sys2Proof.Claims.NameDue (s : State) (op : NameOp) : Prop :=
  (ordRel op.order = true → s.visible op.scope op.core op.obs = true) ∧ (op.sb ≠ 0 → s.ckHold (lKey op.sb) = false) ∧ s.nseHold op.nse = false

/-- The operation numbered `n` has been answered with `st`; it and every other stand as before. -/
def Sys2Proof.Claims.OpAnswered (s t : State) (n st : Nat) : Prop :=
  t.nameOps = s.nameOps.map fun o => if o.id = n then { o with status := some (w64 st) } else o

/-- At the slice: NKILL of a name that resolves and is live ends it (no entry is left, every tile, barrier, skein and waiter of it is gone, a
shoot-down goes to every die that may cache it) and OK, which a synchronous one learns when all have acknowledged; of any other name its status,
PERM of a task's; a death of a task's
name the same: a task that has ended learns of it as of a synchronous kill, one that was killed does not. -/
def Sys2Proof.Claims.killsAtSlice : Prop :=
  ∀ (s : State) (n : Nat) (op : NameOp), s.nameOps.find? (fun o => o.id == n && o.status.isNone) = some op →
    NameDue s op →
    let dead := fun (t : State) (e : NameEntry) => (∀ x ∈ t.names, x.name ≠ e.name) ∧ (e.cls = 2 → ∀ b ∈ t.barriers, b.name ≠ e.name) ∧
      (e.cls = 1 → ∀ z ∈ (t.cluster (nmCluster e.name)).tiles, z.name ≠ e.name) ∧ (e.cls = 3 → ∀ k ∈ t.skeins, k.name ≠ e.name) ∧ (∀ p ∈ t.parked, p.on ≠ .name (nmSerial e.name)) ∧
      ∀ d, d < 64 → e.sharers.getLsbD d = true → ∃ h ∈ t.shoots, h.die = d ∧ h.serial = nmSerial op.nm ∧ h.ack = false
    let awaited := fun (t : State) (e : NameEntry) => ∃ acks, t.nameOps = (s.nameOps.map fun o =>
        if o.id = n then { o with status := some 0, acks := acks } else o) ∧
      ∀ d, d < 64 → e.sharers.getLsbD d = true → ∃ h ∈ t.shoots, h.die = d ∧ h.serial = nmSerial op.nm ∧ h.id ∈ acks
    (∀ sync, op.fn = .nkill sync → ∀ w st x, s.resolve op.cluster op.ctx op.nm 0 = (w, st, x) → ∃ t, exec (.nameOpAtSlice n) s = .next t ∧ t.mem = s.mem ∧
      (nmClass op.nm = 5 → s.badName op.nm 0 = false → OpAnswered s t n 0x10 ∧ t.names = s.names) ∧
      (nmClass op.nm ≠ 5 ∨ s.badName op.nm 0 = true →
        (x = none → OpAnswered s t n st ∧ t.names = w.names) ∧
        (x ≠ none → w.entry (nmSerial op.nm) = none → OpAnswered s t n 8 ∧ t.names = w.names) ∧
        (x ≠ none → ∀ e, w.entry (nmSerial op.nm) = some e → dead t e ∧ if sync then awaited t e else OpAnswered s t n 0))) ∧
    (op.fn = .death → ∀ e, s.entry (nmSerial op.nm) = some e → ∃ t, exec (.nameOpAtSlice n) s = .next t ∧ dead t e ∧ t.mem = s.mem ∧
      (op.g < Config.slots → awaited t e) ∧ (Config.slots ≤ op.g → t.nameOps = s.nameOps.filter fun o => o.id != n))

/-- At the slice: NRES of a resolved name writes its block, value only of the classes that keep one, then class, home, context and serial. -/
def Sys2Proof.Claims.resolvesAtSlice : Prop :=
  ∀ (s u : State) (n st : Nat) (op : NameOp) (e : Option NcEntry), s.nameOps.find? (fun o => o.id == n && o.status.isNone) = some op → op.fn = .nres →
    NameDue s op → lOff op.sb < 0x27000 →
    s.resolve op.cluster op.ctx op.nm 0 = (u, st, e) →
    ∃ t, exec (.nameOpAtSlice n) s = .next t ∧ OpAnswered s t n st ∧ t.names = u.names ∧
      match e with
      | none => t.mem = u.mem
      | some x => Stored u.mem t.mem (lKey op.sb) 32 ((if x.cls.toNat ∈ [2, 4, 6, 7] then x.value.toNat else 0) +
          (x.ctx.toNat + x.home % 2 ^ 11 * 2 ^ 16 + x.cls.toNat * 2 ^ 27) * 2 ^ 64 + (nmSerial op.nm).toNat * 2 ^ 128)

/-- At the slice: NNEW of a block with values that the rules refuse is PERM and makes nothing. Else the name is issued with the next serial of the
NSE that creates it, entered live with the creator's context and the block's value, and written to the result block: OK; without a serial or room
for its entry, or for its object, FULL; a barrier's line that does not translate is XLATE, and one that may not be written PERM. A barrier
stands in phase 0 with no arrivals, in its line or in the overflow area; a skein is empty, with the descriptor of its block. -/
def Sys2Proof.Claims.createsAtSlice : Prop :=
  ∀ (s : State) (n : Nat) (op : NameOp) (blk : BitVec 1024), s.nameOps.find? (fun o => o.id == n && o.status.isNone) = some op → op.fn = .nnew blk →
    NameDue s op →
    let hint := if blk.getLsbD 27 then blk.toNat / 2 ^ 16 % 2 ^ 11 else op.cluster
    let cls := blk.toNat % 64
    let value := BitVec.ofNat 64 (blk.toNat / 2 ^ 64)
    let params := blk.toNat / 2 ^ 512
    let refused := fun (st : Nat) => ∃ t, exec (.nameOpAtSlice n) s = .next t ∧ t.names = s.names ∧ t.mem = s.mem ∧ OpAnswered s t n st
    let made := fun (w : State) (home ser : Nat) (object : W128 → Tab Byte → State → Prop) => w.sliceRoom (w64 ser) = true →
      w.nseHold (Config.sliceOf (w64 ser)).val = false → lOff op.sb < 0x27000 →
      let nm := s.makeName cls ser hint
      ∃ t m, exec (.nameOpAtSlice n) s = .next t ∧
        t.names = s.names ++ [⟨nm, BitVec.ofNat 6 cls, false, op.ctx, home, if cls = 3 then 0 else value, 0⟩] ∧ object nm m t ∧
        Stored m t.mem (lKey op.sb) 16 nm.toNat ∧ OpAnswered s t n 0
    let barrier := fun (b : Barrier) (nm : W128) (key : Nat) => b.name = nm ∧ b.ctx = op.ctx ∧ b.line = value ∧ b.key = key ∧
      b.count = BitVec.ofNat 32 params ∧ b.phase = 0 ∧ b.arrived = 0 ∧ scopeCode b.scope = params / 2 ^ 32 % 8
    let line := fun (nm : W128) => nm.toNat + params % 2 ^ 32 * 2 ^ 128 + params / 2 ^ 32 % 8 * 2 ^ 224
    (nnewOk blk = false → refused 0x10) ∧
    (nnewOk blk = true → (cls ≠ 2 ∨ value = 0) →
      (∀ f, s.issue (hint / 32) = .bad f → refused 0x11) ∧
      ∀ w ser, s.issue (hint / 32) = .ok (w, ser) →
        (w.sliceRoom (w64 ser) = false → refused 0x11) ∧
        (cls ∈ [4, 6, 7] → made w hint ser fun _ m _ => m = s.mem) ∧
        (w.sliceRoom (w64 ser) = true → w.nseHold (Config.sliceOf (w64 ser)).val = false →
          (cls = 2 ∧ s.overflowRoom (hint / 32) 64 = false ∨ cls = 3 ∧ s.nseRoom (hint / 32) = false) → refused 0x11) ∧
        (cls = 2 → s.overflowRoom (hint / 32) 64 = true → made w hint ser fun nm m t =>
          Stored s.mem m (nseKey (w64 ser).toNat) 64 (line nm) ∧ ∃ b ∈ t.barriers, barrier b nm (nseKey (w64 ser).toNat)) ∧
        (cls = 3 → s.nseRoom (hint / 32) = true → made w hint ser fun nm m t => m = s.mem ∧ ∃ k, t.skeins = s.skeins ++ [k] ∧ k.name = nm ∧
          k.ctx = op.ctx ∧ k.cluster = hint ∧ k.items = [] ∧ k.appended = 0 ∧
          k.desc = BitVec.ofNat 512 (putFld params 64 64 (rewrite op.core (w64 (params / 2 ^ 64))).toNat))) ∧
    (nnewOk blk = true → cls = 2 → value ≠ 0 →
      (∀ u f, s.findHome op.cluster op.ctx value = (u, .error f) → refused 13) ∧
      ∀ u h, s.findHome op.cluster op.ctx value = (u, .ok h) →
        (∀ v f, u.atHome h op.cluster op.ctx value 64 .write false 1 = .bad v f →
          ∃ t, exec (.nameOpAtSlice n) s = .next t ∧ t.names = s.names ∧
            OpAnswered s t n (if f.cause = 7 ∨ (f.cause = 4 ∧ f.detail.toNat % 16 ≠ 4) then 13 else 0x10)) ∧
        ∀ v k, u.atHome h op.cluster op.ctx value 64 .write false 1 = .ok (v, k) →
          (∀ f, v.issue h = .bad f → ∃ t, exec (.nameOpAtSlice n) s = .next t ∧ t.names = s.names ∧ OpAnswered s t n 0x11) ∧
          ∀ w ser, v.issue h = .ok (w, ser) → made w (32 * h) ser fun nm m t =>
            Stored v.mem m k 64 (line nm) ∧ ∃ b ∈ t.barriers, barrier b nm k)

/-- The status of a name operation reaches its register once no acknowledgement is outstanding; a task that has ended leaves its slot then. -/
def Sys2Proof.Claims.nameOpsReturn : Prop :=
  ∀ (s : State) (g : Nat) (o : NameOp) (st : W64), g < Config.slots → s.nameOps.find? (fun o => o.g == g && o.status.isSome && o.acks.isEmpty) = some o →
    o.status = some st →
    (o.fn ≠ .death → ∃ t, exec (.nameOpReturn g) s = .next t ∧ t.mem = s.mem ∧ t.nameOps = s.nameOps.filter (fun p => p.id != o.id) ∧
      ReplyDone s t g o.d st) ∧
    (o.fn = .death → (s.slot g).stepping = false → ∃ t, exec (.nameOpReturn g) s = .next t ∧ t.mem = s.mem ∧
      t.nameOps = s.nameOps.filter (fun p => p.id != o.id) ∧ (t.slot g).state = .empty ∧ (t.slot g).faults = (s.slot g).faults ∧
      ∀ k, k ≠ g → t.slot k = s.slot k)

/-- A shoot-down empties the serial out of the name caches of its die and is acknowledged; the acknowledgement leaves the operations that
waited for it. -/
def Sys2Proof.Claims.shootDowns : Prop :=
  ∀ (s : State) (n : Nat),
    (∀ h, s.shoots.find? (fun h => h.id == n && ! h.ack) = some h → ∃ t, exec (.shootDown n) s = .next t ∧ t.mem = s.mem ∧ t.slots = s.slots ∧
      (∀ i, i < 32 → ∀ e ∈ (t.cluster (32 * h.die + i)).ncache, e.serial ≠ h.serial) ∧
      (∀ k, k / 32 ≠ h.die → t.cluster k = s.cluster k) ∧
      t.shoots = s.shoots.map fun k => if k.id = n then { k with ack := true } else k) ∧
    (s.shoots.any (fun h => h.id == n && h.ack) = true → ∃ t, exec (.shootDownAck n) s = .next t ∧ t.mem = s.mem ∧ t.slots = s.slots ∧
      t.shoots = s.shoots.filter (fun h => h.id != n) ∧ t.nameOps = s.nameOps.map fun o => { o with acks := o.acks.filter (· != n) })

/-- A block of serials: reserved when the last is used up, the counter in non-volatile storage moved on before any of them is issued; a write
that is not confirmed leaves the counter. -/
def Sys2Proof.Claims.serialBlocks : Prop :=
  ∀ s : State, s.serialEnd ≤ s.serialNext → s.durable.serialCounter + 2 ^ 40 < 2 ^ 64 →
    let n := s.durable.serialCounter
    let kept : Durable := { s.durable with serialCounter := n + 2 ^ 40 }
    exec (.serialBlockReserve true) s =
      .next { s with serialNext := n, serialEnd := n + 2 ^ 40, serialFail := false, durable := kept } ∧
    exec (.serialBlockReserve false) s = .next { s with serialFail := true }

/-- The NAME words as they issue. Completes: nnew, nkill, nres, ncas, nwait. -/
def Obligations.NameWords : Prop := namesSent ∧ nameWaits

/-! Waiting, waking, barriers (R294 to R303) -/

/-- The 8-byte word of a WAITA or WAKE, after its commit: state `u`, flat key `k`. -/
def Sys2Proof.Claims.WordAt (s u : State) (ea : W64) (k : Nat) : Prop :=
  s.cur < Config.slots ∧ s.operandFault ea false 8 8 0 0 = none ∧ Quiet s ∧
  s.atWord.access s.cur s.me.ctx s.me.descs ea 8 .read 0 = .ok (u, k)

/-- WAITA of a local word: done with its value where that is at least the threshold, an acquire; else the slot is HELD at the word. -/
def Sys2Proof.Claims.localWaits : Prop :=
  ∀ (s u : State) (d a b : BitVec 5) (sc : Scope) (k : Nat), WordAt s u (s.me.s a) k → tagOf (s.me.s a) ≠ 4 → u.poisoned k 8 = false →
    let v := w64 (u.nat k 8)
    ∃ t, exec (.waita d a b sc) s = .next t ∧ t.mem = u.mem ∧
      ((s.me.s b).toNat ≤ v.toNat → Ended u t d v ∧ ∀ w ∈ acqOf (u.carried k 8) (coreOf s.cur) sc, w ∈ (t.slot u.cur).hb) ∧
      (v.toNat < (s.me.s b).toNat → (∀ g, g ≠ u.cur → t.slot g = u.slot g) ∧
        ∃ m, t.slot u.cur = { u.me with state := .held, hold := .waita k (s.me.s b) d sc m none, heldSince := u.cycle })

/-- WAITA of a global word that its home lets it read: done, or parked on that word. -/
def Sys2Proof.Claims.globalWaits : Prop :=
  ∀ (s u : State) (d a b : BitVec 5) (sc : Scope) (k : Nat), WordAt s u (s.me.s a) k → tagOf (s.me.s a) = 4 → s.noted = false →
    u.poisoned k 8 = false →
    let v := w64 (u.nat k 8)
    ((s.me.s b).toNat ≤ v.toNat → ∃ t, exec (.waita d a b sc) s = .next t ∧ t.mem = u.mem ∧ Ended u t d v) ∧
    (v.toNat < (s.me.s b).toNat → Parks (.waita d a b sc) s u (.word k (s.me.s b)) d sc)

/-- WAKE: the first waiters of the word, as many as it asks for, in order of arrival, go on with the word's value whatever their thresholds;
it returns how many, and every other waiter stays. -/
def Sys2Proof.Claims.wakes : Prop :=
  ∀ (s u : State) (d a b : BitVec 5) (sc : Scope) (o : Order) (k : Nat), WordAt s u (s.me.s a) k →
    (ordRel o = true → s.visible sc (coreOf s.cur) s.me.obs = true) → (u.slot u.cur).state ≠ .held → u.poisoned k 8 = false →
    let ws := (u.waiters k).take (s.me.s b).toNat
    let v := w64 (u.nat k 8)
    ∃ t, exec (.wake d a b sc o) s = .next t ∧ t.mem = u.mem ∧ (∀ r, (t.slot u.cur).s r = if r = d ∧ d ≠ 0 then w64 ws.length else u.me.s r) ∧
      (∀ g, g ≠ u.cur → (u.slot g).state ≠ .held → t.slot g = u.slot g) ∧
      (∀ g key thr e asc m, g ≠ u.cur → (u.slot g).state = .held → (u.slot g).hold = .waita key thr e asc m none →
        (m ∉ ws → t.slot g = u.slot g) ∧
        (m ∈ ws → (t.slot g).state = .running ∧ (t.slot g).pc = (u.slot g).pc + 4 ∧ (t.slot g).rstpc = (u.slot g).pc + 4 ∧
          ∀ r, (t.slot g).s r = if r = e ∧ e ≠ 0 then v else (u.slot g).s r)) ∧
      t.parked = u.parked.filter fun p => ! ws.contains p.id

/-- A park at its NSE: a stitch whose condition holds goes to its cluster's ready list with its result; one that must wait joins the wait list
and its slot is EMPTY; without room the task stays, HELD; one whose word is poisoned goes back to its word, the model's choice (log entry
79). -/
def Sys2Proof.Claims.parksJoin : Prop :=
  ∀ (s : State) (n : Nat) (p : Parked), s.parks.find? (fun p => p.id == n) = some p → (s.slot p.g).stepping = false →
    s.nseHold (s.parkDie p) = false →
    ∃ t, exec (.park n) s = .next t ∧ t.mem = s.mem ∧ t.parks = s.parks.filter (fun q => q.id != n) ∧ (∀ g, g ≠ p.g → t.slot g = s.slot g) ∧
      (s.parkHurt p = true → (t.slot p.g).state = .empty ∧
        ∃ r, (t.cluster p.cluster).ready = (s.cluster p.cluster).ready ++ [r] ∧ stPc r.st = stPc p.st ∧ stState r.st = 0) ∧
      (s.parkHurt p = false →
      (∀ v obs, s.parkTest p = some (v, obs) → (t.slot p.g).state = .empty ∧
        ∃ r, (t.cluster p.cluster).ready = (s.cluster p.cluster).ready ++ [r] ∧ stPc r.st = (stPc p.st + 4) % 2 ^ 48 ∧ stState r.st = 0 ∧
          ∀ k, k < 4 → stLive r.st k = if p.d.toNat = 8 + k then v else stLive p.st k) ∧
      (s.parkTest p = none → s.nseRoom (s.parkDie p) = true →
        (t.slot p.g).state = .empty ∧ t.parked = s.parked ++ [{ p with id := s.nextId }]) ∧
      (s.parkTest p = none → s.nseRoom (s.parkDie p) = false → t.parked = s.parked ∧
        t.slot p.g = { s.slot p.g with state := .held, hold := .listFull p, heldSince := s.cycle, await := .none }))

/-- The deadlock trap and the timer: with every packet ring off, each NSE leaves its packet with its die, the host learns the head of every
wait list, nothing is killed; the timer's register is 0 after its packet. -/
def Sys2Proof.Claims.trapsAndTimers : Prop :=
  ∀ s : State, (∀ d, d < 64 → (s.die d).fqctl.getLsbD 0 = false) →
    let heads := listHeads s.parked
    (s.deadlocked = true → ∃ t, exec .deadlockTrap s = .next t ∧ t.mem = s.mem ∧ t.slots = s.slots ∧ t.parked = s.parked ∧ t.trapped = true ∧
      t.hostOut = s.hostOut ++ heads.map s.listRecord ∧
      ∀ d, d < 64 → (t.die d).fqheld = (s.die d).fqheld ++ [(Config.slots, nsePacket d 0x14 (heads.filter fun p => s.parkDie p == d).length)]) ∧
    ∀ d, d < 64 → (s.die d).tmwake ≠ 0 → (s.die d).tmwake.toNat ≤ s.cycle → ∃ t, exec (.tmwake d) s = .next t ∧ t.mem = s.mem ∧ t.slots = s.slots ∧
      t.die d = { s.die d with tmwake := 0, fqheld := (s.die d).fqheld ++ [(Config.slots, nsePacket d 0x15 s.cycle)] } ∧
      ∀ e, e ≠ d → t.die e = s.die e

/-- BARA of a barrier that its name resolves to: it returns phase and count as they were; the last arrival starts the next phase and releases
every BARW parked on the barrier; any other counts. The barrier's line holds the new state. -/
def Sys2Proof.Claims.arrivals : Prop :=
  ∀ (s u w : State) (d a : BitVec 5) (nm : Nat) (b : Barrier), s.operandFault (s.me.s a) false 16 16 0 0 = none → s.noted = false →
    Reads s u (s.me.s a) 16 nm → u.barrierOf (BitVec.ofNat 128 nm) = (w, .ok b) → w.visible b.scope (coreOf w.cur) w.me.obs = true →
    w.barrierHeld b = false →
    w.me.state = .running →
    let old := w64 (b.phase.toNat * 2 ^ 32 + b.arrived.toNat)
    ∃ t b', exec (.bara d a) s = .next t ∧ t.barrier (nmSerial b.name) = some b' ∧ Stored w.mem t.mem b.key 64 b'.line64 ∧
      b'.name = b.name ∧ b'.count = b.count ∧ b'.scope = b.scope ∧
      (∀ r, (t.slot w.cur).s r = if r = d ∧ d ≠ 0 then old else w.me.s r) ∧ (t.slot w.cur).pc = w.me.pc + 4 ∧ (t.slot w.cur).rstpc = w.me.pc + 4 ∧
      (b.arrived + 1 ≠ b.count → b'.arrived = b.arrived + 1 ∧ b'.phase = b.phase) ∧
      (b.arrived + 1 = b.count → b'.arrived = 0 ∧ b'.phase = b.phase + 1 ∧ ∀ p ∈ t.parked, ∀ ph, p.on ≠ .barrier (nmSerial b.name) ph)

/-- BARW is done where the barrier's phase differs from the one it names, and else parks on the barrier; a name that does not resolve gives
its status with bit 63, for BARA and BARW. -/
def Sys2Proof.Claims.phaseWaits : Prop :=
  ∀ (s u w : State) (d a b : BitVec 5) (nm : Nat), s.operandFault (s.me.s a) false 16 16 0 0 = none → s.noted = false →
    Reads s u (s.me.s a) 16 nm →
    let ph := (s.me.s b).truncate 31
    (∀ y, u.barrierOf (BitVec.ofNat 128 nm) = (w, .ok y) →
      (y.phase ≠ ph → ∃ t, exec (.barw d a b) s = .next t ∧ t.mem = w.mem ∧ Ended w t d (w64 (y.phase.toNat * 2 ^ 32))) ∧
      (y.phase = ph → Parks (.barw d a b) s w (.barrier (nmSerial y.name) ph) d y.scope)) ∧
    ∀ v, u.barrierOf (BitVec.ofNat 128 nm) = (w, .error v) →
      (∃ t, exec (.bara d a) s = .next t ∧ t.mem = w.mem ∧ Ended w t d v) ∧ ∃ t, exec (.barw d a b) s = .next t ∧ t.mem = w.mem ∧ Ended w t d v

/-- WAITA and WAKE. Completes: waita, wake. -/
def Obligations.WaitsAndWakes : Prop := localWaits ∧ globalWaits ∧ wakes

/-- Name operations at their slices, their statuses, shoot-downs and blocks of serials.
That a free value gives the slice and the check code of a name is the model's choice (log entry 1).
Completes: nameOpAtSlice, nameOpReturn, shootDown,
shootDownAck, serialBlockReserve. -/
def Obligations.NamesAtSlices : Prop := resolutions ∧ killsAtSlice ∧ resolvesAtSlice ∧ createsAtSlice ∧ nameOpsReturn ∧ shootDowns ∧ serialBlocks

/-- Parks, the deadlock trap and the timer, BARA and BARW.
That the host's record of a deadlock goes to a list of the model's own and which engines count as idle (log entry 36), that a holding queue takes an NSE's
packet beyond 64 (log entry 58), that a park is tested on its arrival (log entry 39) and that a waiter of a poisoned word goes back to its word (log entry 79)
is the model's choice.
Completes: bara, barw, park, deadlockTrap, tmwake. -/
def Obligations.BarriersAndParks : Prop := parksJoin ∧ trapsAndTimers ∧ arrivals ∧ phaseWaits

/-! Tasks (R262 to R268, R275) -/

/-- With nothing to wait for, the word commits; its task has no chains left and its window saved: state `v`. -/
def Sys2Proof.Claims.Suspends (s v : State) : Prop :=
  s.noted = false ∧ Quiet s ∧ s.chainsOf s.cur = 0 ∧ s.me.stepping = false ∧
  (s.atWord.modMe Slot.endCpys).saveWindow s.cur = (v, .ok ())

/-- YIELD sends its task, READY at the next instruction, to the tail of its cluster's ready list; END writes no stitch, and a named task's name
is on its way to die, its slot waiting until every die knows. Else the slot is EMPTY, and no other slot has changed. -/
def Sys2Proof.Claims.tasksLeave : Prop :=
  ∀ (s v : State), Suspends s v →
    let x := v.slot s.cur
    let cl := clusterOf (coreOf s.cur)
    (∃ t r, exec .yield s = .next t ∧ t.mem = v.mem ∧ (t.slot s.cur).state = .empty ∧ (∀ g, g ≠ s.cur → t.slot g = v.slot g) ∧
      (t.cluster cl).ready = (v.cluster cl).ready ++ [r] ∧ r.core = coreOf s.cur ∧ stPc r.st = (x.pc.toNat + 4) % 2 ^ 48 ∧ stState r.st = 0 ∧
      stPrio r.st = x.prio.toNat ∧ stCtx r.st = x.ctx ∧ stFeat r.st = x.feat.toNat ∧ ∀ k, k < 4 → stLive r.st k = x.s (BitVec.ofNat 5 (8 + k))) ∧
    ∃ t, exec .endTask s = .next t ∧ t.mem = v.mem ∧ (∀ g, g ≠ s.cur → t.slot g = v.slot g) ∧ t.clusters = v.clusters ∧
      (x.named = false → (t.slot s.cur).state = .empty ∧ t.nameOps = v.nameOps) ∧
      (x.named = true → ∃ op, t.nameOps = v.nameOps ++ [op] ∧ op.fn = .death ∧ op.nm = x.name ∧ op.g = s.cur ∧ op.order = .release ∧
        op.scope = .device ∧ op.status = none ∧ t.slot s.cur = { x with await := .reply op.id })

/-- SPAWN of a skein that its name resolves to sends the stitch there and waits; a name that does not resolve gives its status. -/
def Sys2Proof.Claims.spawnsSent : Prop :=
  ∀ (s u w x : State) (d a b : BitVec 5) (st nm status : Nat) (e : Option NcEntry), s.operandFault (s.me.s a) false 64 64 0 0 = none →
    s.operandFault (s.me.s b) false 16 16 0 0 = none → Reads s u (s.me.s a) 64 st → u.readAt u.cur (s.me.s b) 16 = .ok (w, nm) →
    w.resolve (clusterOf (coreOf w.cur)) w.me.ctx (BitVec.ofNat 128 nm) 3 = (x, status, e) →
    (status ∉ [0, 10] → ∃ t, exec (.spawn d a b) s = .next t ∧ t.mem = x.mem ∧ t.spawns = x.spawns ∧ Ended x t d (w64 status)) ∧
    (status ∈ [0, 10] → ∃ t r, exec (.spawn d a b) s = .next t ∧ t.mem = x.mem ∧ t.spawns = x.spawns ++ [r] ∧ r.st = BitVec.ofNat 512 st ∧
      r.nm = BitVec.ofNat 128 nm ∧ r.g = x.cur ∧ r.d = d ∧ r.ctx = x.me.ctx ∧ r.cluster = clusterOf (coreOf x.cur) ∧ r.obs = x.me.obs ∧ Waits x t r.id)

/-- SEND takes its 32 bytes and its destination and waits; a destination that no slot has is PERM. -/
def Sys2Proof.Claims.messagesSent : Prop :=
  ∀ (s : State) (d a b : BitVec 5), Quiet s → OwnBytes s (s.me.s b) 32 → (s.me.s b).toNat % 32 = 0 →
    s.poisoned (ownKey s (s.me.s b)) 32 = false →
    ((s.me.s a).toNat < 2 ^ 18 → ∃ t r, exec (.send d a b) s = .next t ∧ t.mem = s.mem ∧ t.sends = s.sends ++ [r] ∧ r.g = s.cur ∧ r.d = d ∧
      r.target = (s.me.s a).toNat ∧ r.msg = BitVec.ofNat 256 (s.nat (ownKey s (s.me.s b)) 32) ∧ r.ctx = s.me.ctx ∧
      r.sender = w64 (slotId s.cur + s.me.ctx.toNat * 2 ^ 32) ∧ r.status = none ∧ (∀ g, g ≠ s.cur → t.slot g = s.slot g) ∧
      t.me = { AtWord s.me with await := .reply r.id, obs := t.me.obs, hb := t.me.hb, seen := t.me.seen }) ∧
    (2 ^ 18 ≤ (s.me.s a).toNat → ∃ t, exec (.send d a b) s = .next t ∧ t.mem = s.mem ∧ t.sends = s.sends ∧ Ended s t d 0x10)

/-- RECV of a ring with a message writes its 32 bytes to the block and one more to tail, and gives the sender; with none it is HELD. -/
def Sys2Proof.Claims.messagesTaken : Prop :=
  ∀ (s : State) (d a : BitVec 5), Quiet s → s.me.state = .running → OwnBytes s (s.me.s a) 32 → (s.me.s a).toNat % 32 = 0 →
    let w := s.nat (pageKey s.cur 0x20) 8
    let head := s.nat (pageKey s.cur 0x28) 4
    let tail := s.nat (pageKey s.cur 0x2C) 4
    let k := localKey (coreOf s.cur) (w % 2 ^ 18 + 64 * (tail % 2 ^ (w / 2 ^ 19 % 16)))
    w / 2 ^ 18 % 2 = 1 →
    (head ≠ tail → s.poisoned k 64 = false → s.ckHold (ownKey s (s.me.s a)) = false → s.ckHold (pageKey s.cur 0x2C) = false → ∃ t m, exec (.recv d a) s = .next t ∧ Stored s.mem m (ownKey s (s.me.s a)) 32 (s.nat k 32) ∧
      Stored m t.mem (pageKey s.cur 0x2C) 4 (tail + 1) ∧ (∀ r, t.me.s r = if r = d ∧ d ≠ 0 then w64 (s.nat (k + 32) 8) else s.me.s r) ∧
      t.me.pc = s.me.pc + 4 ∧ t.me.rstpc = s.me.pc + 4 ∧ OthersRun s t) ∧
    (head = tail → ∃ t, exec (.recv d a) s = .next t ∧ OnlyMeTraced s t ∧
      t.me = { AtWord s.me with state := .held, hold := .recv, heldSince := s.cycle })

/-- SETPRIO sets the prio up to the cluster's cap; above it PERM, above 15 ILLEGAL, and the prio stays. -/
def Sys2Proof.Claims.priorities : Prop :=
  ∀ (s : State) (d a : BitVec 5),
    let v := (s.me.s a).toNat
    let cap := (s.cluster (clusterOf (coreOf s.cur))).cap.toNat
    (v < 16 → v ≤ cap → ∃ t, exec (.setprio d a) s = .next t ∧ ScalarDone (s.modMe fun x => { x with prio := BitVec.ofNat 4 v }) t d 0) ∧
    (v < 16 → cap < v → ∃ t, exec (.setprio d a) s = .next t ∧ ScalarDone s t d 0x10) ∧
    (16 ≤ v → ∃ w, encode (.setprio d a) = some w ∧ exec (.setprio d a) s = .next (s.freeze s.cur ⟨1, 0, w.zeroExtend 64⟩))

/-- TASKNAME gives the task the next name of its die and writes it to the block; a task that has a name gets that, with DUP; one without a
frame stack PERM; no room FULL. -/
def Sys2Proof.Claims.taskNames : Prop :=
  ∀ (s : State) (d a : BitVec 5), Clear s → s.mayStore s.cur = true → OwnBytes s (s.me.s a) 16 → (s.me.s a).toNat % 16 = 0 →
    s.ckHold (ownKey s (s.me.s a)) = false →
    let k := ownKey s (s.me.s a)
    let c := coreOf s.cur
    let sees := fun (t : State) (v : W64) => t.me.pc = s.me.pc + 4 ∧ t.me.rstpc = s.me.rstpc ∧
      (∀ r, t.me.s r = if r = d ∧ d ≠ 0 then v else s.me.s r) ∧ OthersRun s t
    (s.me.named = true → ∃ t, exec (.taskname d a) s = .next t ∧ Stored s.mem t.mem k 16 s.me.name.toNat ∧ t.names = s.names ∧ sees t 2) ∧
    (s.me.named = false → s.me.fsp = 0 → ∃ t, exec (.taskname d a) s = .next t ∧ ScalarDone s t d 0x10) ∧
    (s.me.named = false → s.me.fsp ≠ 0 →
      (∀ u, s.newName (dieOf c) 5 (clusterOf c) (clusterOf c) s.me.ctx 0 = .ok (u, none) →
        ∃ t, exec (.taskname d a) s = .next t ∧ ScalarDone u t d 0x11) ∧
      (∀ u n, s.issue (dieOf c) = .ok (u, n) → u.sliceRoom (w64 n) = true → u.nseHold (Config.sliceOf (w64 n)).val = false →
        let nm := s.makeName 5 n (clusterOf c)
        ∃ t, exec (.taskname d a) s = .next t ∧ Stored s.mem t.mem k 16 nm.toNat ∧
          t.names = s.names ++ [⟨nm, 5, false, s.me.ctx, clusterOf c, 0, 0⟩] ∧ t.me.named = true ∧ t.me.name = nm ∧ t.me.taskid = nmSerial nm ∧ sees t 0))

/-- A spawn at its skein's home: an accepted stitch joins the tail of the skein READY with the skein's prio and the spawner's context, and the
spawner gets OK; a refused one changes no skein. -/
def Sys2Proof.Claims.spawnsAppend : Prop :=
  ∀ (s u : State) (n status count : Nat) (r : SpawnReq), s.spawns.find? (fun r => r.id == n) = some r → r.g < Config.slots →
    s.spawns.all (fun o => ! (decide (o.id < n) && o.cluster == r.cluster && o.nm == r.nm)) = true →
    s.nseHold (nmCluster r.nm / 32) = false → s.append r.nm r.ctx r.core r.st r.obs r.pre r.rep = (u, status, count) →
    ∃ t, exec (.spawnAppend n) s = .next t ∧ t.mem = s.mem ∧ t.spawns = s.spawns.filter (fun o => o.id != n) ∧ ReplyDone s t r.g r.d (w64 status) ∧
      (status ≠ 0 → t.skeins = s.skeins) ∧
      (status = 0 → ∃ k k' st, s.skeins.find? (fun k => k.name == r.nm) = some k ∧ t.skeins.find? (fun k => k.name == r.nm) = some k' ∧
        k'.items = k.items ++ [⟨st, r.obs, r.pre, s.cycle, r.rep⟩] ∧ k'.desc = k.desc ∧ stPc st = stPc r.st ∧ stState st = 0 ∧ stPrio st = skPrio k.desc ∧ stCtx st = r.ctx ∧
        stFeat st = stFeat r.st ∧ ∀ j, j < 4 → stLive st j = stLive r.st j)

/-- A message at its ring: PERM where the ring is off, of another context, or fenced off; FULL where it has no room; else its 64-byte entry
is written and head is one up. The status then reaches the sender. -/
def Sys2Proof.Claims.messagesDelivered : Prop :=
  ∀ s : State,
    (∀ n r, s.sends.find? (fun r => r.id == n && r.status.isNone) = some r →
      s.visible (narrowest (coreOf r.g) (coreOf r.target)) (coreOf r.g) r.obs = true →
      let w := s.nat (pageKey r.target 0x20) 8
      let head := s.nat (pageKey r.target 0x28) 4
      let tail := s.nat (pageKey r.target 0x2C) 4
      let size := 2 ^ (w / 2 ^ 19 % 16)
      s.ckHold (localKey (coreOf r.target) (w % 2 ^ 18 + 64 * (head % size))) = false → s.ckHold (pageKey r.target 0x28) = false →
      let off := w / 2 ^ 18 % 2 = 0 ∨ w / 2 ^ 32 % 2 ^ 16 ≠ r.ctx.toNat ∨ (s.cluster (clusterOf (coreOf r.target))).fenced = true
      let told := fun (t : State) (st : BitVec 8) => t.sends = s.sends.map fun o => if o.id = n then { o with status := some st } else o
      (off → ∃ t, exec (.sendDelivery n) s = .next t ∧ t.mem = s.mem ∧ t.slots = s.slots ∧ told t 0x10) ∧
      (¬ off → (head + 2 ^ 32 - tail) % 2 ^ 32 = size → ∃ t, exec (.sendDelivery n) s = .next t ∧ t.mem = s.mem ∧ t.slots = s.slots ∧ told t 0x11) ∧
      (¬ off → (head + 2 ^ 32 - tail) % 2 ^ 32 ≠ size → ∃ t m, exec (.sendDelivery n) s = .next t ∧ told t 0 ∧
        Stored s.mem m (localKey (coreOf r.target) (w % 2 ^ 18 + 64 * (head % size))) 64 (r.msg.toNat + r.sender.toNat * 2 ^ 256) ∧
        Stored m t.mem (pageKey r.target 0x28) 4 (head + 1))) ∧
    ∀ g r st, s.sends.find? (fun r => r.g == g && r.status.isSome) = some r → r.status = some st →
      ∃ t, exec (.sendStatus g) s = .next t ∧ t.mem = s.mem ∧ t.sends = s.sends.filter (fun o => o.id != r.id) ∧
        ReplyDone s t g r.d (st.zeroExtend 64)

/-- A ring word that keeps the rules takes effect with head and tail 0 and the writer's context; one that breaks them changes nothing. -/
def Sys2Proof.Claims.ringsSet : Prop :=
  ∀ (s : State) (g w : Nat) (v : W64), s.slotReach g = true →
    let at_ := pageKey g 0x20
    let word := putFld v.toNat 32 16 (s.slot w).ctx.toNat
    (ringOk (putFld v.toNat 32 16 0) = true → ∃ t m, exec (.rxring g w v) s = .next t ∧ Stored s.mem m at_ 8 word ∧ Stored m t.mem (at_ + 8) 8 0) ∧
    (ringOk (putFld v.toNat 32 16 0) = false → exec (.rxring g w v) s = .next s)

/-- A replay whose blocks, parameters and nodes are all in order: its nodes are spawned or parked and its status word counts it; and a parked
node whose flag is satisfied is spawned and leaves the list. -/
def Sys2Proof.Claims.replays : Prop :=
  (∀ (s s1 s2 s3 s4 s5 t : State) (g desc old size e : Nat) (v : W64) (nodes : List GrNode),
    let ctx := (s.slot g).ctx
    let stat := w64 (fld desc 192 64)
    let args := fld desc 128 64
    let count := fld desc 0 32
    let n := (fld old 0 32 + 1) % 2 ^ 32
    let base := args + n % 2 * size
    s.slotReach g = true → v.toNat / 2 ^ 60 = 4 → v.toNat % 64 = 0 → addrOk false v = true → ({ s with grSeen := [] } : State).grRead g ctx 2 v 64 = .ok (s1, desc) →
    s1.grRead g ctx 2 stat 8 = .ok (s2, old) → fld desc 32 32 = 0 → fld desc 256 256 = 0 → 1 ≤ count → count ≤ 4096 → fld desc 64 6 = 0 → args % 64 = 0 →
    s2.grNodes g ctx (w64 (fld desc 64 64)) 0 0 count = .ok (s3, nodes, size) →
    s3.grWaiting (ctx, stat, (n + 2 ^ 32 - 2) % 2 ^ 32) = false → s3.grCopy g ctx (w64 base) nodes = .ok s4 →
    s4.grRun g ctx stat (w64 base) n nodes 0 = .ok (s5, e) → s5.grWrite g ctx 2 stat 8 (n + e * 2 ^ 32) = .ok t →
    exec (.grreplay g v) s = .next t) ∧
  ∀ (s u : State) (n : Nat) (x : GraphNode), s.graph.find? (fun x => x.id == n && x.due) = some x →
    let seen := union x.obs (preOf (s.carried x.key 8))
    s.settled seen = true →
    ({ s with graph := s.graph.filter (fun y => y.id != n), grSeen := seen } : State).grSpawn x.g x.ctx x.nm x.st x.rep = (u, 0) →
    exec (.graphNodeSpawn n) s = .next u ∧ u.mem = s.mem ∧ u.slots = s.slots ∧ (∀ y ∈ u.graph, y.id ≠ n) ∧
      ∃ k k' st, s.skeins.find? (fun k => k.name == x.nm) = some k ∧ u.skeins.find? (fun k => k.name == x.nm) = some k' ∧
        k'.items = k.items ++ [⟨st, seen, [], s.cycle, x.rep⟩] ∧ stPc st = stPc x.st

/-- A slot takes the best candidate: a stitch of a ready list, or the head of a skein without a completion word. It runs from the stitch's pc
with its prio, context, class and features, its frame, and L0 to L3 in s8 to s11. -/
def Sys2Proof.Claims.slotsDispatch : Prop :=
  ∀ (s : State) (g : Nat) (o : Offer),
    let c := coreOf g
    let u := ((s.skeins.foldl State.rebindSkein s).enterSkeins).charge (dieOf c)
    let all := (u.offers c (g % 4)).filter fun o => u.suits c o
    let v := if all.any (fun o => u.deferred c o) then u.modCluster (clusterOf c) fun k => { k with deferred := k.deferred + 1 } else u
    (s.slot g).state = .empty → (s.slot g).packet = none → s.enabled c = true → s.paused c = false → bestOffer (all.filter fun o => ! v.deferred c o) = some o →
    v.coreFor o (clusterOf c) = c → v.visible .cluster c o.obs = true →
    ((∃ cl i, o.c = .list cl i) ∨ ∃ nm k, o.c = .skein nm ∧ v.skeins.find? (fun k => k.name == nm) = some k ∧ skCseq k.desc = 0) →
    ∃ t, exec (.dispatch g) s = .next t ∧ t.mem = v.mem ∧ (∀ h, h ≠ g → t.slot h = v.slot h) ∧
      (t.slot g).state = .running ∧ (t.slot g).pc.toNat = stPc o.st ∧ (t.slot g).rstpc.toNat = stPc o.st ∧ (t.slot g).prio.toNat = stPrio o.st ∧
      (t.slot g).ctx = stCtx o.st ∧ (t.slot g).feat.toNat = stFeat o.st ∧ (t.slot g).eclass.toNat = stEclass o.st ∧ (t.slot g).named = stNamed o.st ∧
      (t.slot g).fsp = stFrame o.st ∧ (t.slot g).restoring = (stFrame o.st != 0) ∧ (t.slot g).buf = [] ∧ (t.slot g).through = false ∧
      (t.slot g).guard = none ∧
      ∀ r, (t.slot g).s r = if 8 ≤ r.toNat ∧ r.toNat < 12 then stLive o.st (r.toNat - 8) else 0

/-- A slot HELD for HOLDLIM cycles on a stream register, RECV or a local WAITA leaves its task on the core's wait list and is EMPTY, where the
list has room. -/
def Sys2Proof.Claims.holdLimits : Prop :=
  ∀ (s : State) (g : Nat),
    let x := s.slot g
    let c := coreOf g
    x.state = .held → ((∃ q n, x.hold = .stream q n) ∨ x.hold = .recv ∨ ∃ k thr d sc n v, x.hold = .waita k thr d sc n v) →
    x.heldSince + x.holdlim.toNat ≤ s.cycle → s.paused c = false → s.loading g = false → s.storing g = false → (s.core c).waitList.length < 4 →
    x.stepping = false → x.preempting = false →
    ∃ t w, exec (.holdLimit g) s = .next t ∧ t.mem = s.mem ∧ (t.slot g).state = .empty ∧ (∀ h, h ≠ g → t.slot h = s.slot h) ∧
      (t.core c).waitList = (s.core c).waitList ++ [w] ∧ w.k = g % 4 ∧ w.since = s.cycle ∧
      w.slot = { x with stepDone := false, begun := false, stamped := false, sig := none, prevBlock := none } ∧
      t.chains = (s.chains.map fun h => if h.g = g then { h with g := w.id } else h) ∧
      t.notes = s.notes.map fun n => if n.g = g then { n with g := w.id } else n

/-- Spawns, messages, ring words and replays at their targets. Completes: spawnAppend, sendDelivery, sendStatus, rxring, grreplay, graphNodeSpawn. -/
def Obligations.TaskTraffic : Prop := spawnsAppend ∧ messagesDelivered ∧ ringsSet ∧ replays

/-- Dispatch and the hold limit.
Completes: dispatch, holdLimit. -/
def Obligations.Dispatching : Prop := slotsDispatch ∧ holdLimits

/-! Chained loads (R108 to R121) -/

/-- CHLD of a legal descriptor starts a chain at its first step and runs on; a stream register it names is bound to it. A register that is
bound already is QBUSY, a ninth chain waits. -/
def Sys2Proof.Claims.chainsStart : Prop :=
  ∀ (s : State) (vs : BitVec 4), Has s 32 →
    let d := s.me.vr vs
    let start := w64 (d.toNat % 2 ^ 64)
    let st := chStep d ((chEnd d).getD 0)
    chBad d = false → addrOk (isSup (coreOf s.cur)) start = true → start.toNat / 2 ^ 60 ∉ [3, 15] →
    let taken := chStream st = true ∧ (s.me.st (chQ st)).src ≠ none
    (taken → exec (.chld vs) s = .next (s.freeze s.cur ⟨9, 0, w64 (chQ st)⟩)) ∧
    (¬ taken → 8 ≤ s.chainsOf s.cur → ∃ t, exec (.chld vs) s = .next t ∧ OnlyMe s t ∧
      t.me = { s.me with state := .held, hold := .chains 8, heldSince := s.cycle }) ∧
    (¬ taken → s.chainsOf s.cur < 8 → ∃ t h, exec (.chld vs) s = .next t ∧ t.mem = s.mem ∧ t.chains = s.chains ++ [h] ∧ h.g = s.cur ∧
      h.ctx = s.me.ctx ∧ h.seg = s.me.seg ∧ h.desc = d ∧ h.k = 0 ∧ h.base = start ∧ h.hops = 0 ∧ h.result = none ∧
      (∀ g, g ≠ s.cur → t.slot g = s.slot g) ∧
      t.me = { s.me with q := t.me.q, stepRep := t.me.stepRep, pc := s.me.pc + 4, begun := false, stamped := false, stepDone := s.me.stepping } ∧
      ∀ k, t.me.st k = if chStream st = true ∧ k = chQ st then 
        { s.me.st k with src := some (.chain h.id), last := false, fail := false, seg := s.me.seg } else s.me.st k)

/-- One step of a chain that its owner lets it read: END ends it with OK and the bytes there; LOAD64 and LOADACQ follow the pointer, GONE where
it is 0; NAME128 follows a live name's value. A step that ends the chain otherwise ends it with a status, no byte and no slot changed by it. -/
def Sys2Proof.Claims.chainsStep : Prop :=
  ∀ (s u : State) (n : Nat) (r : ChRead) (peer : BitVec 8) (h : Chain), s.chains.find? (fun h => h.id == n && h.result.isNone) = some h →
    let st := chStep h.desc h.k
    let kind := chKind st
    let len := if kind = 0 then chSize st else if kind = 2 then 16 else 8
    let ea := h.base + chOff st
    let a := s.canon h.core ea
    let hops := h.hops + chHops h.place (s.owner h a)
    let now := fun (t u : State) (p : Chain → Prop) => (∃ x, x ∈ t.chains ∧ x.id = n ∧ p x) ∧ t.chains.filter (fun x => x.id != n) = u.chains.filter (fun x => x.id != n)
    let ends := fun (status xkind hp : Nat) (x : Chain) => x.result = some (chHeader status h.k xkind hp h.base, [])
    let legal := addrOk (isSup h.core) ea = true ∧ ea.toNat / 2 ^ 60 ∉ [3, 15] ∧ ea.toNat % len = 0
    (¬ legal → ∃ t, exec (.chainStep n peer) s = .next t ∧ t.mem = s.mem ∧ now t s (ends 0x10 0 h.hops)) ∧
    (legal → 255 < hops → ∃ t, exec (.chainStep n peer) s = .next t ∧ t.mem = s.mem ∧ now t s (ends 14 0 hops)) ∧
    (legal → hops ≤ 255 → ∀ f, s.chAccess h a len peer = .bad u f →
      ∃ t, exec (.chainStep n peer) s = .next t ∧ t.mem = s.mem ∧ t.slots = s.slots ∧ now t u (ends (chFault f).1 (chFault f).2 hops)) ∧
    (legal → hops ≤ 255 → s.chAccess h a len peer = .ok (u, r) →
      let stops := fun (status : Nat) => ∃ t, exec (.chainStep n peer) s = .next t ∧ t.mem = s.mem ∧ t.slots = s.slots ∧ now t u (ends status 0 hops)
      let goes := fun (p : Chain → Prop) => ∃ t, exec (.chainStep n peer) s = .next t ∧ t.mem = u.mem ∧ t.slots = u.slots ∧ now t u p
      (s.chGone h = true → stops 8) ∧ (s.chGone h = false → r.bad = true → stops 7) ∧
      (s.chGone h = false → r.bad = false →
        (kind = 0 → goes fun x => x.result = some (chHeader 0 h.k 0 hops h.base, items8 r.v (len / 8))) ∧
        (kind ∈ [1, 3] →
          let keep := fld st 16 6
          let v := if keep = 0 then r.v else r.v % 2 ^ keep
          (v = 0 → stops 8) ∧
          (v ≠ 0 → goes fun x => x.result = none ∧ x.k = h.k + 1 ∧ x.hops = hops ∧
            x.base = w64 (if bit st 26 then putFld v 60 4 (fld st 22 4) else v))) ∧
        (kind = 2 → ∀ e, u.liveStatus h.ctx (BitVec.ofNat 128 r.v) = 0 → nmClass (BitVec.ofNat 128 r.v) ∈ [2, 4, 6, 7] →
          u.entry (nmSerial (BitVec.ofNat 128 r.v)) = some e → e.value ≠ 0 → goes fun x => x.result = none ∧ x.k = h.k + 1 ∧ x.base = e.value)))

/-- A result at its slot: the return block takes data from +16, then the header's upper word, then the word with done; a stream register still
bound to the chain takes the header's two words and the data after its items, as the last. The chain is over. -/
def Sys2Proof.Claims.chainsReturn : Prop :=
  ∀ (s : State) (n : Nat) (h : Chain) (hd : BitVec 128) (data : List W64), s.chains.find? (fun h => h.id == n) = some h → h.result = some (hd, data) →
    h.g < Config.slots → (s.slot h.g).state = .running →
    let st := chStep h.desc ((chEnd h.desc).getD 0)
    let x := s.slot h.g
    let q := chQ st
    (chStream st = false → s.ckHold (localKey h.core (chDest st)) = false) →
    ∃ t, exec (.chainReturn n) s = .next t ∧ t.chains = s.chains.filter (fun k => k.id != n) ∧ (t.slot h.g).pc = x.pc ∧
      (∀ r, (t.slot h.g).s r = x.s r) ∧
      (chStream st = false →
        let k := localKey h.core (chDest st)
        (t.slot h.g).q = x.q ∧ ∀ j, t.mem.get 0 j =
          if k ≤ j ∧ j < k + 16 then BitVec.ofNat 8 (hd.toNat / 256 ^ (j - k))
          else if k + 16 ≤ j ∧ j < k + 16 + 8 * data.length then BitVec.ofNat 8 ((data.getD ((j - k - 16) / 8) 0).toNat / 256 ^ ((j - k - 16) % 8))
          else s.mem.get 0 j) ∧
      (chStream st = true → t.mem = s.mem ∧ ∀ i, (t.slot h.g).st i =
        if i = q ∧ (x.st q).src = some (.chain n) then
          { x.st q with items := (x.st q).items ++ [w64 (hd.toNat % 2 ^ 64), w64 (hd.toNat / 2 ^ 64)] ++ data, last := true }
        else x.st i)

/-- CHLD, the steps of a chain and its return. Completes: chld, chainStep, chainReturn. -/
def Obligations.ChainedLoads : Prop := chainsStart ∧ chainsStep ∧ chainsReturn

/-- YIELD, END, SPAWN, SEND, RECV, SETPRIO and TASKNAME. Completes: yield, endTask, spawn, send, recv, setprio, taskname. -/
def Obligations.TaskWords : Prop := tasksLeave ∧ spawnsSent ∧ messagesSent ∧ messagesTaken ∧ priorities ∧ taskNames

/-! Commands and the copy engine (R27 to R32, R142 to R170) -/

/-- The push check: the first failing step of R30, 0 where none fails; step 6 is spelled out for the commands of one word. -/
def Sys2Proof.Claims.pushChecks : Prop :=
  ∀ (w n : Nat) (eng : Eng),
    let at_ := fun (hi lo : Nat) => w / 2 ^ lo % 2 ^ (hi + 1 - lo)
    let op := at_ 7 0
    let known := (1 ≤ op ∧ op ≤ 8) ∨ (0x20 ≤ op ∧ op ≤ 0x27)
    let owner := if op < 0x20 then 0 else 1
    let mine := if eng = .copy then 0 else 1
    let words := if op ∈ [1, 2, 3, 4, 5, 0x22, 0x24] then 2 else 1
    let head := known ∧ at_ 11 8 = owner ∧ owner = mine ∧ n + 1 = words
    let clean := at_ 23 19 = 0 ∧ at_ 18 16 < 6
    let step := pushCheck w eng n
    let free := fun (b hi lo : Nat) => at_ b b = 1 ∨ at_ hi lo = 0
    let planes := fun (f p : Nat) => (f, p) ∈ [(0, 1), (1, 1), (2, 2), (3, 3), (4, 4), (5, 4), (6, 6), (7, 8), (8, 8), (9, 12), (10, 16)] ∨
      11 ≤ f ∧ f ≤ 19 ∧ 2 ≤ p ∧ p ≤ 32
    let six := fun (o : Nat) (fine : Prop) => head → clean → op = o → (fine → step = 0) ∧ (¬ fine → step = 6)
    (¬ known → step = 1) ∧ (known → at_ 11 8 ≠ owner → step = 2) ∧ (known → at_ 11 8 = owner → owner ≠ mine → step = 3) ∧
    (known → at_ 11 8 = owner → owner = mine → n + 1 ≠ words → step = 4) ∧ (head → ¬ clean → step = 5) ∧
    (head → clean → step = 0 ∨ step = 6) ∧
    six 6 (at_ 12 12 = 0 ∧ at_ 15 14 = 0 ∧ at_ 127 96 ≠ 0 ∧ free 13 194 192 ∧ at_ 255 195 = 0) ∧
    six 7 (at_ 15 12 = 0 ∧ at_ 127 96 % 64 = 0 ∧ at_ 159 128 % 64 = 0 ∧ at_ 159 128 ≠ 0 ∧ at_ 127 96 + at_ 159 128 ≤ 2 ^ 29 ∧ at_ 255 160 = 0) ∧
    six 8 (at_ 15 13 = 0 ∧ free 12 95 32 ∧ at_ 255 96 = 0) ∧
    six 0x20 (at_ 15 12 = 0 ∧ planes (at_ 100 96) (at_ 111 106) ∧ planes (at_ 105 101) (at_ 117 112) ∧
      (at_ 118 118 = 1 → at_ 100 96 ≤ 10 ∧ at_ 105 101 ≤ 10) ∧ at_ 255 119 = 0) ∧
    six 0x23 (at_ 15 12 = 0 ∧ 1 ≤ at_ 38 32 ∧ at_ 38 32 ≤ 64 ∧ 1 ≤ at_ 46 39 ∧ at_ 46 39 ≤ 128 ∧ at_ 63 48 = 0 ∧ at_ 95 64 ≠ 0 ∧ at_ 127 96 = 0 ∧
      at_ 191 128 ≠ 0 ∧ at_ 255 192 = 0) ∧
    six 0x25 (at_ 15 13 = 0 ∧ at_ 225 224 ≠ 3 ∧ at_ 231 226 = 0 ∧ at_ 255 232 % 4 = 0) ∧
    six 0x26 (at_ 15 12 = 0 ∧ at_ 255 224 = 0) ∧
    six 0x27 (at_ 15 12 = 0 ∧ at_ 223 160 ≠ 0 ∧ at_ 255 224 = 0)

/-- CMDQ of a command that passes the push check enters the queue with the next number of its series, if it has room, and the restart point
passes the word; with chk, s7 takes the number, or all ones where there is no room; else the slot is HELD
and waits its turn. A command that fails the check is CMDFAULT at the word. -/
def Sys2Proof.Claims.commandsPushed : Prop :=
  ∀ (s : State) (vs : BitVec 4) (eng : Eng) (n chk : BitVec 1), (eng = .matrix → Has s 16) →
    let w : W512 := BitVec.ofNat 512 ((s.me.vr vs).toNat + if n = 1 then (s.me.vr (vs + 1)).toNat * 2 ^ 256 else 0)
    let c := coreOf s.cur
    let check := pushCheck w.toNat eng n.toNat
    let room := n.toNat + 1 ≤ (s.queue c eng).room
    let seq := (if eng = .copy then s.me.cpNum else s.me.mxNum) + 1
    (check ≠ 0 → exec (.cmdq vs eng n chk) s = .next (s.freeze s.cur ⟨0x0B, w64 (check + bits w.toNat 31 24 * 2 ^ 8), 0⟩)) ∧
    (check = 0 → Quiet s → room → ∃ t k, exec (.cmdq vs eng n chk) s = .next t ∧ t.mem = s.mem ∧
      (t.queue c eng).cmds = (s.queue c eng).cmds ++ [k] ∧ k.w = w ∧ k.two = (n == 1) ∧ k.g = s.cur ∧ k.seq = seq ∧ k.ctx = s.me.ctx ∧ k.retire = false ∧
      k.phase = .fresh ∧ (∀ g, g ≠ s.cur → t.slot g = s.slot g) ∧ t.me.pc = s.me.pc + 4 ∧ t.me.rstpc = s.me.pc + 4 ∧
      (if eng = .copy then t.me.cpNum = seq ∧ t.me.mxNum = s.me.mxNum else t.me.mxNum = seq ∧ t.me.cpNum = s.me.cpNum) ∧
      (∀ r, t.me.s r = if chk = 1 ∧ r = 7 then seq else s.me.s r) ∧ t.me.v = s.me.v) ∧
    (check = 0 → Quiet s → chk = 1 → ¬ room → ∃ t, exec (.cmdq vs eng n chk) s = .next t ∧ WordDone s t 7 (w64 (2 ^ 64 - 1))) ∧
    (check = 0 → Quiet s → chk = 0 → ¬ room → ∃ t, exec (.cmdq vs eng n chk) s = .next t ∧ t.mem = s.mem ∧
      (t.queue c eng).cmds = (s.queue c eng).cmds ∧ t.me.state = .held ∧ t.me.hold = .room eng ∧ t.me.pc = s.me.pc ∧ t.me.heldSince = s.cycle)

/-- The push that has waited longest, once it has room: its command enters the queue and its slot runs on behind its CMDQ. -/
def Sys2Proof.Claims.waitingPushes : Prop :=
  ∀ (s : State) (c k n : Nat) (w : W512) (eng : Eng) (rest : List (Nat × Nat × W512)), s.queueing c eng = (k, n, w) :: rest → k < 4 →
    n ≤ (s.queue c eng).room → (s.slot (4 * c + k)).preempting = false → (s.core c).quarantined = false → s.paused c = false →
    (eng = .matrix → (s.cluster (clusterOf c)).matrixQuarantined = false) →
    ∃ t q, exec (.cmdqPush c eng) s = .next t ∧ t.mem = s.mem ∧ (t.queue c eng).cmds = (s.queue c eng).cmds ++ [q] ∧ q.w = w ∧ q.g = 4 * c + k ∧
      q.phase = .fresh ∧ (t.slot (4 * c + k)).state = .running ∧ (t.slot (4 * c + k)).pc = (s.slot (4 * c + k)).pc + 4 ∧
      (t.slot (4 * c + k)).rstpc = (s.slot (4 * c + k)).pc + 4 ∧ (∀ x ∈ (t.queue c eng).waiters, x.1 ≠ k) ∧
      ∀ g, g ≠ 4 * c + k → t.slot g = s.slot g

/-- The head of core `c`'s copy queue is `k`, of opcode `op`, and may move. -/
def Sys2Proof.Claims.CopyHead (s : State) (c op : Nat) (k : Cmd) : Prop :=
  s.head c .copy = some k ∧ k.op = op ∧ k.retire = false ∧ s.cutting c = false

/-- The head of the queue stands at phase `p`; it is the same command. -/
def Sys2Proof.Claims.HeadAt (t : State) (c : Nat) (eng : Eng) (k : Cmd) (p : Phase) : Prop :=
  ∃ q, t.head c eng = some q ∧ q.phase = p ∧ q.w = k.w ∧ q.seq = k.seq ∧ q.g = k.g ∧ q.ctx = k.ctx ∧ q.retire = k.retire

/-- A copy command, of any of the eight, begins when its turn has come: its body moves from its first piece on, CSEQ is done, a CPYS binds its
register and feeds it, a stage copy waits for its stage. No byte moves yet. -/
def Sys2Proof.Claims.copiesBegin : Prop :=
  ∀ (s : State) (c : Nat) (k : Cmd),
    let starts := fun (i : Instr) (op : Nat) (p : Phase) => CopyHead s c op k → k.phase = .fresh → s.mayBegin c .copy k = true →
      ∃ t, exec i s = .next t ∧ t.mem = s.mem ∧ HeadAt t c .copy k p
    let flagFine := k.fl = true → flagOk k.flag = true
    let stage := s.stage c k.stageIx
    (flagFine → k.stg = false →
      starts (.cpy c) 1 (.moving 0 0) ∧ starts (.fill c) 6 (.moving 0 0) ∧
      ((k.a 96).toNat % 64 = 0 → tagOf (k.a 96) ≠ 5 → starts (.pack c) 3 (.moving 0 0))) ∧
    (flagFine → (k.a 96).toNat % (if bit k.w.toNat 14 then 8 else 4) = 0 → starts (.gath c) 4 (.moving 0 0) ∧ starts (.scat c) 5 (.moving 0 0)) ∧
    (flagFine → (k.a 32).toNat % 64 = 0 → tagOf (k.a 32) ≠ 5 → (s.die (dieOf c)).wsRead = false → (s.die (dieOf c)).wsWant = none →
      starts (.wload c) 7 (.moving 0 0)) ∧
    (flagFine → starts (.cseq c) 8 (.ran none)) ∧
    (k.stg = true → stage.reg = true → tagOf stage.base ≠ 5 → starts (.cpy c) 1 .staging ∧ starts (.pack c) 3 .staging ∧ starts (.fill c) 6 .staging) ∧
    (s.cpysWaits c k = false → (k.str 256).toNat % 8 = 0 → starts (.cpys c) 2 (.feeding 0 0))

/-- A stage copy whose stage is out of use goes on where its body stays within the stage's region, and else ends with PERM. -/
def Sys2Proof.Claims.stageCopiesBegin : Prop :=
  ∀ (s : State) (c : Nat) (k : Cmd), s.head c .copy = some k → k.phase = .staging → k.retire = false → k.op ∈ [1, 6] →
    let t := s.stage c k.stageIx
    let d : Int := (s.canon c k.dst).toNat
    let b : Int := (s.canon c t.base).toNat
    t.inuse = 0 → (k.fl = true → flagOk k.flag = true) →
    ∃ u, exec (.stageCopyBegin c) s = .next u ∧ u.mem = s.mem ∧
      HeadAt u c .copy k (if b ≤ d + k.extent.1 ∧ d + k.extent.2 ≤ b + t.size then .moving 0 0 else .ran (some (k.error 0x10 0 5)))

/-- A place at which a command may write `n` bytes of one line, outside the slot pages. -/
def Sys2Proof.Claims.WritesAt (u w : State) (c : Nat) (k : Cmd) (ea : W64) (n key : Nat) : Prop :=
  u.access k.g k.ctx (u.protSet (clusterOf c) k.ctx) ea n .write 6 = .ok (w, key) ∧ (tagOf (u.canon c ea) = 2 → lOff (u.canon c ea) < 0x27000)

/-- The pieces of CPY, FILL and WLOAD: CPY moves the bytes of a row up to the end of the destination's line from source to destination, FILL
writes its pattern's byte a mod 8 at address a, WLOAD puts a line into the weight store; each goes on at its next piece or ends. -/
def Sys2Proof.Claims.linesMove : Prop :=
  ∀ (s u w : State) (c i o key v : Nat) (k : Cmd), k.phase = .moving i o →
    (CopyHead s c 1 k →
      let n0 := k.f 191 160
      let i1 := w64 (i % k.f 207 192)
      let i2 := w64 (i / k.f 207 192)
      let sa := k.a 32 + k.str 288 * i2 + k.str 256 * i1 + w64 o
      let da := k.a 96 + k.str 352 * i2 + k.str 320 * i1 + w64 o
      let m := min (n0 - o) (64 - da.toNat % 64)
      s.engRead c .copy k 5 2 sa m = (u, .ok (v, false)) → WritesAt u w c k da m key →
      ∃ t, exec (.cpy c) s = .next t ∧ Stored w.mem t.mem key m v ∧
        HeadAt t c .copy k (if o + m < n0 then .moving i (o + m) else if i + 1 < k.f 207 192 * k.f 223 208 then .moving (i + 1) 0 else .ran none)) ∧
    (CopyHead s c 6 k →
      let da := k.a 32 + w64 o
      let m := min (k.f 127 96 - o) (64 - da.toNat % 64)
      WritesAt s w c k da m key →
      ∃ t, exec (.fill c) s = .next t ∧ HeadAt t c .copy k (if o + m < k.f 127 96 then .moving i (o + m) else .ran none) ∧
        ∀ j, t.mem.get 0 j = if key ≤ j ∧ j < key + m then BitVec.ofNat 8 ((k.a 128).toNat / 256 ^ ((da.toNat + (j - key)) % 8)) else w.mem.get 0 j) ∧
    (CopyHead s c 7 k →
      let off := k.f 127 96 + o
      s.wsFree (dieOf c) off (wsEngine c .copy) = true → s.ckHold (wsKey (dieOf c) off) = false → s.engRead c .copy k 5 2 (k.a 32 + w64 o) 64 = (u, .ok (v, false)) →
      ∃ t, exec (.wload c) s = .next t ∧ Stored u.mem t.mem (wsKey (dieOf c) off) 64 v ∧
        HeadAt t c .copy k (if o + 64 < k.f 159 128 then .moving i (o + 64) else .ran none))

/-- GATH and SCAT: element `i`, whose index word is read, is moved whole between its place base + index · stride and its place in the list. -/
def Sys2Proof.Claims.elementsMove : Prop :=
  ∀ (s u w : State) (c i o x : Nat) (k : Cmd), k.phase = .moving i o →
    let iw := if bit k.w.toNat 14 then 8 else 4
    let e := 2 ^ k.f 291 288
    let a := k.a 32 + w64 x * k.str 256
    let l := k.a 160 + w64 (i * e)
    s.engRead c .copy k 5 2 (k.a 96 + w64 (iw * i)) iw = (u, .ok (x, false)) → a.toNat % min e 8 = 0 → l.toNat % min e 8 = 0 →
    let next := if i + 1 < k.f 255 224 then Phase.moving (i + 1) 0 else .ran none
    (CopyHead s c 4 k → HeadAt w c .copy k k.phase → u.moveRun c k 6 7 10 a l e = (w, .ok none) →
      ∃ t, exec (.gath c) s = .next t ∧ t.mem = w.mem ∧ HeadAt t c .copy k next) ∧
    (CopyHead s c 5 k → HeadAt w c .copy k k.phase → u.moveRun c k 7 6 10 l a e = (w, .ok none) →
      ∃ t, exec (.scat c) s = .next t ∧ t.mem = w.mem ∧ HeadAt t c .copy k next)

/-- A run of bytes moved between two places of the core's own local memory that do not overlap: the destination holds the source's bytes and
nothing else has changed. -/
def Sys2Proof.Claims.runsMoveBytes : Prop :=
  ∀ (s : State) (c : Nat) (k : Cmd) (sop dop n : Nat) (sa da : W64), c < Config.cores → coreOf k.g = c → (s.cluster (clusterOf c)).fenced = false →
    sa.toNat + n ≤ 0x24000 → da.toNat + n ≤ 0x24000 → (sa.toNat + n ≤ da.toNat ∨ da.toNat + n ≤ sa.toNat) → n ≤ 512 → s.streaming = false →
    (∀ j, j < n → s.poisoned (localKey c sa.toNat + j) 1 = false) →
    ∃ t, s.moveRun c k sop dop 10 sa da n = (t, .ok none) ∧ Stored s.mem t.mem (localKey c da.toNat) n (s.nat (localKey c sa.toNat) n)

/-- PACK: plane block `b` whose rows are read and whose block is written. The header holds the shift of each row of A, or of the block of B;
plane `q` of row or column `i` holds at bit `x` bit `q` of its code at position `x`. -/
def Sys2Proof.Claims.blocksPacked : Prop :=
  ∀ (s u : State) (c b o : Nat) (k : Cmd) (rs : List (Option (Nat × Bool))), CopyHead s c 3 k → k.phase = .moving b o →
    let fmt := k.f 196 192
    let p := k.f 202 197
    let opb := bit k.w.toNat 14
    let rows := k.f 191 184
    let len := k.f 183 160
    let cw := container fmt
    let count := min 128 (len - 128 * b)
    let n := if opb then 128 else 64
    let row := fun (i : Nat) =>
      if opb then (if i < count then some (k.a 32 + w64 (128 * b + i) * k.str 256, (rows * cw + 7) / 8) else none)
      else if i < rows then some (k.a 32 + w64 i * k.str 256 + w64 (16 * cw * b), (count * cw + 7) / 8) else none
    let elems := fun (i m : Nat) => (List.range 128).map fun j => match rs.getD i none with
      | some (v, _) => if j < m then some (v / 2 ^ (cw * j) % 2 ^ cw) else none
      | none => none
    let packed := fun (i : Nat) => packBlock fmt p (if opb then (List.range 128).flatMap fun t => elems t rows else elems i count)
    let code := fun (i x : Nat) => if opb then (packed 0).2.getD (128 * x + i) 0 else (packed i).2.getD x 0
    s.packRows c k row n = (u, .ok rs) → p ≤ 32 →
    ∃ (bad : Nat → Bool) (ri : List RelInfo) (v : Nat),
      (∀ i, i < 64 → v / 256 ^ i % 256 = if opb then (if i = 0 then (packed 0).1 % 256 else 0) else (packed i).1 % 256) ∧
      (∀ q i x, q < p → i < n → x < 128 → v.testBit (512 + 128 * (n * q + i) + x) = (code i x).testBit q) ∧
      ∀ w, u.engWrite c .copy k bad ri (1 + 32 * p) 0 (k.a 96 + w64 (b * blockSize opb p)) (blockSize opb p) v = (w, .ok ()) →
        HeadAt w c .copy k k.phase →
        ∃ t, exec (.pack c) s = .next t ∧ t.mem = w.mem ∧ HeadAt t c .copy k (if 128 * (b + 1) < len then .moving (b + 1) 0 else .ran none)

/-- A CPYS that is bound feeds its register the next item while that has room; with its last item the binding has its last. -/
def Sys2Proof.Claims.itemsFed : Prop :=
  ∀ (s u : State) (c i j h v : Nat) (k : Cmd), s.head c .copy = some k → k.phase = .feeding i j → k.retire = false → s.cutting c = false →
    s.feeds c k = some h → h < Config.slots → (s.slot h).state ≠ .empty → (s.slot h).state ≠ .preempted →
    let q := k.f 145 144
    let ea := k.a 32 + k.str 256 * w64 i + w64 (8 * j)
    let rowEnd := 8 * (j + 1) = k.f 127 96
    let final := rowEnd ∧ i + 1 = k.f 143 128
    ((s.slot h).st q).items.length < 16 → ea.toNat % 8 = 0 → s.engRead c .copy k 5 1 ea 8 = (u, .ok (v, false)) → u.slot h = s.slot h →
    ∃ t, exec (.cpysItem c) s = .next t ∧ t.mem = u.mem ∧
      (t.slot h).st q = { (s.slot h).st q with items := ((s.slot h).st q).items ++ [w64 v], last := decide final } ∧
      (t.slot h).pc = (s.slot h).pc ∧ HeadAt t c .copy k (if final then .ran none else if rowEnd then .feeding (i + 1) 0 else .feeding i (j + 1))

/-- A copy command whose body is done: its flag is one up, its stage has a new generation, its completion sequence is written and it leaves the
queue; one that has failed writes CPERR and stops the queue. -/
def Sys2Proof.Claims.copiesEnd : Prop :=
  ∀ (s : State) (c : Nat) (k : Cmd), s.head c .copy = some k → k.retire = false → s.mayRelease c .copy k = true →
    (k.phase = .ran none → s.ckHold (pageKey k.g 0) = false → ∀ u, s.raiseFlag c k = (u, .ok ()) → u.head c .copy = some k →
      ∃ t, exec (.copyCommandComplete c) s = .next t ∧ Stored u.mem t.mem (pageKey k.g 0) 8 k.seq.toNat ∧
        (t.queue c .copy).cmds = (u.queue c .copy).cmds.drop 1 ∧
        (k.op ∈ [1, 3, 6] → k.stg = true → (s.stage c k.stageIx).kill = false → (u.core c).stages = (s.core c).stages →
          t.stage c k.stageIx = { s.stage c k.stageIx with gen := (s.stage c k.stageIx).gen + 1, filling := false })) ∧
    (k.fl = true → ∀ u key, s.engLine c .copy k k.flag 8 .rmw 2 = (u, .ok key) → u.poisoned key 8 = false →
      ∃ t, s.raiseFlag c k = (t, .ok ()) ∧ Stored u.mem t.mem key 8 (u.nat key 8 + 1)) ∧
    (k.fl = false → s.raiseFlag c k = (s, .ok ())) ∧
    ∀ e, k.phase = .ran (some e) → s.ckHold (pageKey k.g 0x18) = false → ∃ t, exec (.copyCommandComplete c) s = .next t ∧ Stored s.mem t.mem (pageKey k.g 0x18) 8 e.toNat ∧
      HeadAt t c .copy k .stopped

/-- A store of 0 to CPERR or MXERR that holds an error clears it, completes the failed command and lets the queue go on. -/
def Sys2Proof.Claims.errorsCleared : Prop :=
  ∀ (s : State) (g : Nat) (k : Cmd) (rest : List Cmd) (eng : Eng),
    let i := if eng = .copy then Instr.cperrClear g else Instr.mxerrClear g
    let err := pageKey g (if eng = .copy then 0x18 else 0x10)
    (s.queue (coreOf g) eng).cmds = k :: rest → k.g = g →
    (s.nat err 8 = 0 → exec i s = .next s) ∧
    (s.nat err 8 ≠ 0 → k.phase = .stopped → s.mayRelease (coreOf g) eng k = true → ∃ t m, exec i s = .next t ∧ Stored s.mem m err 8 0 ∧
      Stored m t.mem (pageKey g (if eng = .copy then 0 else 8)) 8 k.seq.toNat ∧ (t.queue (coreOf g) eng).cmds = rest)

/-- CMDQ and the pushes that wait. Completes: cmdq, cmdqPush. -/
def Obligations.CommandPushes : Prop := pushChecks ∧ commandsPushed ∧ waitingPushes

/-- Copy commands begin. Completes: cpy, cpys, pack, gath, scat, fill, wload, cseq, stageCopyBegin. -/
def Obligations.CopiesBegin : Prop := copiesBegin ∧ stageCopiesBegin

/-- Copies move their lines, elements, blocks and items, and end.
That a body moves its bytes in ascending order, one line, element or block at a time, is the model's choice (log entry 20; R156 leaves it open).
Completes: cpy, fill, wload, gath, scat, pack, cpysItem, copyCommandComplete,
cperrClear, mxerrClear. -/
def Obligations.CopiesRun : Prop := linesMove ∧ elementsMove ∧ runsMoveBytes ∧ itemsFed ∧ blocksPacked ∧ copiesEnd ∧ errorsCleared

/-! The matrix unit (R212 to R249) -/

/-- The head of core `c`'s matrix queue is `k`, of opcode `op`, its turn has come in a unit that is not quarantined, or, for a TNEW, whose cluster
is fenced, and what its end releases is visible (R4, R213, R214, R315, R344). -/
def Sys2Proof.Claims.MatHead (s : State) (c op : Nat) (k : Cmd) : Prop :=
  s.head c .matrix = some k ∧ k.op = op ∧ k.retire = false ∧ s.mayBegin c .matrix k = true ∧ (s.slot k.g).state ≠ .preempted ∧
  ((s.cluster (clusterOf c)).matrixQuarantined = false ∨ (s.cluster (clusterOf c)).fenced = true ∧ op = 0x23) ∧ (s.beginCmd c .matrix k).mayRelease c .matrix k = true ∧ s.ckHold (pageKey k.g 8) = false

/-- Memory `m'` is `m` after some stores in order. -/
def Sys2Proof.Claims.StoredAll (m m' : Tab Byte) : List (Nat × Nat × Nat) → Prop
  | [] => ∀ j, m'.get 0 j = m.get 0 j
  | p :: l => ∃ m1, Stored m m1 p.1 p.2.1 p.2.2 ∧ StoredAll m1 m' l

/-- The head of the matrix queue `k`, as `s` had it, is done: its completion sequence is written and it has left the queue. -/
def Sys2Proof.Claims.MatDone (s t : State) (c : Nat) (k : Cmd) : Prop :=
  Stored s.mem t.mem (pageKey k.g 8) 8 k.seq.toNat ∧ (t.queue c .matrix).cmds = (s.queue c .matrix).cmds.drop 1

/-- MCTX binds the context block it reads, where that agrees with the command; MSTG registers a stage that may be read, or clears one. -/
def Sys2Proof.Claims.contextsAndStages : Prop :=
  ∀ (s : State) (c : Nat) (k : Cmd),
    (MatHead s c 0x20 k → ∀ u b,
      (s.beginCmd c .matrix k).readFmt c k (k.a 32) (bits k.w.toNat 100 96 + bits k.w.toNat 105 101 * 2 ^ 5 + bits k.w.toNat 111 106 * 2 ^ 10 + bits k.w.toNat 117 112 * 2 ^ 16 +
        bits k.w.toNat 118 118 * 2 ^ 22) = (u, .ok (.ok b)) →
      u.mayRelease c .matrix k = true → u.ckHold (pageKey k.g 8) = false →
      (u.queue c .matrix).cmds.map (fun x => (x.seq, x.g)) = (s.queue c .matrix).cmds.map (fun x => (x.seq, x.g)) →
      ∃ t, exec (.mctx c) s = .next t ∧ MatDone u t c k ∧ (t.core c).fmt = some ⟨u.canon c (k.a 32), b, k.ctx, k.g, false⟩) ∧
    (MatHead s c 0x21 k →
      let i := k.f 34 32
      let t' : Stage := ⟨true, bit k.w.toNat 35, s.canon c (k.a 64), k.f 143 128, k.f 149 144, BitVec.ofNat 32 (k.f 191 160), BitVec.ofNat 16 (k.f 207 192),
        k.ctx, 0, false, false⟩
      let clr := bit k.w.toNat 36
      (s.stage c i).filling = false → (clr = false → s.regionOk c (k.a 64) t'.size = true) →
      ∃ t, exec (.mstg c) s = .next t ∧ MatDone s t c k ∧ t.stage c i = (if clr then Stage.reset else t') ∧ ∀ j, j ≠ i → t.stage c j = s.stage c j)

/-- The report of a tile command into own local memory: its parts in order, then the result word, then the completion sequence. A TREAD reports to
address 0 too, which asks for no report in the others (R240, R244). -/
def Sys2Proof.Claims.reportsWritten : Prop :=
  ∀ (s : State) (c : Nat) (k : Cmd) (rs : W64) (status : Nat) (parts : List (Nat × Nat × Nat × (Nat → Bool))), c < Config.cores → coreOf k.g = c →
    (s.cluster (clusterOf c)).fenced = false → s.head c .matrix = some k → rs.toNat % 8 = 0 → (rs = 0 → k.op = 0x25) → rs.toNat + 8 ≤ 0x24000 →
    s.mayRelease c .matrix k = true → s.streaming = false →
    (∀ p ∈ parts, rs.toNat + p.1 + p.2.1 ≤ 0x24000) →
    ∃ t m, s.report c k rs status parts = .ok t ∧
      StoredAll s.mem m (parts.map (fun p => (localKey c (rs.toNat + p.1), p.2.1, p.2.2.1)) ++
        [(localKey c rs.toNat, 8, status + bits k.w.toNat 31 24 * 2 ^ 16 + k.seq.toNat % 2 ^ 32 * 2 ^ 32)]) ∧
      Stored m t.mem (pageKey k.g 8) 8 k.seq.toNat ∧ (t.queue c .matrix).cmds = (s.queue c .matrix).cmds.drop 1

/-- TNEW makes an OPEN tile of its shape in its cluster's unit and reports OK and its name; in a fenced cluster it reports PERM, where tiles,
blocks or serials are used up FULL, and makes none. -/
def Sys2Proof.Claims.tilesMade : Prop :=
  ∀ (s u : State) (c : Nat) (k : Cmd), MatHead s c 0x23 k → (plainTag (k.a 128) || tagOf (k.a 128) == 8) = true →
    (s.beginCmd c .matrix k).checkRs c k (k.a 128) 32 32 = (u, .ok ()) →
    let cl := clusterOf c
    let made := u.newTile cl k.ctx (k.f 38 32) (k.f 46 39) (k.f 95 64) (bit k.w.toNat 47)
    (∀ v nm t, made = .ok (v, .ok nm) → v.report c k (k.a 128) 0 [(8, 8, 0, clean), (16, 16, nm.toNat, clean)] = .ok t →
      exec (.tnew c) s = .next t ∧
        (v.cluster cl).tiles = (u.cluster cl).tiles ++ [⟨nm, k.ctx, k.f 38 32, k.f 46 39, k.f 95 64, bit k.w.toNat 47, [], 0, 0, [], [], []⟩] ∧
        ∃ e ∈ v.names, e.name = nm ∧ e.cls = 1 ∧ e.ctx = k.ctx ∧ e.dying = false) ∧
    (∀ v st t, made = .ok (v, .error st) → v.report c k (k.a 128) st [(8, 8, 0, clean)] = .ok t →
      exec (.tnew c) s = .next t ∧ v.clusters = u.clusters ∧ st = if (u.cluster cl).fenced then 0x10 else 0x11)

/-- TSTAT reports the record of a tile its name resolves to; TABANDON sets about that tile's death. -/
def Sys2Proof.Claims.recordsReported : Prop :=
  ∀ (s u w : State) (c : Nat) (k : Cmd) (x : Tile),
    let rs := k.a 160
    let nm : W128 := BitVec.ofNat 128 (k.f 159 32)
    let s0 := s.beginCmd c .matrix k
    (if rs = 0 then u = s0 else s0.checkRs c k rs 64 128 = (u, .ok ())) → u.findTile (clusterOf c) k.ctx nm = (w, 0, some x) →
    (MatHead s c 0x27 k → ∀ t, w.report c k rs 0 [(8, 56, 0, clean), (64, 64, x.record x.state, clean)] = .ok t → exec (.tstat c) s = .next t) ∧
    (MatHead s c 0x26 k → exec (.tabandon c) s = .next (w.tileDies c k nm x 0))

/-- The death of a command's tile: tile and name are gone at once, and the command waits until every die that may cache the name has
acknowledged. Then TABANDON reports its record as ABANDONED, TREAD as RETIRED, and TFWD its status. -/
def Sys2Proof.Claims.tilesDie : Prop :=
  ∀ (s : State) (c : Nat) (k : Cmd) (x : Tile) (st : Nat), s.head c .matrix = some k →
    (∀ nm e, s.entry (nmSerial nm) = some e → e.name = nm → e.cls = 1 →
      let t := s.tileDies c k nm x st
      t.tile nm = none ∧ (∀ y ∈ t.names, y.name ≠ nm) ∧ t.mem = s.mem ∧ t.slots = s.slots ∧ HeadAt t c .matrix k (.dying s.nextId x st) ∧
      ∃ o ∈ t.nameOps, o.id = s.nextId ∧ o.status = some 0 ∧ ∀ d, d < 64 → e.sharers.getLsbD d = true →
        ∃ h ∈ t.shoots, h.die = d ∧ h.serial = nmSerial nm ∧ h.id ∈ o.acks) ∧
    ∀ n, k.phase = .dying n x st → k.retire = false → (∀ o ∈ s.nameOps, o.id = n → o.acks = []) →
      let gone : State := { s with nameOps := s.nameOps.filter fun o => o.id != n }
      (k.op = 0x26 → ∀ t, gone.report c k (k.a 160) st [(8, 56, 0, clean), (64, 64, x.record 2, clean)] = .ok t → exec (.tabandon c) s = .next t) ∧
      (k.op = 0x25 → ∀ t, gone.report c k (k.a 160) st [(64, 64, x.record 3, clean)] = .ok t → exec (.tread c) s = .next t) ∧
      (k.op = 0x24 → ∀ t, gone.report c k (k.a 64) st [] = .ok t → exec (.tfwd c) s = .next t)

/-- TREAD of a complete tile writes each of its rows, as FP32 or INT32, or rounded to BF16 or FP16, then its record; with retire its name dies
before that. -/
def Sys2Proof.Claims.tilesRead : Prop :=
  ∀ (s u w v y : State) (c : Nat) (k : Cmd) (x : Tile), MatHead s c 0x25 k →
    let rs := k.a 160
    let nm : W128 := BitVec.ofNat 128 (k.f 159 32)
    let fmt := k.f 225 224
    let es := if fmt = 0 then 4 else 2
    let pitch := if k.f 255 232 = 0 then x.n * es else k.f 255 232
    let ext := (x.m - 1) * pitch + x.n * es
    let retire := bit k.w.toNat 12
    let value := fun (e : W32) => if fmt = 0 ∨ x.int then e.toNat else flEnc (if fmt = 1 then fmtOf .bf16 else fmtOf .fp16) 0 (flDec fp32 e.toNat)
    (s.beginCmd c .matrix k).checkRs c k rs 64 128 = (u, .ok ()) → u.findTile (clusterOf c) k.ctx nm = (w, 0, some x) → x.frags = [(0, x.k)] →
    ¬ (x.int = true ∧ fmt ≠ 0) → x.n * es ≤ pitch → w.engCheck c k .write (ext / 64 + 2) (rs + 128) ext = (v, .ok ()) →
    let rows := (List.range x.m).map fun i => (128 + i * pitch, x.n * es, packN (8 * es) (fun j => value (x.elems.get 0 (128 * i + j))) x.n, clean)
    x.bad = [] → (v.tookTile c x).parts c k rs ((8, 56, 0, clean) :: rows) = (y, .ok ()) →
      (retire = true → exec (.tread c) s = .next (y.tileDies c k nm x 0)) ∧
      (retire = false → ∀ t, y.report c k rs 0 [(64, 64, x.record 1, clean)] = .ok t → exec (.tread c) s = .next t)

/-- TFWD of a complete tile of its own unit sends the tile as one contribution, its interval moved by the base; what comes back is reported,
and with drop the source dies first where the target holds the interval. -/
def Sys2Proof.Claims.tilesForwarded : Prop :=
  ∀ (s u w : State) (c : Nat) (k : Cmd) (x : Tile),
    let rs := k.a 64
    let src : W128 := BitVec.ofNat 128 (k.f 255 128)
    let dst : W128 := BitVec.ofNat 128 (k.f 383 256)
    let s0 := s.beginCmd c .matrix k
    (MatHead s c 0x24 k → (if rs = 0 then u = s0 else s0.checkRs c k rs 8 8 = (u, .ok ())) → u.findTile (clusterOf c) k.ctx src = (w, 0, some x) →
      nmCluster src = clusterOf c → x.frags = [(0, x.k)] → nmModule dst = s.durable.module.toNat → w.durable = s.durable → HeadAt w c .matrix k .fresh →
      ∃ t q, exec (.tfwd c) s = .next t ∧ t.mem = w.mem ∧ t.contribs = w.contribs ++ [q] ∧ q.core = c ∧ q.nm = dst ∧ q.ctx = k.ctx ∧ q.lo = k.f 63 32 ∧
        q.hi = k.f 63 32 + x.k ∧ q.m = x.m ∧ q.n = x.n ∧ q.int = x.int ∧ q.vals = x.elems ∧ q.status = none ∧ HeadAt t c .matrix k (.forwarding q.id)) ∧
    ∀ n q st, s.contribs.find? (fun q => q.id == n) = some q → q.status = some st → s.head q.core .matrix = some k → k.phase = .forwarding n →
      let gone : State := { s with contribs := s.contribs.filter fun r => r.id != n }
      let drop := bit k.w.toNat 12 = true ∧ st.toNat ≤ 2
      (drop → s.tile src = some x → exec (.tfwdStatusReturn n) s = .next (gone.tileDies q.core k src x st.toNat)) ∧
      (¬ drop → ∀ t, gone.report q.core k rs st.toNat [] = .ok t → exec (.tfwdStatusReturn n) s = .next t)

/-- A contribution at its tile: SHAPE, RANGE, DUP, OVERLAP, POISON and FRAGFULL in that order; else the fragments cover what they covered and the
interval, and nothing else (R235). -/
def Obligations.ContributionsDecided : Prop :=
  ∀ (x : Tile) (m n lo hi : Nat) (int poisoned : Bool), x.frags.Pairwise (fun a b => a.2 < b.1) → (∀ f ∈ x.frags, f.1 < f.2) →
    let covered := fun (l : List (Nat × Nat)) (p : Nat) => ∃ f ∈ l, f.1 ≤ p ∧ p < f.2
    let answer := x.decide m n int lo hi poisoned
    (m ≠ x.m ∨ n ≠ x.n ∨ int ≠ x.int → answer = .error 6) ∧
    (m = x.m → n = x.n → int = x.int →
      (hi ≤ lo ∨ x.k < hi → answer = .error 5) ∧
      (lo < hi → hi ≤ x.k →
        ((∀ p, lo ≤ p → p < hi → covered x.frags p) → answer = .error 2) ∧
        ((∃ p, lo ≤ p ∧ p < hi ∧ covered x.frags p) → (∃ p, lo ≤ p ∧ p < hi ∧ ¬ covered x.frags p) → answer = .error 3) ∧
        ((∀ p, lo ≤ p → p < hi → ¬ covered x.frags p) → (poisoned = true → answer = .error 7) ∧
          (poisoned = false → ∃ l : List (Nat × Nat), l.Pairwise (fun a b => a.2 < b.1) ∧ (∀ f ∈ l, f.1 < f.2) ∧
            (∀ p, covered l p ↔ covered x.frags p ∨ (lo ≤ p ∧ p < hi)) ∧ answer = if 6 < l.length then .error 4 else .ok l))))

/-- A forwarded contribution at the unit of a tile of this module, in its turn: the decision is its status; accepted, every element of the tile
takes the sum of what it held and the contribution, FP32 rounded once or INT32 clamped, and the accepted count is one up; refused, the refused
count. One for a module that is not reachable has PERM for its status, and one for another module a status that is decided there. -/
def Sys2Proof.Claims.contributionsArrive : Prop :=
  ∀ (s : State) (n : Nat) (q : Contrib), s.contribs.find? (fun q => q.id == n && q.status.isNone) = some q →
    s.settled q.obs = true → s.contribAhead q = false →
    let told := fun (u t : State) (st : Nat) => t.contribs = u.contribs.map fun r => if r.id = n then { r with status := some (BitVec.ofNat 8 st) } else r
    (nmModule q.nm ≠ s.durable.module.toNat → ∃ t st, exec (.contributionArrival n) s = .next t ∧ t.mem = s.mem ∧ t.clusters = s.clusters ∧ told s t st ∧
      (s.reachable (clusterOf q.core / 32) q.id (nmModule q.nm) = false → st = 0x10) ∧
      (s.reachable (clusterOf q.core / 32) q.id (nmModule q.nm) = true → st < 10)) ∧
    ∀ (u : State) (x : Tile), nmModule q.nm = s.durable.module.toNat → s.accHold (nmCluster q.nm) = false →
      s.findTile (nmCluster q.nm) q.ctx q.nm = (u, 0, some x) →
    let sum := fun (i : Nat) (e : W32) => if q.int then addInt e (q.vals.get 0 i).toInt else addFp e (q.vals.get 0 i)
    (∀ st, x.decide q.m q.n q.int q.lo q.hi q.poisoned = .error st → ∃ t, exec (.contributionArrival n) s = .next t ∧ t.mem = u.mem ∧ told u t st ∧
      t.tile q.nm = some { x with refused := bump x.refused }) ∧
    (∀ l, x.decide q.m q.n q.int q.lo q.hi q.poisoned = .ok l → x.m ≤ 64 → x.n ≤ 128 → ∃ t y, exec (.contributionArrival n) s = .next t ∧ t.mem = u.mem ∧
      told u t (if l = [(0, x.k)] then 1 else 0) ∧ t.tile q.nm = some y ∧ y.frags = l ∧ y.accepted = bump x.accepted ∧ y.refused = x.refused ∧ y.name = x.name ∧
      ∀ i j, i < x.m → j < x.n → y.elems.get 0 (128 * i + j) = sum (128 * i + j) (x.elems.get 0 (128 * i + j)))

/-- MPASS whose context, stages, tile, interval and rights are all in order is accepted: its stages are in use and its blocks are to pass. -/
def Sys2Proof.Claims.passesAccepted : Prop :=
  ∀ (s u w v : State) (c : Nat) (k : Cmd) (f : FmtCtx) (x : Tile), MatHead s c 0x22 k → (s.beginCmd c .matrix k).freshFmt c k = (u, .ok (.ok (some f))) → f.ctx = k.ctx →
    bit k.w.toNat 39 = false →
    let a := u.stage c (k.f 34 32)
    let b := u.stage c (k.f 37 35)
    let bws := bit k.w.toNat 38
    let fits := fun (y : Stage) (gen : Nat) (opb : Bool) (p : Nat) => y.reg = true ∧ y.filling = false ∧ y.gen.toNat = gen ∧ y.opb = opb ∧ y.planes = p
    fits a (k.f 63 48) false f.pa → (bws = false → fits b (k.f 79 64) true f.pb) →
    u.findTile (clusterOf c) k.ctx (BitVec.ofNat 128 (k.f 383 256)) = (w, 0, some x) → nmCluster (BitVec.ofNat 128 (k.f 383 256)) = clusterOf c →
    x.int = f.int → k.f 127 96 < k.f 159 128 → k.f 159 128 ≤ x.k → k.f 183 160 + (k.f 159 128 - k.f 127 96) ≤ a.nb * 128 →
    k.f 207 184 + (k.f 159 128 - k.f 127 96) ≤ (w.opndB c k f.pb).2.2 * 128 → w.rights c k f = (v, .ok none) →
    (v.core c).stages = (u.core c).stages → HeadAt v c .matrix k .fresh →
    ∃ t, exec (.mpass c) s = .next t ∧ t.mem = v.mem ∧
      HeadAt t c .matrix k (.passing ⟨0, (k.f 183 160 % 128 + (k.f 159 128 - k.f 127 96) + 127) / 128, [], [], false, 0, 0, v.skipBound c k f.q, false, [], [], false, false, false⟩) ∧
      t.stage c (k.f 34 32) = { a with inuse := a.inuse + 1 } ∧ (bws = false → t.stage c (k.f 37 35) = { b with inuse := b.inuse + 1 })

/-- The power of two with an exponent of any sign. -/
def Sys2Proof.Claims.pow2 (e : Int) : Rat := mkRat (2 ^ e.toNat) (2 ^ (-e).toNat)

/-- The value of an element of an integer format (R136). -/
def Sys2Proof.Claims.intElem (fmt x : Nat) : Int :=
  let n : Nat := [1, 1, 2, 3, 4, 4, 6, 8, 8, 12, 16].getD fmt 0
  let y : Int := ((x % 2 ^ n : Nat) : Int)
  if fmt ∈ [0, 5, 8] then y else if fmt = 1 then 2 * y - 1 else if 2 ^ (n - 1) ≤ y then y - 2 ^ n else y

/-- The value of an element of a floating format, none where it is a NaN or an infinity (R136, R138). -/
def Sys2Proof.Claims.floatElem (fmt x : Nat) : Option Rat :=
  let w : Nat := [1, 3, 2, 3, 2, 10, 7, 10, 23].getD (fmt - 11) 0
  let n : Nat := [2, 2, 3, 4, 5, 5, 8, 8, 8].getD (fmt - 11) 0
  let b : Nat := [1, 1, 3, 7, 15, 15, 127, 127, 127].getD (fmt - 11) 0
  let x := if fmt = 18 then x / 2 ^ 13 else x
  let m := x % 2 ^ w
  let e := x / 2 ^ w % 2 ^ n
  let sig : Int := if e = 0 then m else 2 ^ w + m
  if (fmt = 14 ∧ e = 15 ∧ m = 7) ∨ (15 ≤ fmt ∧ e = 2 ^ n - 1) then none
  else some (mkRat ((if x.testBit (w + n) then - sig else sig) * 2 ^ (max e 1)) (2 ^ (b + w)))

/-- packblock: the shift byte and the code of every element. An integer block has shift 0 and its values as codes, −128 where every value is zero,
or, for S1, where all of it is padding; a floating one has −127 where it holds a NaN or an infinity, −128 where it is zero, and else the shift that
its greatest exponent gives, each code the nearest integer, ties to even, within P bits (R146). -/
def Sys2Proof.Claims.elementsCoded : Prop :=
  ∀ (fmt p : Nat) (xs : List (Option Nat)), planesOk fmt p = true →
    let h : Nat := (packBlock fmt p xs).1
    let q : List Nat := (packBlock fmt p xs).2
    q.length = xs.length ∧
    (fmt ≤ 10 →
      let v : Option Nat → Int := fun o => match o with | some x => intElem fmt x | none => 0
      ((∀ o ∈ xs, v o = 0) → h = 0x80) ∧ ((∃ o ∈ xs, v o ≠ 0) → h = 0) ∧
      ∀ (i : Nat) (o : Option Nat), xs[i]? = some o → q[i]? = some (if fmt = 1 then (match o with | some x => x % 2 | none => 0) else (v o % 2 ^ p).toNat)) ∧
    (11 ≤ fmt →
      let v := fun (o : Option Nat) => match o with | some x => floatElem fmt x | none => some 0
      let zero := ∀ c ∈ q, c = 0
      ((∃ o ∈ xs, v o = none) → h = 0x81 ∧ zero) ∧
      ((∀ o ∈ xs, v o = some 0) → h = 0x80 ∧ zero) ∧
      ((∀ o ∈ xs, v o ≠ none) → (∃ o ∈ xs, v o ≠ some 0) → ∃ s emax : Int,
        (∃ o ∈ xs, ∃ z, v o = some z ∧ pow2 emax ≤ mag z) ∧ (∀ o ∈ xs, ∀ z, v o = some z → mag z < pow2 (emax + 1)) ∧
        s = max (-126) (min 127 (emax - (p - 2))) ∧ h = (s % 256).toNat ∧
        ∀ (i : Nat) (o : Option Nat) (z : Rat), xs[i]? = some o → v o = some z → ∃ n : Int,
          RoundedInt 0 (z / pow2 s) n ∧ q[i]? = some ((max (- 2 ^ (p - 1)) (min (2 ^ (p - 1) - 1) n) % 2 ^ p).toNat)))

/-- The codes that PACK lays out in planes are those that a pass reads from them: for A, 64 rows, four rows a line, and for B, 128 columns; and the
codes are those of the block's elements. -/
def Obligations.PackedCodesReadBack : Prop := elementsCoded ∧
  ∀ (fmt p i x : Nat) (rows : Bool) (codes : Array Nat), 1 ≤ p → p ≤ 32 → x < 128 → i < (if rows then 64 else 128) →
    let n := if rows then 64 else 128
    let index := fun (i x : Nat) => if rows then 128 * i + x else 128 * x + i
    let planes := planesOf n p codes index
    let lines := ((List.range (n / 4 * p)).map fun l => planes / 2 ^ (512 * l) % 2 ^ 512).toArray
    let code := codes.getD (index i x) 0
    codeAt fmt p (n / 4) lines i x = if planeKind fmt = 2 then 2 * ((code % 2 : Nat) : Int) - 1 else if planeKind fmt = 0 then ((code % 2 ^ p : Nat) : Int) else (BitVec.ofNat p code).toInt

/-- The code of an element from its planes, by their kind (R142). -/
def Sys2Proof.Claims.codeOf (kind p : Nat) (b : Nat → Bool) : Int :=
  let w := fun (j : Nat) => if b j then (2 : Int) ^ j else 0
  match kind with
  | 0 => ((List.range p).map w).sum
  | 1 => ((List.range (p - 1)).map w).sum - w (p - 1)
  | _ => if b 0 then 1 else -1

/-- A block of an MPASS that the skip list lets pass, with what its reads gave: every output takes the exact dot product of its row and column over
the positions of the interval, as it is in an INT32 tile, and in an FP32 tile rounded at the block's shifts, times the rounded product of its scales,
each time rounded to nearest, or NaN where a shift says so; a row without codes adds nothing, and an INT32 block must carry shift 0 (R221, R223, R224). -/
def Sys2Proof.Claims.blocksMultiply : Prop :=
  ∀ (s u v : State) (c : Nat) (k : Cmd) (f : FmtCtx) (r1 r : MpRun) (word : Option Bool),
    (if bit k.w.toNat 39 = true then s.skipItems c k f.q (r1.replay.length + 18) r1 else (s, r1, some true)) = (u, r, word) →
    (word = none → s.block c k f r1 = (u, .wait [])) ∧ (word = some false → s.block c k f r1 = (u, .skip { r with t := r.t + 1 })) ∧
    ∀ (x : Tile) (sA : Nat → Int) (sB : Int) (la lb sl : Array Nat) (sb : Nat) (bad : Bool), word = some true →
    s.tile k.tileName = some x → x.m ≤ 64 → x.n ≤ 128 → 1 ≤ f.pa → 1 ≤ f.pb →
    (∀ go skip, u.blockReads c k f r.t go skip = go v sA sB la lb sl sb bad) →
    let ka := k.f 183 160 % 128
    let inside := fun (p : Nat) => ka ≤ 128 * r.t + p ∧ 128 * r.t + p < ka + (k.f 159 128 - k.f 127 96)
    let kind := fun (fmt : Nat) => if fmt = 1 then 2 else if fmt ∈ [0, 5, 8] then 0 else 1
    let qA := fun (i p : Nat) => codeOf (kind (bits f.blk.toNat 4 0)) f.pa fun j => (la.getD (16 * j + i / 4) 0).testBit (128 * (i % 4) + p)
    let qB := fun (j p : Nat) => codeOf (kind (bits f.blk.toNat 9 5)) f.pb fun q => (lb.getD (32 * q + j / 4) 0).testBit (128 * (j % 4) + p)
    let dot := fun (i j : Nat) => ((List.range 128).map fun p => if inside p then qA i p * qB j p else 0).sum
    let mul := fun (a b : Nat) => flEnc fp32 0 (flMul (flDec fp32 a) (flDec fp32 b))
    (f.int = true → (sB ≠ 0 ∨ ∃ i, i < 64 ∧ sA i ≠ 0 ∧ sA i ≠ -128) → s.block c k f r1 = (v, .shape)) ∧
    ((f.int = true → sB = 0 ∧ ∀ i, i < 64 → sA i = 0 ∨ sA i = -128) → ∃ r', s.block c k f r1 = (v, .pass r') ∧ r'.t = r.t + 1 ∧
      r'.poisoned = (r.poisoned || bad) ∧ r'.begun = true ∧
      ∀ i j, i < x.m → j < x.n →
        let e := 128 * i + j
        (sA i = -128 → r'.fp.get 0 e = r.fp.get 0 e ∧ r'.int.get 0 e = r.int.get 0 e) ∧
        (sA i ≠ -128 → f.int = true → r'.int.get 0 e = r.int.get 0 e + dot i j) ∧
        (sA i ≠ -128 → f.int = false → ∃ p, r'.fp.get 0 e = addFp (r.fp.get 0 e) (BitVec.ofNat 32 p) ∧
          (sA i = -127 ∨ sB = -127 → p = flNan fp32) ∧
          (sA i ≠ -127 → sB ≠ -127 → ∃ a,
            (∀ z, flVal (.fin (decide (dot i j < 0)) (dot i j).natAbs (sA i + sB)) = some z → Rounded fp32 0 (decide (dot i j < 0)) z a) ∧
            p = mul a (mul (sl.getD (i / 16) 0 / 2 ^ (32 * (i % 16)) % 2 ^ 32) sb))))

/-- What an item marks: blocks to be skipped, then blocks to be passed (R222). -/
def Sys2Proof.Claims.marks (v : W64) : List Bool := List.replicate (v.toNat % 2 ^ 32) false ++ List.replicate (v.toNat / 2 ^ 32) true
/-- What the items that a run holds still mark. -/
def Sys2Proof.Claims.pending (r : MpRun) : List Bool := List.replicate r.skipLeft false ++ List.replicate r.runLeft true ++ r.replay.flatMap marks

/-- The skip list: the items' marks go to the blocks in their order; with none left the next item is taken from the register, awaited while there is
none, and every block passes once the binding has ended. A register that has not been bound yet is waited for: the model's reading (R222; log
entry 87). -/
def Sys2Proof.Claims.skipLists : Prop :=
  ∀ (s : State) (c : Nat) (k : Cmd) (q n : Nat) (r : MpRun), r.replay.length < n →
    let answers := fun (t : State) (b : Option Bool) (p : MpRun → Prop) => ∃ r', s.skipItems c k q n r = (t, r', b) ∧ r'.t = r.t ∧ r'.nt = r.nt ∧
      r'.fp = r.fp ∧ r'.int = r.int ∧ r'.poisoned = r.poisoned ∧ p r'
    let held := fun (r : MpRun) => r.kept ++ r.replay
    (∀ b rest, pending r = b :: rest → answers s (some b) fun r' => pending r' = rest ∧ held r' = held r ∧ r'.ended = r.ended) ∧
    (pending r = [] → r.ended = true → answers s (some true) fun r' => pending r' = [] ∧ held r' = held r ∧ r'.ended = true) ∧
    (pending r = [] → r.ended = false → r.replay = [] → bit k.w.toNat 39 = true →
      ∀ f h g y, (s.core c).fmt = some f → f.q = q → s.pusher c k = some h → s.holder h = some (g, y) →
        ((y.st q).items = [] → (y.st q).src ≠ none ∨ r.bound = false → s.skipItems c k q n r = (s, r, none)) ∧
        ((y.st q).items = [] → (y.st q).src = none → r.bound = true → answers s (some true) fun r' => r'.ended = true) ∧
        ∀ v l b rest, (y.st q).items = v :: l → marks v = b :: rest → 1 < n →
          answers (s.modHolder h fun x => x.modSt q (·.take 1)) (some b) fun r' => pending r' = rest ∧ held r' = held r ++ [v] ∧ r'.bound = true)

/-- The array, in its turn: a command whose blocks are all passed makes its offer; a granted block of an idle array asks for a permit; with that open
it passes, at pa·pb passes, and its core's virtual time grows by them over its share; with residues that differ the same grant is a mismatch. -/
def Sys2Proof.Claims.arrayGrants : Prop :=
  ∀ (s : State) (cl : Nat) (residueOk : Bool), (s.cluster cl).lastPass ≤ s.cycle → cl < Config.clusters → s.cutting (32 * cl) = false →
    (s.cluster cl).matrixQuarantined = false →
    (∀ i k r t, i < 32 → (∀ j, j < i → s.passed (32 * cl + j) = none) → s.passed (32 * cl + i) = some (k, r) → s.finishPass (32 * cl + i) k r = .ok t →
      exec (.arrayGrant cl residueOk) s = .next t) ∧
    ((∀ j, j < 32 → s.passed (32 * cl + j) = none) → s.finishes cl = (s, none)) ∧
    (∀ w t, s.finishes cl = (w, some t) → exec (.arrayGrant cl residueOk) s = .next t) ∧
    ∀ w u cs c k r f v r', s.finishes cl = (w, none) → w.eligible cl = (u, cs) → u.granted? cl cs = some c → u.running c = some (k, r) →
      (u.core c).fmt = some f → u.block c k f r = (v, .pass r') →
      (u.idleArray cl = true → (u.cluster cl).permitAsked = false → ∃ t, exec (.arrayGrant cl residueOk) s = .next t ∧ t.mem = u.mem ∧ t.cores = u.cores ∧
        (t.cluster cl).permitAsked = true ∧ (t.cluster cl).passes = (u.cluster cl).passes ∧ (t.die (cl / 32)).gov.asking = (u.die (cl / 32)).gov.asking ++ [cl]) ∧
      (u.idleArray cl = false →
        let n := f.pa * f.pb
        let slow := (u.die (cl / 32)).gov.throttled
        let granted := (v.modCluster cl fun x =>
          { x with passes := x.passes + w64 n, lastPass := u.cycle + u.passTime cl u.cycle n slow, passing := some (c, u.cycle, n, slow), rot := (c % 32 + 1) % 32 }).modCore c
          fun x => { x with vt := x.vt + (n : Rat) / (x.share.toNat : Rat) }
        (residueOk = false → exec (.arrayGrant cl residueOk) s = .next (granted.mismatch k.g 1 k.ctx)) ∧
        (residueOk = true → exec (.arrayGrant cl residueOk) s = .next (granted.phase c .matrix (.passing r')) ∧
          (v.clusters = u.clusters → HeadAt v c .matrix k k.phase → ∃ t, exec (.arrayGrant cl residueOk) s = .next t ∧ t.mem = v.mem ∧
            HeadAt t c .matrix k (.passing r') ∧ (t.cluster cl).passes = (u.cluster cl).passes + w64 (f.pa * f.pb) ∧ (t.cluster cl).rot = (c % 32 + 1) % 32 ∧
            u.cycle ≤ (t.cluster cl).lastPass ∧
            (t.core c).vt = (v.core c).vt + ((f.pa * f.pb : Nat) : Rat) / ((v.core c).share.toNat : Rat))))

/-- The offer of a finished MPASS: the tile of its context decides on the interval, the stages fall out of use, and the outcome is written. -/
def Sys2Proof.Claims.offersMade : Prop :=
  ∀ (s u : State) (c : Nat) (k : Cmd) (r : MpRun) (f : FmtCtx) (x : Tile), (s.core c).fmt = some f →
    s.settled (s.queue c .matrix).obs = true → s.accHold (clusterOf c) = false →
    (s.modCore c fun y => { y with eligible := false }).findTile (clusterOf c) k.ctx k.tileName = (u, 0, some x) →
    let sum := fun (i : Nat) (e : W32) => if f.int then addInt e (r.int.get 0 i) else addFp e (r.fp.get 0 i)
    let took := x.take x.m x.n f.int (k.f 127 96) (k.f 159 128) r.poisoned sum (s.queue c .matrix).obs
    s.finishPass c k r = (((u.modTile (nmCluster k.tileName) k.tileName fun _ => took.1).releaseStages c k).endPass c k took.2 (if r.replayed then 0x12 else 0))

/-- The array is idle after 512 cycles without a pass; the oldest request for a start permit is granted one interval after the last; a held
MPASS is replayed from its first block with the items it had consumed. -/
def Sys2Proof.Claims.arrayEvents : Prop :=
  ∀ s : State,
    (∀ cl, (s.cluster cl).lastPass + 512 ≤ s.cycle → exec (.arrayIdle cl) s = .next (s.modCluster cl fun x => { x with arrayIdle := true })) ∧
    (∀ d cl rest, let g := (s.die d).gov
      g.asking = cl :: rest → g.throttled = false → (∀ t, g.lastPermit = some t → t + g.interval ≤ s.cycle) →
      ∃ t, exec (.startPermitGrant d) s = .next t ∧ t.mem = s.mem ∧ t.slots = s.slots ∧ t.cores = s.cores ∧ (t.die d).gov.asking = rest ∧
        (t.die d).gov.permits = g.permits + 1 ∧ (t.die d).gov.lastPermit = some s.cycle ∧ (t.cluster cl).arrayIdle = false ∧
        (t.cluster cl).permitAsked = false ∧ (t.cluster cl).rampStart = s.cycle) ∧
    ∀ c k r, s.head c .matrix = some k → k.phase = .replay r → k.retire = false → (s.slot k.g).state ≠ .preempted →
      ∃ t, exec (.mpassReplay c) s = .next t ∧ t.mem = s.mem ∧ t.slots = s.slots ∧
        HeadAt t c .matrix k (.passing ⟨0, r.nt, [], [], false, 0, 0, r.bound, r.ended, [], r.kept ++ r.replay, true, false, false⟩)

/-- MCTX, MSTG and MPASS. Completes: mctx, mstg, mpass. -/
def Obligations.MatrixSetup : Prop := contextsAndStages ∧ passesAccepted

/-- The tile commands.
That a tile is free at its name's death, before the shoot-down is acknowledged, is the model's choice (log entry 14).
Completes: tnew, tstat, tabandon, tread, tfwd, tfwdStatusReturn. -/
def Obligations.TileCommands : Prop := reportsWritten ∧ tilesMade ∧ recordsReported ∧ tilesRead ∧ tilesForwarded ∧ tilesDie

/-- The pass array, its arithmetic and its skip lists, and contributions that arrive.
That a skip-list register which is not bound yet is waited for (log entry 87), and which slots a mismatch freezes (log entry 24), is the model's choice.
Completes: arrayGrant, contributionArrival, arrayIdle, startPermitGrant, mpassReplay. -/
def Obligations.PassArray : Prop := blocksMultiply ∧ skipLists ∧ arrayGrants ∧ offersMade ∧ arrayEvents ∧ contributionsArrive

/-! The services of a die (R77 to R87, R132 to R135, R361) -/

/-- Die `d` stands as `y` and nothing else has changed. -/
def Sys2Proof.Claims.OnlyDie (s t : State) (d : Nat) (y : Die) : Prop :=
  ({ t with dies := s.dies } : State) = s ∧ t.die d = y ∧ ∀ k, k ≠ d → t.die k = s.die k

/-- TCINV starts one invalidation at a time; when it is done, the entries of the context (or of all) that cover the page (or any) are gone and
every other one stays. That the page is the one TCVA names at the end is the model's choice (log entry 68). -/
def Sys2Proof.Claims.translationsInvalidated : Prop :=
  ∀ (s : State) (d : Nat) (v : W64), d < Config.dies →
    let x := s.die d
    (v.toNat < 2 ^ 18 → x.tcinv = none → ∃ t, exec (.tcinv d v) s = .next t ∧ OnlyDie s t d { x with tcinv := some v }) ∧
    (x.tcinv ≠ none ∨ 2 ^ 18 ≤ v.toNat → exec (.tcinv d v) s = .next s) ∧
    (x.tcinv = some v → ∃ t y, exec (.tcinvDone d) s = .next t ∧ OnlyDie s t d y ∧ y = { x with tcinv := none, tc := y.tc } ∧
      ∀ e, e ∈ y.tc ↔ e ∈ x.tc ∧ ¬ ((bit v.toNat 16 = true ∨ e.ctx.toNat = v.toNat % 2 ^ 16) ∧
        (bit v.toNat 17 = true ∨ e.va ≤ x.tcva.toNat ∧ x.tcva.toNat < e.va + e.size)))

/-- The walk of R75, level by level: which entry is read, what ends it and with which kind, and what it comes to. -/
def Sys2Proof.Claims.walkLevels : Prop :=
  ∀ (m : Tab Byte) (va t lvl : Nat), va < 2 ^ 52 → 1 ≤ lvl → lvl ≤ 4 →
    let index := if lvl = 4 then va / 2 ^ 39 else if lvl = 3 then va / 2 ^ 30 % 512 else if lvl = 2 then va / 2 ^ 21 % 512 else va / 2 ^ 16 % 32
    let at_ := t + 8 * index
    let e := memNat m (rimKey at_) 8
    let pa := e / 2 ^ 8 % 2 ^ 40 * 2 ^ 8
    let malformed := e / 2 ^ 7 % 2 = 1 ∨ e / 2 ^ 48 ≠ 0 ∨ 2 ^ 41 ≤ pa ∨ 0xC00000000 ≤ pa % 2 ^ 36
    let size := if lvl = 2 then 2 ^ 21 else 2 ^ 16
    let next := if lvl = 4 then 2 ^ 12 else if lvl = 3 then 2 ^ 12 else 2 ^ 8
    let r := walkFrom m (fun _ => false) va lvl t
    (e % 2 = 0 → r = .error (3, lvl)) ∧
    (e % 2 = 1 → malformed → r = .error (6, lvl)) ∧
    (e % 2 = 1 → ¬ malformed → e / 2 % 2 = 1 → (2 < lvl ∨ pa % size ≠ 0 → r = .error (6, lvl)) ∧ (lvl ≤ 2 → pa % size = 0 → r = .ok (at_, e, lvl))) ∧
    (e % 2 = 1 → ¬ malformed → e / 2 % 2 = 0 → (lvl = 1 ∨ pa % next ≠ 0 → r = .error (6, lvl)) ∧
      (2 ≤ lvl → pa % next = 0 → r = walkFrom m (fun _ => false) va (lvl - 1) pa))

/-- A translation at die `d`'s home. One that the cache holds is the page's frame and the offset in the page; else the tables are walked from the context's
root, a walk is counted, the leaf's accessed bit and, for a write, its dirty bit are set, and the leaf is kept; a failure touches no memory (R71, R75 to R77). -/
def Sys2Proof.Claims.pagesTranslated : Prop :=
  ∀ (s : State) (d : Nat) (ctx : BitVec 16) (va : Nat) (kind : Kind), va < 2 ^ 52 → s.poison = [] →
    let desc := rimKey ((s.die d).ctxtab.toNat + 64 * ctx.toNat)
    let wr := kind = .write ∨ kind = .rmw
    let w := walkFrom s.mem (fun _ => false) va 4 (s.nat desc 8 / 2 ^ 8 % 2 ^ 40 * 2 ^ 8)
    let fails := fun (e : Nat × Nat) => ∃ t, s.translate d ctx va kind = (t, .error e) ∧ t.mem = s.mem
    (∀ x, s.tcHit d ctx va kind = some x → x.ctx = ctx ∧ x.va ≤ va ∧ va < x.va + x.size ∧ (wr → x.dirty = true) ∧
      ((wr → x.w = true) → (kind = .fetch → x.x = true) → s.translate d ctx va kind = (s, .ok (x.pa + (va - x.va))))) ∧
    (s.tcHit d ctx va kind = none →
      (s.nat desc 8 % 2 = 0 → fails (2, 4)) ∧
      (s.nat desc 8 % 2 = 1 → (∀ e, w = .error e → fails e) ∧
        ∀ at_ e lvl, w = .ok (at_, e, lvl) →
          (wr → e / 2 ^ 2 % 2 = 0 → fails (4, lvl)) ∧ (kind = .fetch → e / 2 ^ 3 % 2 = 0 → fails (5, lvl)) ∧
          ((wr → e / 2 ^ 2 % 2 = 1) → (kind = .fetch → e / 2 ^ 3 % 2 = 1) →
            let size := if lvl = 2 then 2 ^ 21 else 2 ^ 16
            let pa := e / 2 ^ 8 % 2 ^ 40 * 2 ^ 8
            ∃ t x, s.translate d ctx va kind = (t, .ok (pa + va % size)) ∧ Stored s.mem t.mem (rimKey at_) 8 (e ||| 16 ||| (if kind = .write ∨ kind = .rmw then 32 else 0)) ∧
              (t.die d).walkcnt = (s.die d).walkcnt + 1 ∧ x ∈ (t.die d).tc ∧ x.ctx = ctx ∧ x.va = va / size * size ∧ x.pa = pa ∧ x.size = size)))

/-- A cluster finds a region's home in its cache, or reads the descriptor, the top entry and the leaf entry and keeps what it finds; where one of them is not
valid there is no home, and nothing is kept (R72, R73). -/
def Sys2Proof.Claims.regionsFound : Prop :=
  ∀ (s : State) (cl : Nat) (ctx : BitVec 16) (va : Nat), va < 2 ^ 52 → s.poison = [] → s.miss = false →
    let desc := rimKey ((s.die (cl / 32)).ctxtab.toNat + 64 * ctx.toNat)
    let mine := fun (e : RhEntry) => e.ctx = ctx ∧ e.region = va / 2 ^ 21
    let top := s.nat (rimKey (s.nat (desc + 8) 8 / 2 ^ 8 % 2 ^ 40 * 2 ^ 8 + 8 * (va / 2 ^ 37))) 8
    let leaf := s.nat (rimKey (top / 2 ^ 8 % 2 ^ 40 * 2 ^ 8 + 2 * (va / 2 ^ 21 % 2 ^ 16))) 2
    let there := s.nat desc 8 % 2 = 1 ∧ s.nat (desc + 8) 8 % 2 = 1 ∧ top % 2 = 1 ∧ leaf / 2 ^ 15 = 1
    (∀ e, (s.cluster cl).rhcache.find? (fun e => e.ctx == ctx && e.region == va / 2 ^ 21) = some e → s.regionHome cl ctx va = (s, .ok e.home)) ∧
    ((∀ e ∈ (s.cluster cl).rhcache, ¬ mine e) → (¬ there → s.regionHome cl ctx va = (s, .error .none)) ∧
      (there → ∃ t, s.regionHome cl ctx va = (t, .ok (leaf / 2 ^ 5 % 2 ^ 6)) ∧ t.mem = s.mem ∧ ∃ e ∈ (t.cluster cl).rhcache, mine e ∧ e.home = leaf / 2 ^ 5 % 2 ^ 6))

/-- RHREQ starts one move of a home at a time. HAND_OVER: DUP where the leaf entry names this die, FULL where the forwarding table is, else the
region is forwarded to the die that the entry names, its translations are dropped, no entry for it is left there and its barriers' names
move with it. RETIRE: DUP without a forwarding entry, else it is gone, after the region's entry in every cluster. -/
def Sys2Proof.Claims.homesMoved : Prop :=
  ∀ (s : State) (d : Nat) (v : W64), d < Config.dies →
    let x := s.die d
    let region := v.toNat / 2 ^ 21 % 2 ^ 31
    let ctx : BitVec 16 := BitVec.ofNat 16 v.toNat
    let mine := fun (f : Fwd) => f.ctx == ctx && f.region == region
    let begins := fun (i : Instr) => v.toNat / 2 ^ 17 % 2 ^ 4 = 0 → v.toNat < 2 ^ 52 →
      (x.rhreq = none → ∃ t, exec i s = .next t ∧ OnlyDie s t d { x with rhreq := some v, rhdone := false }) ∧ (x.rhreq ≠ none → exec i s = .next s)
    let ended := fun (st : BitVec 8) (y : Die) => { y with rhreq := none, rhstat := st, rhdone := true }
    (bit v.toNat 16 = false → begins (.rhreqHandOver d v)) ∧ (bit v.toNat 16 = true → begins (.rhreqRetire d v)) ∧
    (x.rhreq = some v → bit v.toNat 16 = false → (∀ m ∈ x.migs, ¬ (m.ctx = ctx ∧ m.va / 2 ^ 21 = region)) →
      (s.leafHome d ctx region = some d → ∃ t, exec (.handOverComplete d) s = .next t ∧ OnlyDie s t d (ended 2 x)) ∧
      (s.leafHome d ctx region ≠ some d → 256 ≤ x.fwd.length → ∃ t, exec (.handOverComplete d) s = .next t ∧ OnlyDie s t d (ended 0x11 x)) ∧
      (s.leafHome d ctx region ≠ some d → x.fwd.length < 256 → ∃ t, exec (.handOverComplete d) s = .next t ∧ t.mem = s.mem ∧ t.slots = s.slots ∧
        (∃ y, t.die d = ended 0 y ∧ y = { x with tc := y.tc, fwd := y.fwd } ∧ y.tc = x.tc.filter (fun e => ! (e.ctx == ctx && e.va / 2 ^ 21 == region)) ∧
          y.fwd = x.fwd.filter (fun f => ! mine f) ++ [⟨ctx, region, s.leafHome d ctx region⟩]) ∧
        ∀ h, s.leafHome d ctx region = some h → (∀ f ∈ (t.die h).fwd, mine f = false) ∧
          ∀ e ∈ s.names, e.cls = 2 → (∃ b ∈ s.barriers, b.name = e.name ∧ b.ctx = ctx ∧ b.line ≠ 0 ∧ b.line.toNat / 2 ^ 21 % 2 ^ 31 = region) →
            { e with home := 32 * h } ∈ t.names)) ∧
    (x.rhreq = some v → bit v.toNat 16 = true →
      (x.fwd.any mine = false → ∃ t, exec (.retireComplete d) s = .next t ∧ OnlyDie s t d (ended 2 x)) ∧
      (x.fwd.any mine = true → ∃ t, exec (.retireComplete d) s = .next t ∧ t.mem = s.mem ∧ t.slots = s.slots ∧
        t.die d = ended 0 { x with fwd := x.fwd.filter (fun f => ! mine f) } ∧
        ∀ cl, (t.cluster cl).rhcache = (s.cluster cl).rhcache.filter (fun r => ! (r.ctx == ctx && r.region == region))))

/-- MIGREQ: a page of another home, a request against the rules or on a pinned page, a fifth migration and a page without its leaf are refused in
the record, in that order, the last as an abort, with the target free; any other begins. That a refusal records source 0 and freed 0, and where the
walk counts, is the model's choice (log entries 37 and 84). -/
def Sys2Proof.Claims.migrationsBegin : Prop :=
  ∀ (s : State) (d : Nat) (v : W64) (leaf : Option (Nat × Nat)), d < Config.dies → v.toNat % 32 = 0 → v.toNat < 2 ^ 48 →
    let r := s.nat (rimKey v.toNat) 32
    let ctx : BitVec 16 := BitVec.ofNat 16 r
    let big := bit r 16
    let va := r / 2 ^ 64 % 2 ^ 64
    let pa := r / 2 ^ 128 % 2 ^ 64
    let to_ := r / 2 ^ 192
    let size := if big then 2 ^ 21 else 2 ^ 16
    s.ckHold (rimKey to_) = false → leaf = (match s.walk d ctx va with
      | .ok (at_, e, lvl) => if lvl = (if big then 2 else 1) then some (at_, e) else none
      | .error _ => none) →
    let src := match leaf with | some (_, e) => e / 2 ^ 8 % 2 ^ 40 * 256 | none => 0
    let moved := (s.forward d ctx va).isSome = true ∨ s.leafHome d ctx (va / 2 ^ 21 % 2 ^ 31) ≠ some d
    let bad := r / 2 ^ 17 % 2 ^ 47 ≠ 0 ∨ 2 ^ 52 ≤ va ∨ va % size ≠ 0 ∨ pa % size ≠ 0 ∨ 2 ^ 48 ≤ pa ∨ unpopulated pa = true ∨
      ∃ at_ e, leaf = some (at_, e) ∧ bit e 6 = true
    let walked : Die := { s.die d with walkcnt := (s.die d).walkcnt + 1 }
    let told := fun (st : Nat) => ∃ t, exec (.migreq d v) s = .next t ∧ Stored s.mem t.mem (rimKey to_) 16 (st + if st = 13 then 2 ^ 8 else 0) ∧
      (∀ k, k ≠ d → t.die k = s.die k) ∧
      t.die d = if st = 10 then s.die d else walked
    (moved → told 10) ∧ (¬ moved → bad → told 0x10) ∧ (¬ moved → ¬ bad → 4 ≤ (s.die d).migs.length → told 0x11) ∧
    (¬ moved → ¬ bad → (s.die d).migs.length < 4 → leaf = none → told 13) ∧
    ∀ at_ e, ¬ moved → ¬ bad → (s.die d).migs.length < 4 → leaf = some (at_, e) →
      ∃ t x, exec (.migreq d v) s = .next t ∧ OnlyDie { s with nextId := s.nextId + 1 } t d { walked with migs := (s.die d).migs ++ [x] } ∧
        x = ⟨s.nextId, ctx, va, big, src, pa, to_, at_, e⟩

/-- A copy that is done: a changed entry aborts it, then a poisoned source, at which it stopped, with what was copied of the target zero and
the target free; else the target holds what the source
held, the entry names it, the page's translations are dropped, and the record says OK, with freed 0, the model's choice (log entry 37). -/
def Sys2Proof.Claims.migrationsEnd : Prop :=
  ∀ (s : State) (d n : Nat) (m : Mig), s.Inv → (s.die d).migs.find? (fun m => m.id == n) = some m →
    s.ckHold (rimKey m.dst) = false → s.ckHold (rimKey m.record) = false → s.ckHold (rimKey m.entryAt) = false →
    let size := if m.big then 2 ^ 21 else 2 ^ 16
    let k := rimKey m.src
    let k' := rimKey m.dst
    let within := fun (j : Nat) => k' ≤ j ∧ j < k' + size
    let poisoned := s.poison.find? fun p => decide (k / 64 ≤ p.1 ∧ p.1 < (k + size) / 64) && bit p.2.toNat 2
    let changed := s.nat (rimKey m.entryAt) 8 ≠ m.entry.toNat
    let gone := fun (t : State) => (t.die d).migs = (s.die d).migs.filter (fun y => y.id != n)
    let aborts := fun (st got : Nat) => ∃ t m', exec (.migrationCopyDone d n) s = .next t ∧ gone t ∧ (t.die d).tc = (s.die d).tc ∧
      (∀ j, m'.get 0 j = if k' ≤ j ∧ j < k' + got then 0 else s.mem.get 0 j) ∧ Stored m' t.mem (rimKey m.record) 16 (st + 2 ^ 8 + m.src * 2 ^ 64)
    (changed → aborts 13 size) ∧ (∀ p, ¬ changed → poisoned = some p → aborts 7 (64 * p.1 - k)) ∧
    (¬ changed → poisoned = none → ∃ t m1 m2, exec (.migrationCopyDone d n) s = .next t ∧ gone t ∧
      (∀ j, m1.get 0 j = if within j then s.mem.get 0 (k + (j - k')) else s.mem.get 0 j) ∧
      Stored m1 m2 (rimKey m.entryAt) 8 (putFld m.entry.toNat 8 40 (m.dst / 256)) ∧ Stored m2 t.mem (rimKey m.record) 16 (m.src * 2 ^ 64) ∧
      ∀ e, e ∈ (t.die d).tc ↔ e ∈ (s.die d).tc ∧ ¬ (e.ctx = m.ctx ∧ m.va ≤ e.va ∧ e.va < m.va + size))

/-- SMPCTL within its ranges restarts the count; SYSTAB makes the listed modules those of its table for accesses that begin after it, and once the
ports are trained a port is up only where its peer is listed: one whose peer is not goes down, what is on its way to peers keeping the old route, one that was
down for that comes up again. -/
def Sys2Proof.Claims.samplesAndTables : Prop :=
  ∀ (s : State) (d : Nat) (v : W64), d < Config.dies →
    let n := v.toNat
    let interval := n / 2 ^ 4 % 2 ^ 5
    let ring := n / 2 ^ 16 % 2 ^ 5
    let ok := n / 2 % 2 ^ 3 = 0 ∧ n / 2 ^ 9 % 2 ^ 7 = 0 ∧ n < 2 ^ 21 ∧ 4 ≤ interval ∧ interval ≤ 20 ∧ 8 ≤ ring ∧ ring ≤ 24
    (ok → ∃ t, exec (.smpctl d v) s = .next t ∧ OnlyDie s t d { s.die d with smpctl := v, smpcount := 0 }) ∧
    (¬ ok → exec (.smpctl d v) s = .next s) ∧
    let old := (s.items.filter fun i => tagOf i.ea == 8).map (·.id)
    (n % 2 ^ 12 = 0 → n < 2 ^ 48 → ∃ t l, exec (.systab d v) s = .next t ∧ t.mem = s.mem ∧ t.slots = s.slots ∧
      t.die d = { s.die d with systab := v, modules := l, oldTables := (t.die d).oldTables } ∧
      (∀ i ∈ s.items, i.id < s.nextId → (t.die d).tableOf i.id = (s.die d).tableOf i.id) ∧
      ((∀ o ∈ (s.die d).oldTables, o.1 ≤ s.nextId) → ∀ id, s.nextId ≤ id → (t.die d).tableOf id = l) ∧
      (∀ id, id ∈ l ↔ ∃ i, i < 256 ∧ bit (s.nat (rimKey (n + 8 * i)) 8) 16 = true ∧ id.toNat = s.nat (rimKey (n + 8 * i)) 8 % 2 ^ 16) ∧
      (s.bringUp < 8 → t.links = s.links) ∧
      (8 ≤ s.bringUp → ∀ k,
        let x := s.link k
        (x.up = true → x.peer ∉ l → t.link k = { x with up := false, barred := true, want := none, oldRoute := old }) ∧
        (x.up = false → x.barred = true → x.peer ∈ l → t.link k = { x with up := true, barred := false }) ∧
        (x.up = true → x.barred = false → x.peer ∈ l → t.link k = x) ∧ (x.up = false → x.barred = false ∨ x.peer ∉ l → t.link k = x))) ∧
    (n % 2 ^ 12 ≠ 0 ∨ 2 ^ 48 ≤ n → exec (.systab d v) s = .next s)

/-- WSRIGHTS asks for one change of the weight store at a time; it takes effect once the WLOADs queued before it are done (READ), or once no
command or load may still read, and what has come to its group has been served (LOAD). -/
def Sys2Proof.Claims.weightRights : Prop :=
  ∀ (s : State) (d : Nat) (v : W64), d < Config.dies →
    let x := s.die d
    let asks := fun (i : Instr) => v.toNat / 2 % 2 ^ 15 = 0 → v.toNat < 2 ^ 32 →
      (x.wsWant = none → ∃ t, exec i s = .next t ∧ OnlyDie s t d { x with wsWant := some v, wsAhead := s.wloadsOf d }) ∧
      (x.wsWant ≠ none → exec i s = .next s)
    let changes := ∃ t, exec (.wsStateChange d) s = .next t ∧
      OnlyDie s t d { x with wsRead := bit v.toNat 0, wsCtx := BitVec.ofNat 16 (v.toNat / 2 ^ 16), wsWant := none, wsAhead := [] }
    (bit v.toNat 0 = true → asks (.wsrightsRead d v)) ∧ (bit v.toNat 0 = false → asks (.wsrightsLoad d v)) ∧
    (x.wsWant = some v → bit v.toNat 0 = true →
      ((∀ w ∈ s.wloadsOf d, w ∉ x.wsAhead) → changes) ∧ ((∃ w ∈ s.wloadsOf d, w ∈ x.wsAhead) → exec (.wsStateChange d) s = .next s)) ∧
    (x.wsWant = some v → bit v.toNat 0 = false →
      let reads := s.wsMatrix d = true ∨ (∃ h ∈ x.wsHeld, s.wsAsks h.1 = true) ∨ ∃ l ∈ s.loads, tagOf l.addr = 5 ∧ l.cluster / 32 = d ∧ l.reply = none
      (¬ reads → changes) ∧ (reads → exec (.wsStateChange d) s = .next s))

/-- A refresh window opens for the bank group whose turn it is, 30,000 cycles of every 3,000,000, and ends; a load that it held is counted as
a stall when it is performed. -/
def Sys2Proof.Claims.weightRefresh : Prop :=
  ∀ (s : State) (d : Nat), d < Config.dies →
    let x := s.die d
    let p := s.wsPhase d
    (p % 3000000 < 30000 → (∃ t, exec (.wsRefreshStart d) s = .next t ∧ OnlyDie s t d { x with wsOpen := some (p / 3000000) }) ∧
      exec (.wsRefreshEnd d) s = .next s) ∧
    (30000 ≤ p % 3000000 → exec (.wsRefreshStart d) s = .next s ∧ ∃ t, exec (.wsRefreshEnd d) s = .next t ∧ OnlyDie s t d { x with wsOpen := none }) ∧
    ∀ n l, s.loads.find? (fun l => l.id == n && l.reply.isNone && tagOf l.addr == 5) = some l → l.cluster / 32 = d →
      s.wsReadable d l.ctx (s.slot l.g).descs l.addr l.n = true → s.wsFree d (fld l.addr.toNat 0 29) n = true →
      ∃ t, exec (.weightStoreRequest n) s = .next t ∧ (∀ h ∈ (t.die d).wsHeld, h.1 ≠ n) ∧
        (t.die d).wsStalls = x.wsStalls + if x.wsHeld.any (fun h => h.1 == n) then 1 else 0

/-- TCINV, RHREQ, SMPCTL and SYSTAB.
That the page of an invalidation is the one TCVA names when it ends is the model's choice (log entry 68).
Completes: tcinv, tcinvDone, rhreqHandOver, handOverComplete, rhreqRetire, retireComplete, smpctl, systab. -/
def Obligations.HomeServices : Prop :=
  walkLevels ∧ pagesTranslated ∧ regionsFound ∧ translationsInvalidated ∧ homesMoved ∧ samplesAndTables

/-- MIGREQ and the end of a migration.
What a refusal records, and freed 0 after OK (log entry 37), and where the walk of a migration counts (log entry 84), is the model's choice.
Completes: migreq, migrationCopyDone. -/
def Obligations.PageMigration : Prop := migrationsBegin ∧ migrationsEnd

/-- The weight store's state and its refresh. Completes: wsrightsRead, wsrightsLoad, wsStateChange, wsRefreshStart, wsRefreshEnd, weightStoreRequest. -/
def Obligations.WeightStoreStates : Prop := weightRights ∧ weightRefresh

/-! Slot control and die debug (R322 to R338) -/

/-- Slot `g` stands as `y`; of the other slots, and of everything else but the record of a deadlock trap, nothing has changed. -/
def Sys2Proof.Claims.OnlySlot (s t : State) (g : Nat) (y : Slot) : Prop :=
  ({ t with slots := s.slots, trapped := s.trapped } : State) = s ∧ t.slot g = y ∧ ∀ k, k ≠ g → t.slot k = s.slot k

/-- Resume, restart and step: STATE of a slot that runs, holds or is EMPTY, INSPECT of one that froze at HALT. Another FROZEN slot runs on: from
its pc with its buffer as it stands; on a restart from the restart point without it; for a step, until its next instruction is done. -/
def Sys2Proof.Claims.slotsComeBack : Prop :=
  ∀ (s : State) (g : Nat), s.slotReach g = true →
    let x := s.slot g
    let told := fun (st : BitVec 3) => ∀ i, (i = .resume g ∨ i = .restart g ∨ i = .step g) → ∃ t, exec i s = .next t ∧ OnlySlot s t g (x.status st)
    let on := { x with woken := false, state := .running, hold := .none, descs := s.protSet (clusterOf (coreOf g)) x.ctx, sig := none, prevBlock := none }.status 0
    x.busy = false → x.packet = none →
    ((s.core (coreOf g)).quarantined = true ∨ x.state = .empty ∨ x.state = .running ∨ x.state = .held → told 1) ∧
    ((s.core (coreOf g)).quarantined = false → x.state = .frozen →
      (x.inspect = true → told 5) ∧
      (x.inspect = false → (∃ t, exec (.resume g) s = .next t ∧ OnlySlot s t g on) ∧
        (∃ t, exec (.restart g) s = .next t ∧ OnlySlot s t g { on with buf := [], through := false, pc := x.rstpc }) ∧
        ∃ t, exec (.step g) s = .next t ∧ OnlySlot s t g { on with stepping := true, stepDone := false, stepRep := (0, 0) }))

/-- A PREEMPTED slot whose items were not spilled, its context read without poison, comes back with the registers of its context area, RUNNING, at its pc or
its restart point. -/
def Sys2Proof.Claims.contextsRestored : Prop :=
  ∀ (s : State) (g : Nat), s.slotReach g = true →
    let x := s.slot g
    let c := fun (off n : Nat) => s.nat (ctxKey g + off) n
    x.busy = false → x.packet = none → (s.core (coreOf g)).quarantined = false → x.state = .preempted → x.spilled = false → s.restorePoisoned g = none →
    ∀ i p, (i = .resume g ∧ p = 0x38 ∨ i = .restart g ∧ p = 0x40) → ∃ t, exec i s = .next t ∧ t.mem = s.mem ∧ (∀ k, k ≠ g → t.slot k = s.slot k) ∧
      let y := t.slot g
      y.state = .running ∧ y.inspect = false ∧ y.cmdStatus = 0 ∧ y.pc.toNat = c p 8 % 2 ^ 48 ∧ y.rstpc.toNat = c 0x40 8 % 2 ^ 48 ∧ y.buf = x.buf ∧
      y.wb.toNat = c 0x48 8 % 2 ^ 7 ∧ y.res.toNat = c 0x48 8 / 2 ^ 7 % 2 ^ 7 ∧ y.fsp.toNat = c 0x50 8 ∧ y.fslim.toNat = c 0x58 8 ∧
      y.holdlim.toNat = c 0x60 8 ∧ y.prio.toNat = c 0x68 8 % 16 ∧ y.ctx.toNat = c 0x68 8 / 2 ^ 40 % 2 ^ 16 ∧ y.taskid.toNat = c 0x78 8 ∧
      (∀ r : BitVec 5, 1 ≤ r.toNat → r.toNat ≤ 7 → (y.s r).toNat = c (8 * (r.toNat - 1)) 8) ∧
      (∀ r : BitVec 4, (y.vr r).toNat = c (0x100 + 32 * r.toNat) 32) ∧ (∀ r, r < 8 → (y.mr r).toNat = c (0xC0 + 4 * r) 4) ∧
      ∀ k, k < 128 → (y.win.get 0 k).toNat = c (0x300 + 8 * k) 8

/-- Kill: STATE of an EMPTY slot; else at the next instruction boundary, and not before, the slot is EMPTY: what it had buffered or sent and not
performed is gone, its chains and its guard notes are over, a named task's name is to die with no
release and no slot waits for that, no step reports, no byte has changed. -/
def Sys2Proof.Claims.slotsKilled : Prop :=
  ∀ (s : State) (g : Nat), s.slotReach g = true →
    let x := s.slot g
    x.busy = false → x.packet = none →
    (x.state = .empty → ∃ t, exec (.kill g) s = .next t ∧ OnlySlot s t g (x.status 1)) ∧
    (x.state ≠ .empty → s.boundary g = false → exec (.kill g) s = .next s) ∧
    (x.state ≠ .empty → s.boundary g = true → ∃ t, exec (.kill g) s = .next t ∧ t.mem = s.mem ∧ (∀ k, k ≠ g → t.slot k = s.slot k) ∧
      (t.slot g).state = .empty ∧ (t.slot g).cmdStatus = 0 ∧ (t.slot g).buf = [] ∧ (t.slot g).q = [] ∧ (t.slot g).faults = x.faults ∧
      t.loads = s.loads.filter (fun l => l.g != g) ∧ t.out = s.out.filter (fun o => o.g != g) ∧ t.amos = s.amos.filter (fun a => a.g != g) ∧
      t.chains = s.chains.filter (fun h => h.g != g) ∧ t.notes = s.notes.filter (fun n => n.g != g) ∧ t.dies = s.dies ∧
      (x.named = false → t.nameOps = s.nameOps) ∧
      (x.named = true → ∃ op, t.nameOps = s.nameOps ++ [op] ∧ op.fn = .death ∧ op.nm = x.name ∧ op.ctx = x.ctx ∧ op.g = Config.slots ∧ op.order = .relaxed))

/-- Pre-empt: NOPRE, STATE and SPILL_FAULT as R330 orders them, else the slot is busy, the place of its items known; at its boundary its restart
point comes to stand at the pc, and with its segment so committed and no stream item to spill its context stands in its area and it is PREEMPTED
with status OK. -/
def Sys2Proof.Claims.slotsPreempted : Prop :=
  ∀ (s : State) (g : Nat), s.slotReach g = true →
    let x := s.slot g
    (x.busy = false → x.packet = none →
      let told := fun (u : State) (st : BitVec 3) => ∃ t, exec (.preEmpt g) s = .next t ∧ OnlySlot u t g ((u.slot g).status st)
      let begins := fun (u : State) (k : Option Nat) =>
        ∃ t, exec (.preEmpt g) s = .next t ∧ OnlySlot u t g { u.slot g with busy := true, preempting := true, spillAt := k }
      let v := s.modSlot g fun x => { x with spillAt := none }
      let runs := x.state = .running ∨ x.state = .held
      (x.npre = true → told s 2) ∧ (x.npre = false → ¬ runs → told s 1) ∧ (x.npre = false → runs → x.streams = false → begins v none) ∧
      (x.npre = false → runs → x.streams = true → (∀ u k, v.spillKey g = .ok (u, some k) → begins u (some k)) ∧
        ∀ u, v.spillKey g = .ok (u, none) → told u 3)) ∧
    (x.preempting = true → s.boundary g = true → s.loading g = false → s.storing g = false → x.mode = .none → x.buf = [] → x.streams = false →
      (x.stamped = false → ∃ t, exec (.preemptSave g) s = .next t ∧ t.mem = s.mem ∧ (∀ k, k ≠ g → t.slot k = s.slot k) ∧
        (t.slot g).rstpc = x.pc ∧ (t.slot g).pc = x.pc ∧ (t.slot g).state = x.state ∧ (t.slot g).stamped = true ∧ (t.slot g).preempting = true) ∧
      (x.stamped = true → s.ckHold (ctxKey g) = false → ∃ t, exec (.preemptSave g) s = .next t ∧
      (∀ k, k ≠ g → ({ t.slot k with q := (s.slot k).q } : Slot) = s.slot k) ∧
      (t.slot g).state = .preempted ∧ (t.slot g).cmdStatus = 0 ∧ (t.slot g).busy = false ∧ (t.slot g).preempting = false ∧
      (∀ j, (j < ctxKey g ∨ ctxKey g + 0x700 ≤ j) → t.mem.get 0 j = s.mem.get 0 j) ∧
      let c := fun (off n : Nat) => t.nat (ctxKey g + off) n
      c 0x38 8 = x.pc.toNat ∧ c 0x40 8 = x.rstpc.toNat ∧ c 0x48 8 = x.wb.toNat + x.res.toNat * 128 ∧ c 0x50 8 = x.fsp.toNat ∧ c 0x58 8 = x.fslim.toNat ∧
      c 0x60 8 = x.holdlim.toNat ∧ c 0x78 8 = x.taskid.toNat ∧ c 0xB8 8 = s.chainsOf g % 2 ^ 64 ∧
      (∀ r : BitVec 5, 1 ≤ r.toNat → r.toNat ≤ 7 → c (8 * (r.toNat - 1)) 8 = (x.s r).toNat) ∧
      (∀ r : BitVec 4, c (0x100 + 32 * r.toNat) 32 = (x.vr r).toNat) ∧ (∀ r, r < 8 → c (0xC0 + 4 * r) 4 = (x.mr r).toNat) ∧
      ∀ k, k < 128 → c (0x300 + 8 * k) 8 = (x.win.get 0 k).toNat))

/-- The view of a slot that is EMPTY, RUNNING or HELD ignores writes; of a FROZEN one it writes the register, dropped whole where the value breaks
the rules; of a PREEMPTED one it writes the context area, once a checkpoint has that streamed. -/
def Sys2Proof.Claims.viewsWritten : Prop :=
  ∀ (s : State) (g : Nat) (v : W64), s.slotReach g = true →
    let x := s.slot g
    (x.state = .empty ∨ x.state = .running ∨ x.state = .held → ∀ off n, exec (.slotView g off v n) s = .next s) ∧
    (x.state = .frozen →
      (∀ r : BitVec 5, 1 ≤ r.toNat → r.toNat ≤ 7 → ∃ t, exec (.slotView g (8 * (r.toNat - 1)) v 8) s = .next t ∧ t.mem = s.mem ∧
        (∀ k, k ≠ g → t.slot k = s.slot k) ∧ (t.slot g).state = .frozen ∧ (t.slot g).pc = x.pc ∧ (t.slot g).buf = x.buf ∧
        ∀ i : BitVec 5, i.toNat < 8 → (t.slot g).s i = if i = r then v else x.s i) ∧
      ∃ t, exec (.slotView g 0x38 v 8) s = .next t ∧ t.mem = s.mem ∧ (∀ k, k ≠ g → t.slot k = s.slot k) ∧ (t.slot g).rstpc = x.rstpc ∧
        (t.slot g).pc.toNat = if v.toNat % 4 = 0 ∧ v.toNat < 2 ^ 48 then v.toNat else x.pc.toNat) ∧
    (x.state = .preempted → s.ckHold (ctxKey g) = false → ∀ r, r < 7 → ∃ t, exec (.slotView g (8 * r) v 8) s = .next t ∧ t.slots = s.slots ∧
      Stored s.mem t.mem (ctxKey g + 8 * r) 8 v.toNat)

/-- The windows of a fenced cluster's slots: no command, no view, no ring word and no replay changes anything (R4). -/
def Sys2Proof.Claims.fencedSlots : Prop :=
  ∀ (s : State) (g w off n : Nat) (v : W64), (s.cluster (clusterOf (coreOf g))).fenced = true →
    ∀ i, i ∈ [Instr.resume g, .restart g, .step g, .kill g, .preEmpt g, .slotView g off v n, .rxring g w v, .grreplay g v] → exec i s = .next s

/-- The oldest held packet enters the ring once the ring takes it, its slot's mirror holds it and the slot's fault count, and a packet that a slot
kept takes its place; while the ring takes none, the packet stays where it is. -/
def Sys2Proof.Claims.packetsReleased : Prop :=
  ∀ (s : State) (d g : Nat) (p : W256) (rest : List (Nat × W256)), (s.die d).fqheld = (g, p) :: rest →
    (∀ u, s.ringWrite d g p = (u, false) → exec (.faultPacketRelease d) s = .next u) ∧
    ∀ u, s.ringWrite d g p = (u, true) → ∃ t, exec (.faultPacketRelease d) s = .next t ∧ t.mem = u.mem ∧
      (t.die d).fqsent = (s.die d).fqsent + 1 ∧
      (g < Config.slots → ∃ m m' : Tab Byte, Stored m m' (pageKey g 0x40) 32 p.toNat ∧ Stored m' t.mem (pageKey g 0x60) 8 (s.slot g).faults.toNat) ∧
      (u.keeper d = none → (t.die d).fqheld = rest ∧ t.slots = u.slots) ∧
      ∀ k q, u.keeper d = some (k, q) → (t.die d).fqheld = rest ++ [(k, q)] ∧ (t.slot k).packet = none ∧ ∀ j, j ≠ k → t.slot j = u.slot j

/-- DHALT stops the die and lets it go on; the time it was halted counts for no hold. TRSTAT's bit 9 clears frozen and triggered. -/
def Sys2Proof.Claims.haltsAndTraces : Prop :=
  ∀ (s : State) (d c : Nat),
    (d < Config.dies → (s.die d).halt = false → ∃ t, exec (.dhaltSet d) s = .next t ∧ OnlyDie s t d { s.die d with halt := true, haltSince := s.cycle }) ∧
    (d < Config.dies → (s.die d).halt = true → exec (.dhaltSet d) s = .next s ∧ ∃ t, exec (.dhaltClear d) s = .next t ∧ t.mem = s.mem ∧
      t.die d = { s.die d with halt := false } ∧ ∀ g, t.slot g =
        if (s.slot g).state = .held ∧ dieOf (coreOf g) = d then
          { s.slot g with heldSince := (s.slot g).heldSince + (s.cycle - max (s.die d).haltSince (s.slot g).heldSince) }
        else s.slot g) ∧
    (c < Config.cores → ∃ t, exec (.trstatClear c) s = .next t ∧ t.mem = s.mem ∧ t.slots = s.slots ∧
      (t.core c).trace = { (s.core c).trace with frozen := false, triggered := false, after := 0 } ∧ ∀ k, k ≠ c → t.core k = s.core k)

/-- CTXKILL of a context other than 0 begins, or waits in its turn; a write of 0 or with a reserved bit is dropped. With no slot of the context
left, its tiles, its names and its stitches are gone, the host is told, and the next kill begins. -/
def Sys2Proof.Claims.contextsKilled : Prop :=
  (∀ (s : State) (v : W64),
    let k : BitVec 16 × Nat × W64 := (BitVec.ofNat 16 v.toNat, 1, 0)
    (v.toNat = 0 ∨ 2 ^ 16 ≤ v.toNat → exec (.ctxkill v) s = .next s) ∧
    (0 < v.toNat → v.toNat < 2 ^ 16 → s.killing = none → exec (.ctxkill v) s = .next { s with killing := some k, lastKill := k.1 }) ∧
    (0 < v.toNat → v.toNat < 2 ^ 16 → s.killing ≠ none → exec (.ctxkill v) s = .next { s with killWaits := s.killWaits ++ [k] })) ∧
  ∀ (s : State) (ctx : BitVec 16) (info : Nat) (unit : W64), s.killing = some (ctx, info, unit) → s.recordRoom s.endPort = true →
    (∀ e ∈ s.slots, e.2.state = .empty ∨ e.2.ctx ≠ ctx) →
    ∃ t, exec .ctxkillComplete s = .next t ∧
      (t.port s.endPort).queue = (s.port s.endPort).queue ++ [hostRecord 2 0 ctx info (if info = 2 then unit.toNat + 2 ^ 63 else 0) 0] ∧
      (∀ cl, ∀ x ∈ (t.cluster cl).tiles, x.ctx ≠ ctx) ∧ (∀ cl, ∀ r ∈ (t.cluster cl).ready, stCtx r.st ≠ ctx) ∧
      (∀ k ∈ t.skeins, ∀ i ∈ k.items, stCtx i.st ≠ ctx) ∧ (∀ p ∈ t.parked, stCtx p.st ≠ ctx) ∧ (∀ n ∈ t.graph, n.ctx ≠ ctx) ∧
      (∀ e ∈ s.names, e.ctx = ctx → s.entry (nmSerial e.name) = some e → ∀ x ∈ t.names, x.name ≠ e.name) ∧
      (s.killWaits = [] → t.killing = none) ∧ ∀ k ks, s.killWaits = k :: ks → t.killing = some k ∧ t.killWaits = ks ∧ t.lastKill = k.1

/-- RESUME, RESTART, STEP, KILL, PRE_EMPT and the save of a pre-empt.
Completes: resume, restart, step, kill, preEmpt, preemptSave. -/
def Obligations.SlotCommands : Prop := slotsComeBack ∧ contextsRestored ∧ slotsKilled ∧ slotsPreempted

/-- Slot views, fenced slots, held packets, halt, trace, context kill.
Which accesses to a fenced cluster are refused is in part the model's choice (log entry 67).
Completes: slotView, faultPacketRelease, dhaltSet, dhaltClear, trstatClear, ctxkill,
ctxkillComplete. -/
def Obligations.DebugServices : Prop := viewsWritten ∧ fencedSlots ∧ packetsReleased ∧ haltsAndTraces ∧ contextsKilled

/-! Checkpoints and recovery (R345 to R347, R359, R360) -/

/-- HCKPT: PERM before the module is ready; the round that follows the last completed one begins, for the tier that HCKTIER names then; one that
follows the round under way waits; any other number, and a second one that would wait, is RANGE. -/
def Sys2Proof.Claims.roundsAsked : Prop :=
  ∀ (s : State) (p : Nat) (v : W64), s.portUp p = true → v.toNat < 2 ^ 32 → s.recordRoom p = true →
    let n := v.toNat
    let told := fun (st : Nat) => ∃ t, exec (.hckpt p v) s = .next t ∧ ({ t with ports := s.ports } : State) = s ∧
      (t.port p).queue = (s.port p).queue ++ [hostRecord 3 st 0 n 0 0] ∧ ∀ k, k ≠ p → t.port k = s.port k
    let round : CkRound := ⟨n, p, (s.port p).cktier.toNat, none⟩
    (s.bringUp < 9 → told 0x10) ∧
    (9 ≤ s.bringUp → s.ckRound = none → n ≠ (s.ckDone + 1) % 2 ^ 32 → told 5) ∧
    (9 ≤ s.bringUp → s.ckRound = none → n = (s.ckDone + 1) % 2 ^ 32 →
      exec (.hckpt p v) s = .next { s with ckRound := some round, ckRanges := [], ckWants := [] }) ∧
    ∀ q, 9 ≤ s.bringUp → s.ckRound = some q →
      (s.ckWaiting = none → n = (q.round + 1) % 2 ^ 32 → exec (.hckpt p v) s = .next { s with ckWaiting := some round }) ∧
      (s.ckWaiting ≠ none ∨ n ≠ (q.round + 1) % 2 ^ 32 → told 5)

/-- The start command reaches a die whose cut of this round is still to come; with the first of them the tier's descriptor is read, which is the
model's choice of when (log entry 88), and a descriptor in order names 1 to 32 listed modules. Markers: a die that stands still, its buffers handed
over, has its marker received; with the last one of all the cut is recorded: every begun copy from its start, every begun MPASS as held for replay,
and what goes on is the live state. -/
def Sys2Proof.Claims.cutsRecorded : Prop :=
  (∀ (s u : State) (va : Nat) (l : List Nat), s.tierList va = .ok (u, l) → l ≠ [] → l.length ≤ 32 ∧ (∀ t ∈ l, BitVec.ofNat 16 t ∈ (u.die 0).modules) ∧
    ∀ i t p, l[i]? = some t → p < 96 → p % l.length = i → t / 2 ^ 64 % 2 ^ 44 + (if p < 64 then 2 ^ 30 * p + 2 ^ 30 else 2 ^ 36 * (p - 63) + 48 * 2 ^ 30) < 2 ^ 44) ∧
  ∀ (s : State) (r : CkRound) (d i : Nat), s.ckRound = some r → d < Config.dies → i < Config.dies →
    (s.streaming = false → (s.die d).ckcut = false →
      (r.targets ≠ none → ∃ t, exec (.checkpointStart d) s = .next t ∧ OnlyDie s t d { s.die d with ckcut := true, ckmarked := [] }) ∧
      (∀ u l, r.targets = none → s.tierList r.tier = .ok (u, l) → ∃ t, exec (.checkpointStart d) s = .next t ∧
        OnlyDie { u with ckRound := some { r with targets := some l } } t d { u.die d with ckcut := true, ckmarked := [] })) ∧
    ((s.die d).ckcut = true → (s.die i).ckcut = true → i ∉ (s.die d).ckmarked →
      let u := s.commitDie i
      (u.still i = false → exec (.checkpointMarker d i) s = .next u) ∧
      (u.still i = true → ∃ w, OnlyDie u w d { u.die d with ckmarked := i :: (u.die d).ckmarked } ∧
        let all := ∀ e, e < 64 → (w.die e).ckcut = true ∧ (w.die e).ckmarked.length = 64 ∧ w.still e = true
        (¬ all → exec (.checkpointMarker d i) s = .next w) ∧
        (all → ∃ t m, exec (.checkpointMarker d i) s = .next t ∧ t.mem = u.mem ∧ t.slots = u.slots ∧ t.cores = u.cores ∧ t.cut = some m ∧
          m.mem = u.mem ∧ (∀ e, e < 64 → (t.die e).ckcut = false ∧ (t.die e).ckround = BitVec.ofNat 32 r.round ∧ (t.die e).ckstream = true) ∧
          ∀ c k, m.cores.get Core.reset c = k → ∀ cmd ∈ k.copyQ.cmds, cmd.phase = .stopped ∨ cmd.phase = .fresh)))

/-- The image: every byte of a core's local memory, of a rim stack and of a weight store lies in the aligned range of 2 MiB that its part and offset
give; so do accumulator and NSE SRAM and the units' recorded states; the parts of one image do not meet. -/
def Sys2Proof.Claims.imageLaidOut : Prop :=
  let range := fun (p off : Nat) => (if p < 64 then 512 * p else 32768 + 24576 * (p - 64)) + off / 2 ^ 21
  (∀ c off, c < Config.cores → off < 0x28000 → imageRange (localKey c off) = some (range (c / 1024) (0x28000 * (c % 1024) + off))) ∧
  (∀ k off, k < 32 → off < 48 * 2 ^ 30 → imageRange (rimKey (2 ^ 36 * k + off)) = some (range (64 + k) off)) ∧
  (∀ d off, d < Config.dies → off < 2 ^ 29 → imageRange (wsKey d off) = some (range d (0x12000000 + off))) ∧
  (∀ k off, k < Config.clusters → off < 2 ^ 22 → range (k / 32) (0x0A000000 + 2 ^ 22 * (k % 32) + off) ∈ accRanges k) ∧
  (∀ d off, d < Config.dies → off < 2 ^ 24 → range d (0x32000000 + off) ∈ nseRanges d) ∧
  (∀ d off, d < Config.dies → 0x33000000 ≤ off → off < 0x40000000 → range d off ∈ unitRanges d) ∧
  (∀ p q, p < q → q < 96 → partEnd p ≤ partStart q) ∧
  ∀ (s : State) (k r : Nat), imageRange k = some r → (s.ckHold k = true ↔ s.streaming = true ∧ r ∉ s.ckRanges)

/-- Streaming: each range of 2 MiB once, and the writes that wanted it want it no more; the first one takes the place of the earlier cuts whose bytes the
image meets (log entry 88); with all of them the round is complete and the tier holds its cut; a stream that fails is PERM. A round that waited begins
then, if it follows. -/
def Sys2Proof.Claims.cutsStreamed : Prop :=
  ∀ (s : State) (r : CkRound) (m : Mach) (l : List Nat), s.ckRound = some r → r.targets = some l → s.cut = some m → s.streaming = true →
    let place := fun (l : List Nat) (p : Nat) => (l.getD (p % l.length) 0 % 2 ^ 16, l.getD (p % l.length) 0 / 2 ^ 64 % 2 ^ 44 + partStart p)
    let meets := fun (k : List Nat) => ∃ p q, p < 96 ∧ q < 96 ∧ (place k p).1 = (place l q).1 ∧
      (place k p).2 < (place l q).2 + (partEnd q - partStart q) ∧ (place l q).2 < (place k p).2 + (partEnd p - partStart p)
    (∀ i, (i < 64 * 512 + 32 * 24576 → i ∉ s.ckRanges → l ≠ [] → ∃ t, exec (.checkpointRangeStreamed i) s = .next t ∧ t.mem = s.mem ∧ t.slots = s.slots ∧
        t.ckRanges = i :: s.ckRanges ∧ t.ckWants = s.ckWants.filter (fun k => k != i) ∧ (s.ckRanges ≠ [] → t.tier = s.tier) ∧
        (s.ckRanges = [] → ∀ e, e ∈ t.tier ↔ e ∈ s.tier ∧ ¬ meets e.targets)) ∧
      (64 * 512 + 32 * 24576 ≤ i ∨ i ∈ s.ckRanges ∨ l = [] → exec (.checkpointRangeStreamed i) s = .next s)) ∧
    ∀ ok : Bool, (ok = true → s.ckRanges.length = 64 * 512 + 32 * 24576) → (s.port r.port).queue.length < 256 → s.durable.pending = [] →
      let ends := fun (t : State) => t.mem = s.mem ∧ t.slots = s.slots ∧ t.cut = none ∧ (∀ d, d < 64 → (t.die d).ckstream = false) ∧
        (ok = true → t.ckDone = r.round ∧ t.tier = s.tier.filter (fun e => e.round != r.round) ++ [⟨r.round, l, m⟩]) ∧
        (ok = false → t.ckDone = s.ckDone ∧ t.tier = s.tier)
      let told := hostRecord 3 (if ok then 0 else 0x10) 0 r.round 0 0
      (s.ckWaiting = none → ∃ t, exec (.checkpointStreamDone ok) s = .next t ∧ ends t ∧ t.ckRound = none ∧
        (t.port r.port).queue = (s.port r.port).queue ++ [told]) ∧
      ∀ q, s.ckWaiting = some q → (∀ p, (s.port p).queue.length < 255) → ∃ t, exec (.checkpointStreamDone ok) s = .next t ∧ ends t ∧ t.ckWaiting = none ∧
        (q.round = (t.ckDone + 1) % 2 ^ 32 → t.ckRound = some q ∧ t.ckRanges = [] ∧ (t.port r.port).queue = (s.port r.port).queue ++ [told]) ∧
        (q.round ≠ (t.ckDone + 1) % 2 ^ 32 → t.ckRound = none ∧ hostRecord 3 5 0 q.round 0 0 ∈ (t.port q.port).queue)

/-- Recovery of a module that accepts work, with no fault ring on and every part of the cut within reach: every memory of the module, every slot and every
core stands as in the cut but for what the self-test and the quarantine took out of use since; host memory and what was written to the host stay, a
port keeps its rings and what waits for them and takes its aperture and tier from the cut; the serial counter does not go back, and a fresh block is
taken from it. A round under way and one that waited have failed (the model's choice, log entry 88). In another state of the module nothing happens. -/
def Sys2Proof.Claims.cutsRecovered : Prop :=
  ∀ (s : State) (n : Nat) (c : TierCut), s.Inv → s.tier.find? (fun t => t.round == n) = some c →
    (s.bringUp ≠ 9 ∨ s.durable.life ≠ .operational ∨ s.tierReach c = false → exec (.recovery n) s = .next s) ∧
    (s.bringUp = 9 → s.durable.life = .operational → s.tierReach c = true → (∀ d, d < 64 → bit (s.die d).fqctl.toNat 0 = false) →
    (∀ p, (s.port p).queue.length < 255) → s.durable.pending = [] → s.durable.serialCounter + 2 ^ 40 < 2 ^ 64 →
    let m := c.cut
    let lost := s.ckRound.toList ++ s.ckWaiting.toList
    ∃ t, exec (.recovery n) s = .next t ∧ (∀ j, t.mem.get 0 j = if isHostKey j = true then s.mem.get 0 j else m.mem.get 0 j) ∧ t.slots = m.slots ∧
      (∀ c, let k := m.cores.get Core.reset c
        ({ t.core c with quarantined := k.quarantined, feat := k.feat } : Core) = k ∧ (t.core c).quarantined = (s.core c).quarantined) ∧
      (∀ k, (t.cluster k).fenced = (s.cluster k).fenced ∧ (t.cluster k).matrixQuarantined = (s.cluster k).matrixQuarantined) ∧ t.names = m.names ∧
      (∀ p, p < Config.hostPorts → t.port p = { s.port p with
        apbase := (m.ports.get Port.reset p).apbase, cktier := (m.ports.get Port.reset p).cktier
        queue := (s.port p).queue ++ (lost.filter fun r => r.port == p).map fun r => hostRecord 3 0x10 0 r.round 0 0 }) ∧
      t.hostOut = s.hostOut ∧ t.ckDone = n ∧ t.ckRound = none ∧ t.ckWaiting = none ∧ t.bringUp = 9 ∧
      t.durable = { s.durable with serialCounter := s.durable.serialCounter + 2 ^ 40 } ∧ t.serialNext = s.durable.serialCounter ∧
      t.serialEnd = s.durable.serialCounter + 2 ^ 40 ∧ t.tier = s.tier)

/-- Rounds from their request to their end, the image, and recovery.
What a recovery keeps (log entry 49), that the states are recorded in one moment with every channel empty (log entry 50), when the tier descriptor is judged
(log entries 51 and 88) and that the fence and the quarantine stand (log entry 71) is the model's choice.
Completes: hckpt, checkpointStart, checkpointMarker, checkpointRangeStreamed,
checkpointStreamDone, recovery. -/
def Obligations.CheckpointRounds : Prop := roundsAsked ∧ cutsRecorded ∧ imageLaidOut ∧ cutsStreamed ∧ cutsRecovered

/-! The rail, the governor, module links (R106, R107, R348 to R351) -/

/-- The rail: the corrected error that takes an array past the threshold in its window raises the rail by 10 mV, to at most 520, and freezes it, as it
happens; every one counts. At the end of a window, with adapt on, nothing frozen and no array above a quarter of the threshold, the rail is lowered by
10 mV, to at least 400; else it stays; the counts of the arrays begin anew. A host write to RMFREEZE clears frozen. -/
def Sys2Proof.Claims.railSet : Prop :=
  ∀ (s : State) (d : Nat), d < Config.dies →
    let g := (s.die d).gov
    let thresh := g.rmctl.toNat / 2 ^ 8 % 2 ^ 16
    let stands := fun (t : State) (y : Governor) => OnlyDie s t d { s.die d with gov := y }
    let low := bit g.rmctl.toNat 0 = true ∧ g.frozen = false ∧ ∀ e ∈ g.counts, 4 * e.2 ≤ thresh
    let ends := fun (v : Nat) => ∃ t, exec (.railMonitorWindow d) s = .next t ∧ stands t { g with railWindow := g.railWindow + 1, counts := [], volt := v }
    (∀ a, let n := g.counts.get 0 a + 1
      let y : Governor := { g with ce := g.ce + 1, counts := g.counts.set 0 a n }
      (n = thresh + 1 → stands (s.correctedError d a) { y with volt := min 520 (g.volt + 10), frozen := true }) ∧
      (n ≠ thresh + 1 → stands (s.correctedError d a) y)) ∧
    ((g.railWindow + 1) * 1500000 ≤ s.cycle → (low → ends (max 400 (g.volt - 10))) ∧ (¬ low → ends g.volt)) ∧
    (s.cycle < (g.railWindow + 1) * 1500000 → exec (.railMonitorWindow d) s = .next s) ∧
    ∃ t, exec (.rmfreeze d) s = .next t ∧ OnlyDie s t d { s.die d with gov := { g with frozen := false } }

/-- The governor at the end of a window, the rail monitor having closed it: the energies return to 0; with the ring on and not full the record stands
at its place, with the window's number, the die's lowest cluster, the energy in mJ, the rail, the throttle entries of the window and CYCLE, and the
head is one on; with the ring full the record is dropped and counted. The throttle is entered while the energy, of which what was used since it
was last charged is a free value (log entry 1), is above GVCAP times the time elapsed, each entry counted, and left while it is below; else nothing
but the charge. GVEXEMPT sets the die's level and that of its 32 clusters. -/
def Sys2Proof.Claims.governorActs : Prop :=
  ∀ (s : State) (d : Nat), d < Config.dies →
    let x := s.die d
    let g := x.gov
    let n := 2 ^ (g.tlctl.toNat / 2 ^ 8 % 2 ^ 5)
    let on := bit g.tlctl.toNat 0 = true
    let full := (g.tlhead - g.tltail).toNat = n
    let e := g.energy + (Config.freeWord s.fresh).toNat % 2 ^ 32
    let cap := g.cap.toNat * (s.cycle - g.window * 1500000)
    let charged := fun (i : Instr) (y : Governor) => ∃ t, exec i s = .next t ∧ OnlyDie { s with fresh := s.fresh + 1 } t d { x with gov := { y with energy := e } }
    let ended := fun (t : State) => (t.die d).gov.window = g.window + 1 ∧ (t.die d).gov.used = [] ∧ (t.die d).gov.energy = 0 ∧
      (t.die d).gov.begun = (g.ce, g.ue, g.throttles, g.permits) ∧ (t.die d).gov.volt = g.volt ∧
      (t.die d).gov.tltail = g.tltail
    (s.cycle < (g.window + 1) * 1500000 ∨ g.railWindow ≤ g.window → exec (.governorWindow d) s = .next s) ∧
    ((g.window + 1) * 1500000 ≤ s.cycle → g.window < g.railWindow →
      (on → ¬ full → ∃ t r, exec (.governorWindow d) s = .next t ∧ ended t ∧ Stored s.mem t.mem (hostKey (g.tlbase.toNat + 64 * (g.tlhead.toNat % n))) 64 r ∧
        (t.die d).gov.tlhead = g.tlhead + 1 ∧ (t.die d).gov.tldrop = g.tldrop ∧ fld r 0 32 = g.window % 2 ^ 32 ∧ fld r 32 11 = 32 * d ∧ fld r 64 32 = e / 1000 % 2 ^ 32 ∧
        fld r 208 16 = (g.throttles - g.begun.2.2.1).toNat % 2 ^ 16 ∧
        fld r 128 10 = g.volt % 2 ^ 10 ∧ fld r 240 1 = b2n g.frozen ∧ fld r 256 64 = s.cycle % 2 ^ 64) ∧
      (on → full → ∃ t, exec (.governorWindow d) s = .next t ∧ ended t ∧ t.mem = s.mem ∧ (t.die d).gov.tlhead = g.tlhead ∧
        (t.die d).gov.tldrop = g.tldrop + 1) ∧
      (¬ on → ∃ t, exec (.governorWindow d) s = .next t ∧ ended t ∧ t.mem = s.mem ∧ (t.die d).gov.tlhead = g.tlhead ∧ (t.die d).gov.tldrop = g.tldrop)) ∧
    (g.throttled = false → cap < 1500 * e → charged (.throttleEntry d) { g with throttled := true, throttles := g.throttles + 1 }) ∧
    (g.throttled = true ∨ 1500 * e ≤ cap → charged (.throttleEntry d) g) ∧
    (1500 * e < cap → charged (.throttleExit d) { g with throttled := false }) ∧ (cap ≤ 1500 * e → charged (.throttleExit d) g) ∧
    ∀ v : W64, (16 ≤ v.toNat → exec (.gvexempt d v) s = .next s) ∧
      (v.toNat < 16 → ∃ t, exec (.gvexempt d v) s = .next t ∧ t.mem = s.mem ∧ t.slots = s.slots ∧
        t.die d = { x with gov := { g with exempt := BitVec.ofNat 4 v.toNat } } ∧
        ∀ cl, t.cluster cl = if cl / 32 = d then { s.cluster cl with exempt := BitVec.ofNat 4 v.toNat } else s.cluster cl)

/-- A fabric port that is up: a flit that passes its check is delivered, one that does not is sent again with all after it, and no flit is sent more
than 1,024 ahead of the next one to be delivered; a retraining that fails,
and a loss, take it down; one that succeeds makes the width change, and the next one the frequency that was to follow. -/
def Sys2Proof.Claims.linksChange : Prop :=
  ∀ (s : State) (l : Nat), (s.link l).up = true →
    let x := s.link l
    let only := fun (u t : State) (y : Link) => ({ t with links := u.links } : State) = u ∧ t.link l = y ∧ ∀ k, k ≠ l → t.link k = u.link k
    let down := fun (i : Instr) => ∃ t y, exec i s = .next t ∧ only s t y ∧ y = { x with up := false, want := none, oldRoute := y.oldRoute, barred := false } ∧
      ∀ q ∈ y.oldRoute, ∃ r ∈ s.items, r.id = q ∧ tagOf r.ea = 8
    (∃ t n, exec (.linkFlit l true) s = .next t ∧ only { s with fresh := s.fresh + 1 } t { x with recvNext := x.recvNext + 1, sendNext := n } ∧
      n ≤ x.recvNext + 1024 ∧ (x.recvNext ≤ x.sendNext → x.recvNext + 1 ≤ n)) ∧
    (∃ t, exec (.linkFlit l false) s = .next t ∧ only { s with fresh := s.fresh + 1 } t { x with sendNext := x.recvNext }) ∧
    down (.linkLost l) ∧ down (.linkRetrain l false) ∧
    (∀ w f, x.want = some (w, f) → ∃ t, exec (.linkRetrain l true) s = .next t ∧ only s t { x with freq := f, want := none }) ∧
    (x.want = none → ∃ t w f, exec (.linkRetrain l true) s = .next t ∧ only { s with fresh := s.fresh + 1 } t { x with width := w, want := some (w, f) })

/-- REGISTER_WRITE of a register of each block and of a host port: a legal value is held, one outside the field's range changes nothing. -/
def Sys2Proof.Claims.registersWritten : Prop :=
  ∀ (s : State) (v : W64),
    (∀ cl i, cl < Config.clusters → i < 2 ^ 18 →
      let d := cl / 32
      let at_ := fun (blk : Nat) => w64 (15 * 2 ^ 60 + cl * 2 ^ 23 + blk * 2 ^ 18 + i)
      let die := fun (blk : Nat) (ok : Prop) (y : Die) => (ok → ∃ t, exec (.registerWrite (at_ blk) v) s = .next t ∧ OnlyDie s t d y) ∧
        (¬ ok → exec (.registerWrite (at_ blk) v) s = .next s)
      (i = 0x00 → die 8 (v.toNat % 2 ^ 12 = 0 ∧ v.toNat < 2 ^ 48) { s.die d with ctxtab := v }) ∧
      (i = 0x08 → die 8 (v.toNat % 2 ^ 16 = 0 ∧ v.toNat < 2 ^ 52) { s.die d with tcva := v }) ∧
      (i = 0x00 → die 10 (v.toNat % 2 ^ 12 = 0 ∧ v.toNat < 2 ^ 48) { s.die d with ovfbase := v }) ∧
      (i = 0x00 → die 13 (v.toNat % 2 ^ 6 = 0 ∧ v.toNat < 2 ^ 52) { s.die d with fqbase := v }) ∧
      (i = 0x08 → die 13 (v.toNat / 2 % 2 ^ 7 = 0 ∧ v.toNat < 2 ^ 13 ∧ 4 ≤ v.toNat / 2 ^ 8 ∧ v.toNat / 2 ^ 8 ≤ 16) { s.die d with fqctl := v }) ∧
      (i = 0x00 → die 12 (100 ≤ v.toNat ∧ v.toNat ≤ 1000) { s.die d with gov := { (s.die d).gov with cap := v } }) ∧
      (i = 0x100 ∨ i = 0x108 → v.toNat < 16 → ∃ t, exec (.registerWrite (at_ 5) v) s = .next t ∧ t.mem = s.mem ∧
        (t.cluster cl).cap = (if i = 0x108 then BitVec.ofNat 4 v.toNat else (s.cluster cl).cap) ∧
        (t.cluster cl).exempt = if i = 0x100 then BitVec.ofNat 4 v.toNat else (s.cluster cl).exempt)) ∧
    ∀ p, p < 4 → 4 ≤ s.bringUp →
      let at_ := fun (off : Nat) => w64 (14 * 2 ^ 60 + p * 2 ^ 32 + 2 ^ 28 + off)
      let port := fun (off : Nat) (ok : Prop) (y : Port) => (ok → ∃ t, exec (.registerWrite (at_ off) v) s = .next t ∧
        ({ t with ports := s.ports } : State) = s ∧ t.port p = y ∧ ∀ k, k ≠ p → t.port k = s.port k) ∧
        (¬ ok → exec (.registerWrite (at_ off) v) s = .next s)
      port 0x000 (v.toNat % 64 = 0) { s.port p with crbase := v } ∧
      port 0x018 (v.toNat < 2 ^ 32) { s.port p with crtail := BitVec.ofNat 32 v.toNat } ∧
      port 0x030 (v.toNat % 64 = 0 ∧ v.toNat < 2 ^ 52) { s.port p with cktier := v }

/-- The rail, the governor, the links, and the registers written from outside.
That one event names a register by an address (log entry 29), when the rail is raised (log entry 45), that a telemetry ring which is off takes no record (log
entry 46), that what has been used is free (log entries 1 and 44) is the model's choice.
Completes: railMonitorWindow, rmfreeze, governorWindow, throttleEntry,
throttleExit, gvexempt, linkFlit, linkLost, linkRetrain, registerWrite. -/
def Obligations.PowerLinksRegisters : Prop := railSet ∧ governorActs ∧ linksChange ∧ registersWritten

/-! The host, the life cycle, reset, the loader (R52 to R65, R352 to R367) -/

/-- Port `p` stands as `y` and nothing else has changed. -/
def Sys2Proof.Claims.OnlyPort (s t : State) (p : Nat) (y : Port) : Prop :=
  ({ t with ports := s.ports } : State) = s ∧ t.port p = y ∧ ∀ k, k ≠ p → t.port k = s.port k

/-- A host access through BAR 4 is a global access in the aperture's context, of up to 512 bytes: a write stores, a read returns what is there; one that
fails is logged and drops the write or returns all ones (a read of a poisoned line does so by the model's choice, log entry 78). BAR 0 reads and writes
the windows of tag 0xF as a supervisor does (a read of a poisoned line under one fails too), BAR 2 reads a control register of the port (the model names their
offsets by 2^36 and 2·2^36 above the
aperture's, log entry 29); what the first refuses is logged too. -/
def Sys2Proof.Claims.apertureAccesses : Prop :=
  ∀ (s : State) (p off n : Nat) (wr : Bool) (v : BitVec 4096), s.portUp p = true → off < 2 ^ 36 → 1 ≤ n → n ≤ 512 → off % 4096 + n ≤ 4096 →
    let i := fun (bar : Nat) => Instr.hostAperture p (bar * 2 ^ 36 + off) n wr v
    let fails := fun (u : State) (bar : Nat) => ∃ t, exec (i bar) s = .next t ∧ t.mem = u.mem ∧ (t.port p).aer = (u.port p).aer + 1 ∧
      (wr = false → t.hostRead = BitVec.ofNat 4096 (2 ^ (8 * n) - 1)) ∧ (wr = true → t.hostRead = u.hostRead)
    (off < 2 ^ 32 →
      let a := (s.port p).apbase.toNat
      let ea := mkAddr 4 (a / 2 ^ 32 % 2 ^ 20 * 2 ^ 32 + off)
      let got := s.global 0 (BitVec.ofNat 16 a) ea n (if wr then .write else .read) (if wr then 1 else 0)
      (∀ u k, got = .ok (u, k) →
        (wr = true → ∃ t, exec (i 0) s = .next t ∧ Stored u.mem t.mem k n v.toNat) ∧
        (wr = false → u.poisoned k n = false → exec (i 0) s = .next { u with hostRead := BitVec.ofNat 4096 (u.nat k n) }) ∧
        (wr = false → u.poisoned k n = true → fails u 0)) ∧
      ∀ u f, got = .bad u f → fails u 0) ∧
    (let ea := mkAddr 15 off
     let open_ := off < 2 ^ 34 ∧ (n = 1 ∨ n = 2 ∨ n = 4 ∨ n = 8) ∧ off % n = 0 ∧ addrOk true ea = true ∧ off / 2 ^ 23 % 2 ^ 11 < Config.clusters ∧
       winSizeOk ea n = true
     (¬ open_ → fails s 1) ∧
     (open_ → wr = false → (∀ r, s.windowRead 0 ea n = some r →
         (s.windowHurt ea n = false → exec (i 1) s = .next { s with hostRead := BitVec.ofNat 4096 (r % 2 ^ (8 * n)) }) ∧ (s.windowHurt ea n = true → fails s 1)) ∧
       (s.windowRead 0 ea n = none → fails s 1)) ∧
     (open_ → wr = true → (∀ t, s.blockWrite ea.toNat n v.toNat true = .ok t → exec (i 1) s = .next t) ∧
       ∀ f, s.blockWrite ea.toNat n v.toNat true = .bad f → fails s 1)) ∧
    (2 ^ 28 ≤ off → off + 8 ≤ 2 ^ 29 → off % 8 = 0 → n = 8 → wr = false →
      exec (i 2) s = .next { s with hostRead := BitVec.ofNat 4096 (s.portRead p (off - 2 ^ 28) % 2 ^ 64) })

/-- A push window stages 8 bytes at a time; the last ones push: PERM before the module is ready or where the window is not valid, the status of a
name that is no live skein, else a SPAWN of the staged stitch in the window's context, by the host. -/
def Sys2Proof.Claims.hostPushes : Prop :=
  ∀ (s : State) (w off : Nat) (v : W64), 4 ≤ s.bringUp → w < 65536 → 0x40 ≤ off → off ≤ 0x78 → off % 8 = 0 →
    let q := s.hostQueue w
    let staged : HostQueue := { q with staging := BitVec.ofNat 512 (putFld q.staging.toNat (8 * (off - 0x40)) 64 v.toNat) }
    let ctx : BitVec 16 := BitVec.ofNat 16 q.ctl.toNat
    let on : State := s.modHostQueue w fun _ => staged
    let told := fun (u : State) (st : Nat) => ∃ t, exec (.hqpush w off v) s = .next t ∧ ({ t with hostQueues := u.hostQueues } : State) = u ∧
      t.hostQueue w = { staged with status := BitVec.ofNat 8 st } ∧ ∀ k, k ≠ w → t.hostQueue k = u.hostQueue k
    (off ≠ 0x78 → ∃ t, exec (.hqpush w off v) s = .next t ∧ ({ t with hostQueues := s.hostQueues } : State) = s ∧ t.hostQueue w = staged ∧
      ∀ k, k ≠ w → t.hostQueue k = s.hostQueue k) ∧
    (off = 0x78 → s.spawns.any (fun r => r.g == Config.slots + w) = true → exec (.hqpush w off v) s = .next s) ∧
    (off = 0x78 → s.spawns.any (fun r => r.g == Config.slots + w) = false →
      (s.bringUp < 9 ∨ bit q.ctl.toNat 16 = false → told s 0x10) ∧
      ∀ u st e, 9 ≤ s.bringUp → bit q.ctl.toNat 16 = true → on.resolve 0 ctx q.name 3 = (u, st, e) →
        (st ≠ 0 → st ≠ 10 → ∃ t, exec (.hqpush w off v) s = .next t ∧ t.mem = u.mem ∧ t.spawns = u.spawns ∧ (t.hostQueue w).status = BitVec.ofNat 8 st) ∧
        (st = 0 ∨ st = 10 → ∃ t r, exec (.hqpush w off v) s = .next t ∧ t.mem = u.mem ∧ t.spawns = u.spawns ++ [r] ∧ r.st = staged.staging ∧ r.nm = q.name ∧
          r.ctx = ctx ∧ r.core = outside ∧ r.g = Config.slots + w))

/-- A completion record: the oldest that waits is written at its place in an enabled ring that is not full, with CYCLE, then the head advances, and
the vector is raised where the ring was empty; the room goes to records that the life-cycle controller owes the port, the oldest first. -/
def Sys2Proof.Claims.recordsWritten : Prop :=
  ∀ (s : State) (p : Nat),
    let x := s.port p
    let n := 2 ^ (x.crctl.toNat / 2 ^ 8 % 2 ^ 5)
    let full := (x.crhead - x.crtail).toNat = n
    let owed := (s.durable.owed.filter fun o => o.1 == p).map (·.2)
    (x.queue = [] ∨ bit x.crctl.toNat 0 = false ∨ full → exec (.completionRecordRelease p) s = .next s) ∧
    ∀ r rest, x.queue = r :: rest → bit x.crctl.toNat 0 = true → ¬ full → ∃ t, exec (.completionRecordRelease p) s = .next t ∧
      Stored s.mem t.mem (hostKey (x.crbase.toNat + 32 * (x.crhead.toNat % n))) 32 (putFld r.toNat 192 64 s.cycle) ∧
      t.port p = { x with queue := rest ++ owed.take (256 - rest.length), crhead := x.crhead + 1, msix := x.msix + b2n (x.crhead == x.crtail) } ∧ (∀ k, k ≠ p → t.port k = s.port k) ∧
      (t.durable.owed.filter fun o => o.1 == p).map (·.2) = owed.drop (256 - rest.length) ∧
      t.durable.owed.filter (fun o => o.1 != p) = s.durable.owed.filter fun o => o.1 != p

/-- The ways R363 lets the life cycle go, with the key that signs each. -/
def Sys2Proof.Claims.lifePath (src dst : Life) (maker : Bool) : Prop :=
  (src = .blank ∧ dst = .provisioned ∧ maker = true) ∨ (src = .provisioned ∧ dst = .operational ∧ maker = false) ∨
  (src = .operational ∧ dst = .provisioned ∧ maker = false) ∨ ((src = .operational ∨ src = .provisioned) ∧ dst = .rma ∧ maker = false) ∨
  (src = .rma ∧ dst = .provisioned ∧ maker = true) ∨ (src ≠ .decommissioned ∧ dst = .decommissioned ∧ (maker = false ∨ src = .rma))

/-- The records of kind 4 that the host has not had: those in the ports' queues, port by port, then those that are owed (R352, R357). -/
def Sys2Proof.Claims.unwritten (s : State) : List (Nat × W256) :=
  ((List.range Config.hostPorts).flatMap fun p => ((s.port p).queue.filter fun r => r.toNat % 256 == 4).map fun r => (p, r)) ++ s.durable.owed

/-- HLCREQ: a request waits while a checkpoint streams, for step 6 and behind another. What it asks for is the signer's (log entry 28): one that is
not verified or takes no path of R363 is PERM, an exhausted key FULL, and both change nothing but the record and the status; an accepted one
changes the state, wipes every memory of the module, and owes the port its record, behind those of that kind that no port has written yet. -/
def Sys2Proof.Claims.lifeCycleRequests : Prop :=
  ∀ (s : State) (p : Nat) (v : W64), s.portUp p = true → v.toNat % 64 = 0 →
    let waits := s.streaming = true ∨ s.bringUp = 5 ∨ s.durable.pending ≠ []
    let r := s.lifeReq.2
    let allowed := r.verified = true ∧ lifePath s.durable.life r.target r.maker ∧ (r.maker = true ∨ s.durable.ownerKey = true)
    let refused := fun (st : Nat) => ∃ t, exec (.hlcreq p v) s = .next t ∧ t.mem = s.mem ∧ t.slots = s.slots ∧ t.bringUp = s.bringUp ∧
      t.durable = { s.durable with status := BitVec.ofNat 8 st } ∧ (t.port p).queue = (s.port p).queue ++ [hostRecord 4 st 0 0 0 0]
    (waits → exec (.hlcreq p v) s = .next { s with durable := { s.durable with pending := s.durable.pending ++ [(p, v)] } }) ∧
    (¬ waits → s.recordRoom p = true → (¬ allowed → refused 0x10) ∧ (allowed → r.exhausted = true → refused 0x11) ∧
      (allowed → r.exhausted = false → ∃ t, exec (.hlcreq p v) s = .next t ∧ (∀ j, t.mem.get 0 j = if isHostKey j = true then s.mem.get 0 j else 0) ∧
        (∀ g, (t.slot g).state = .empty) ∧ t.bringUp < 9 ∧ t.durable.life = r.target ∧
        t.durable.owed = unwritten s ++ [(p, hostRecord 4 0 0 0 0 0)] ∧
        (s.durable.life = .blank → r.target = .provisioned → t.durable.module = r.module) ∧
        (r.target = .decommissioned → t.durable.identity = false ∧ t.durable.ownerKey = false ∧ t.durable.nameKey = 0)))

/-- HATTEST: PERM without an identity key, FULL once its 65,536 indexes are used; else the next index is kept first, the report stands at the result
address with the nonce, the firmware's digests (free, one for a set of security versions: log entry 89), the module id and the index; the signature stands
behind it, its first 4 bytes the index, big-endian; and the record says OK. -/
def Sys2Proof.Claims.attestations : Prop :=
  ∀ (s : State) (p : Nat) (v : W64), s.portUp p = true → v.toNat % 64 = 0 → s.recordRoom p = true →
    let result := s.nat (hostKey (v.toNat + 32)) 8
    let queued := fun (t : State) (st : Nat) => (t.port p).queue = (s.port p).queue ++ [hostRecord 5 st 0 0 0 0]
    (s.durable.identity = false → ∃ t, exec (.hattest p v) s = .next t ∧ OnlyPort s t p (t.port p) ∧ queued t 0x10) ∧
    (s.durable.identity = true → 65536 ≤ s.durable.identityIndex → ∃ t, exec (.hattest p v) s = .next t ∧ OnlyPort s t p (t.port p) ∧ queued t 0x11) ∧
    (s.durable.identity = true → s.durable.identityIndex < 65536 → ∃ t, exec (.hattest p v) s = .next t ∧ queued t 0 ∧
      t.durable = { s.durable with identityIndex := s.durable.identityIndex + 1 } ∧ t.nat (hostKey result) 32 = s.nat (hostKey v.toNat) 32 ∧
      t.nat (hostKey (result + 32)) 64 = s.durable.digests ∧ t.nat (hostKey (result + 96)) 2 = s.durable.module.toNat ∧
      t.nat (hostKey (result + 112)) 4 = s.durable.identityIndex ∧
      (∀ b, b < 4 → t.nat (hostKey (result + 128 + b)) 1 = s.durable.identityIndex / 256 ^ (3 - b) % 256) ∧
      ∀ j, (j < hostKey result ∨ hostKey result + 128 + 2692 ≤ j) → t.mem.get 0 j = s.mem.get 0 j)

/-- HLCGO ends step 7: the fabric ports come up where their peer is listed, and the module is ready if it is OPERATIONAL; at any other step, and
with any other value, it does nothing. -/
def Sys2Proof.Claims.bringUpEnds : Prop :=
  ∀ (s : State) (p : Nat) (v : W64), s.portUp p = true →
    (v ≠ 1 ∨ s.bringUp ≠ 6 → exec (.hlcgo p v) s = .next s) ∧
    (v = 1 → s.bringUp = 6 → ∃ t, exec (.hlcgo p v) s = .next t ∧ t.mem = s.mem ∧ t.slots = s.slots ∧
      t.bringUp = (if s.durable.life = .operational then 9 else 8) ∧
      ∀ l, l < Config.fabricPorts → (t.link l).up = true → (t.link l).peer ∈ (s.die 0).modules)

/-- Reset and power loss: every byte of every memory of the module is zero, every poison mark gone, nothing in flight, every slot EMPTY, every die at
its reset values; host memory, the keys, the module id, the life-cycle state and the identity index stay. Serials and minimum versions do not go
back. After a reset every life-cycle record that the host has not had stays owed and bring-up has come to step 4, 5 or 6 (the model's numbers, log entry 48);
after power loss it has not begun. That the slots' registers take their reset values (log entry 4) and that a cluster once fenced stays so (log entry 71) are the
model's choices. -/
def Sys2Proof.Claims.resetsWipe : Prop :=
  ∀ (s : State) (i : Instr), (i = .moduleReset ∨ i = .powerLoss) → ∃ t, exec i s = .next t ∧
    (∀ j, t.mem.get 0 j = if isHostKey j = true then s.mem.get 0 j else 0) ∧ t.poison = [] ∧ t.loads = [] ∧ t.out = [] ∧ t.amos = [] ∧
    t.names = [] ∧ t.skeins = [] ∧ t.parked = [] ∧
    (∀ g, t.slot g = { Slot.reset with npre := (t.slot g).npre }) ∧ (∀ d, t.die d = Die.reset) ∧ (∀ p, t.port p = Port.reset) ∧
    t.tier = s.tier ∧ t.cut = none ∧
    t.durable.module = s.durable.module ∧ t.durable.life = s.durable.life ∧ t.durable.identity = s.durable.identity ∧
    t.durable.identityIndex = s.durable.identityIndex ∧ t.durable.ownerKey = s.durable.ownerKey ∧ t.durable.nameKey = s.durable.nameKey ∧
    s.durable.serialCounter ≤ t.durable.serialCounter ∧ (∀ k, s.durable.minVersion.get 0 k ≤ t.durable.minVersion.get 0 k) ∧
    (i = .moduleReset → (∀ c, c ∈ s.durable.fenced → c ∈ t.durable.fenced ∧ (t.cluster c).fenced = true ∧ (t.cluster c).matrixQuarantined = true) ∧
      t.durable.owed = unwritten s ∧ (t.bringUp = 4 ∨ t.bringUp = 5 ∨ t.bringUp = 6)) ∧
    (i = .powerLoss → t.bringUp = 0 ∧ t.durable.owed = [] ∧ (∀ g, t.slot g = Slot.reset))

/-- LOAD_IMAGE: PERM before the module is ready, cause 5 for a context in use, cause 1 for an image against the rules: the record alone changes. A
load whose steps all succeed leaves what they made, and the record says so; one whose step fails is undone, and the record names the cause; one that needs a block of
serials waits for it, and while a checkpoint streams every load waits (log entry 27). -/
def Sys2Proof.Claims.imagesLoaded : Prop :=
  ∀ (s : State) (p : Nat) (ctx : BitVec 16) (img : W64) (len : Nat), s.portUp p = true → s.recordRoom p = true →
    let f : Image := ⟨s.mem, img.toNat, len⟩
    let told := fun (u : State) (cause ix code : Nat) => ∃ t, exec (.loadImage p ctx img len) s = .next t ∧
      OnlyPort u t p { u.port p with queue := (u.port p).queue ++ [hostRecord 1 cause ctx ix 0 code] }
    (s.bringUp < 9 → told s 0x10 0 0) ∧ (9 ≤ s.bringUp → s.inUse ctx = true → told s 5 0 0) ∧
    (9 ≤ s.bringUp → s.inUse ctx = false → f.ok = false → told s 1 0 0) ∧
    (9 ≤ s.bringUp → s.inUse ctx = false → f.ok = true → s.streaming = true → exec (.loadImage p ctx img len) s = .next s) ∧
    (9 ≤ s.bringUp → s.inUse ctx = false → f.ok = true → s.streaming = false →
      (∀ l h, Load.run ⟨s, [], []⟩ f ctx = (l, .wait h) → ∃ t, exec (.loadImage p ctx img len) s = .next t ∧ ({ t with ckWants := s.ckWants } : State) = s) ∧
      (∀ l, Load.run ⟨s, [], []⟩ f ctx = (l, .none) → told l.s 0 0 0 ∧ l.names.length = f.objCount) ∧
      ∀ l cause ix code, Load.run ⟨s, [], []⟩ f ctx = (l, .fail cause ix code) → told l.undo cause ix code ∧ cause ∈ [2, 3, 4])

/-- Step 3, one page: it is mapped, present and a leaf, with the rights asked for, on the frame given; where the walk already finds a page for the
address nothing is mapped. A region that has a home keeps it, and one that has none takes the cluster named (R63, R72, R74). -/
def Sys2Proof.Claims.pagesMapped : Prop :=
  ∀ (s : State) (ctx : BitVec 16) (va pa flags cl : Nat), va < 2 ^ 52 → va % 2 ^ 16 = 0 → pa < 2 ^ 48 → pa % 2 ^ 16 = 0 → flags = 0 ∨ flags = 4 ∨ flags = 8 →
    cl < Config.clusters →
    (∀ t at_, s.mapPage ctx va pa flags = some (t, at_) → t.nat (rimKey at_) 8 = pa + flags + 3) ∧
    (∀ a e lvl, s.walk 0 ctx va = .ok (a, e, lvl) → s.mapPage ctx va pa flags = none) ∧
    (let top := s.nat (rimKey (s.nat (rimKey ((s.die 0).ctxtab.toNat + 64 * ctx.toNat + 8)) 8 / 256 % 2 ^ 40 * 256 + 8 * (va / 2 ^ 37))) 8
     let at_ := rimKey (top / 256 % 2 ^ 40 * 256 + 2 * (va / 2 ^ 21 % 2 ^ 16))
     top % 2 = 1 → (s.nat at_ 2 / 2 ^ 15 = 1 → s.homeRegion ctx va cl = some s) ∧
       (s.nat at_ 2 / 2 ^ 15 = 0 → ∃ t, s.homeRegion ctx va cl = some t ∧ Stored s.mem t.mem at_ 2 (cl + 2 ^ 15)))

/-- Steps 2 to 4: a cluster set that holds a fenced cluster, or no enabled core with the features, is cause 2, and a place that fails is cause 3. Once placed,
`.text`, `.cmd` and `.data` hold the file's bytes in their frames, and every core of the set has the file's `.local` at its offsets (R63, R65). -/
def Sys2Proof.Claims.imagePlaced : Prop :=
  ∀ (s : State) (f : Image) (ctx : BitVec 16), f.ok = true →
    let start : Load := ⟨s, [], []⟩
    let able := (∀ c ∈ f.clusters, (s.cluster c).fenced = false) ∧ ∃ k ∈ f.cores, s.enabled k = true ∧ maskHas (s.coreFeat k) (f.rd 20 4) = true
    (¬ able → Load.run start f ctx = (start, .fail 2 0 0)) ∧
    (∀ l, able → start.place f ctx = (l, none) → Load.run start f ctx = (l, .fail 3 0 0)) ∧
    ∀ l pa, start.place f ctx = (l, some pa) →
      (∀ type h, type = 1 ∨ type = 2 ∨ type = 3 → h = f.find type → ∀ j, j < h.size → l.s.mem.get 0 (rimKey (pa type) + j) = f.mem.get 0 (hostKey (f.at_ + h.off) + j)) ∧
      let h := f.find 4
      h.size ≠ 0 → h.addr + h.size ≤ 0x24000 ∧
        ∀ k ∈ f.cores, ∀ j, j < h.size → l.s.mem.get 0 (localKey k h.addr + j) = f.mem.get 0 (hostKey (f.at_ + h.off) + j)

/-- Step 5: each object that is made has an entry under its name in the load's context, and stands where its record says: a tile with its shape in the
matrix unit of its cluster, a barrier with its count and scope, an empty skein with its cluster as hint. A load that ends well has one name for
each record, and the first that is refused ends it with cause 4, its index and its status (R63, R65). -/
def Sys2Proof.Claims.objectsMade : Prop :=
  (∀ (s t : State) (ctx : BitVec 16) (cl r : Nat) (nm : W128), cl < Config.clusters → s.makeRecord ctx cl r = .ok (t, 0, nm) →
    let kind := r / 2 ^ 32 % 2 ^ 8
    let at_ := if kind = 1 then r / 2 ^ 120 % 2 ^ 11 else if kind = 2 then cl else r / 2 ^ 96 % 2 ^ 11
    (∃ e ∈ t.names, e.name = nm ∧ e.dying = false ∧ e.ctx = ctx ∧ e.cls.toNat = (if kind = 1 ∨ kind = 2 then kind else 3) ∧ e.home = at_) ∧
    (kind = 1 → ∃ x ∈ (t.cluster at_).tiles, x.name = nm ∧ x.ctx = ctx ∧ x.m = r / 2 ^ 64 % 2 ^ 8 ∧ x.n = r / 2 ^ 72 % 2 ^ 8 ∧ x.k = r / 2 ^ 80 % 2 ^ 32 ∧
      x.int = (r / 2 ^ 112 % 2 == 1) ∧ x.elems = [] ∧ x.accepted = 0) ∧
    (kind = 2 → ∃ b ∈ t.barriers, b.name = nm ∧ b.count.toNat = r / 2 ^ 64 % 2 ^ 32 ∧ scopeCode b.scope = r / 2 ^ 96 % 2 ^ 3 ∧ b.arrived = 0 ∧ b.line = 0) ∧
    (kind ≠ 1 → kind ≠ 2 → ∃ k ∈ t.skeins, k.name = nm ∧ k.ctx = ctx ∧ k.cluster = at_ ∧ k.items = [])) ∧
  ∀ (l m : Load) (f : Image) (ctx : BitVec 16) (i n : Nat),
    (l.objects f ctx i n = (m, .none) → ∃ made, made.length = n ∧ m.names = l.names ++ made) ∧
    ∀ cause ix code, l.objects f ctx i n = (m, .fail cause ix code) → cause = 4 ∧ i ≤ ix ∧ ix < i + n ∧ code ≠ 0 ∧ ∃ made, made.length = ix - i ∧ m.names = l.names ++ made

/-- Step 6, in record order: kinds 1 and 2 write the low and the high half of the name, kind 3 all of it, into the copy in the frames, or, for `.local`,
into every core's; kind 4 writes nothing (R60, R63). -/
def Sys2Proof.Claims.namesPatched : Prop :=
  ∀ (l : Load) (f : Image) (pa : Nat → Nat),
    StoredAll l.s.mem (Load.patches l f pa).mem ((List.range f.patchCount).flatMap fun i =>
      let p := f.patch i
      let nm := (l.names.getD (p % 2 ^ 32) 0).toNat
      let type := (f.sec (f.rd 12 4) (p / 2 ^ 32 % 2 ^ 16)).type
      let kind := p / 2 ^ 48 % 2 ^ 8
      let off := p / 2 ^ 64 % 2 ^ 32
      let keys := if type = 4 then f.cores.map fun k => localKey k ((f.find 4).addr + off) else [rimKey (pa type + off)]
      if kind = 1 then keys.map fun k => (k, 8, nm % 2 ^ 64) else if kind = 2 then keys.map fun k => (k, 8, nm / 2 ^ 64)
      else if kind = 3 then keys.map fun k => (k, 16, nm) else [])

/-- Steps 7 and 8: a load that ends well leaves no instruction cached in the set's clusters; each skein has the stitches of its kind 4 patches, behind what it
had, in section order, in the load's context (R63, R64). -/
def Sys2Proof.Claims.stitchesSpawned : Prop :=
  (∀ (s : State) (f : Image) (ctx : BitVec 16) (l : Load), Load.run ⟨s, [], []⟩ f ctx = (l, .none) → ∀ c ∈ f.clusters, (l.s.cluster c).icache = []) ∧
  ∀ (l m : Load) (f : Image) (ctx : BitVec 16), Load.spawns l f ctx 0 f.stitches = (m, .none) →
    ∀ nm k, m.s.skeins.find? (fun x => x.name == nm) = some k → ∃ k' new, l.s.skeins.find? (fun x => x.name == nm) = some k' ∧ k.items = k'.items ++ new ∧
      (∀ q ∈ new, stCtx q.st = ctx) ∧
      new.map (fun q => q.st.toNat % 2 ^ 48) =
        ((List.range f.stitches).filter fun i => l.names.getD ((f.skeinsOf i).headD 0) 0 == nm).map fun i => f.item (f.find 5) 64 i % 2 ^ 48

/-- A load undone: every entry it wrote is no page, every object it made is dead, its name, tile, barrier and skein gone (the skein with the stitches it was
given), and nothing has been spawned (R65). That no two entries have one serial is R281's; the clause is said of such states. -/
def Sys2Proof.Claims.loadsUndone : Prop :=
  ∀ (l : Load), (∀ a ∈ l.s.names, ∀ b ∈ l.s.names, nmSerial a.name = nmSerial b.name → a = b) → (∀ e ∈ l.s.names, e.dying = false) →
    let t := l.undo
    (∀ a ∈ l.leaves, t.nat (rimKey a) 8 = 0) ∧
    (∀ e ∈ l.s.names, e.name ∈ l.names → t.entry (nmSerial e.name) = none ∧
      (e.cls = 1 → ∀ x ∈ (t.cluster (nmCluster e.name)).tiles, x.name ≠ e.name) ∧ (e.cls = 2 → ∀ b ∈ t.barriers, b.name ≠ e.name) ∧
      (e.cls = 3 → ∀ k ∈ t.skeins, k.name ≠ e.name)) ∧
    (∀ k ∈ t.skeins, k ∈ l.s.skeins) ∧ t.spawns = l.s.spawns ∧ (∀ nm ∉ l.names.map nmSerial, t.entry nm = l.s.entry nm)

/-- The host's accesses, pushes and records.
That an access of the host and a push resolve as cluster 0 does is the model's choice (log entry 52), and so are the event's offsets (log entry 29) and the
answer to a poisoned read (log entry 78).
Completes: hostAperture, hqpush, completionRecordRelease. -/
def Obligations.HostServices : Prop := apertureAccesses ∧ hostPushes ∧ recordsWritten

/-- The loader: how a load is told, what its steps make and what its undoing leaves. The frames and homes are one choice of the loader software (log entry 30).
Completes: loadImage. -/
def Obligations.ImagesLoaded : Prop :=
  imagesLoaded ∧ pagesMapped ∧ imagePlaced ∧ objectsMade ∧ namesPatched ∧ stitchesSpawned ∧ loadsUndone

/-- Life cycle, attestation, the end of bring-up, module reset and power loss.
The slots' registers at reset (log entry 4), that a cluster once fenced stays so (log entry 71), the numbers of the bring-up steps (log entry 48), what a
request says (log entry 28) and one digest for a set of versions (log entry 89) are the model's choice.
Completes: hlcreq, hattest, hlcgo, moduleReset, powerLoss. -/
def Obligations.LifeCycleAndReset : Prop := lifeCycleRequests ∧ attestations ∧ bringUpEnds ∧ resetsWipe

/-! The whole machine -/

/-- What reset leaves (R4, R173, R322, R351, R352): every memory zero and in its canonical form, nothing poisoned or in flight, every slot EMPTY with
registers 0, HOLDLIM 16,384 and FSLIM all ones, every governor at its reset values, every ring and window off.
HOLDLIM, FSLIM, the registers and CYCLE (log entry 4) and that host memory reads zero (log entry 59) are the model's choice. -/
def Obligations.ResetState : Prop :=
  let r := State.reset
  r.Inv ∧ (∀ j, r.mem.get 0 j = 0) ∧ r.poison = [] ∧ r.loads = [] ∧ r.out = [] ∧ r.amos = [] ∧ r.chains = [] ∧ r.names = [] ∧ r.cycle = 0 ∧ r.bringUp = 0 ∧
  (∀ g, let x := r.slot g
    x.state = .empty ∧ (∀ k, x.s k = 0) ∧ (∀ k, x.vr k = 0) ∧ (∀ k, x.mr k = 0) ∧ x.buf = [] ∧ x.wb = 0 ∧ x.res = 0 ∧ x.holdlim = 16384 ∧
    x.fslim = 0xFFFFFFFFFFFFFFFF ∧ x.cmdStatus = 0 ∧ x.busy = false ∧ x.faults = 0 ∧ x.spillbase = 0) ∧
  (∀ d, let g := (r.die d).gov
    g.cap = 350 ∧ g.didt = 32 ∧ g.step = 10 ∧ g.ramp = 16384 ∧ g.exempt = 15 ∧ g.throttled = false ∧ g.volt = 450 ∧ g.frozen = false ∧ g.tlctl = 0 ∧
    (r.die d).fqctl = 0 ∧ (r.die d).fqheld = [] ∧ (r.die d).ctxtab = 0 ∧ (r.die d).halt = false ∧ (r.die d).tcinv = none) ∧
  (∀ p, r.port p = ⟨0, 0, 0, 0, 0, 0, [], 0, 0⟩) ∧ ∀ w, (r.hostQueue w).ctl = 0

/-- Every step keeps memory in its canonical form, and that of every recorded cut: whatever the machine does, equal memories are equal data. -/
def Obligations.StepKeepsCanonicalMemory : Prop := ∀ s t : State, s.Inv → step s = .next t → t.Inv

/-- Every step answers: whatever word and whatever event, the machine goes on; a turn that names a slot which does not exist is the only stop. -/
def Obligations.StepAlwaysAnswers : Prop :=
  (∀ s : State, s.Scheduled → ∃ t, step s = .next t) ∧
  ∀ s f, step s = .fault f → ∃ g, s.turn.1.act = .slot g ∧ Config.slots ≤ g

end
end

