-- ==== Sys2Proof/Laws/Table.lean ====
section
/-! SUPPORT. The laws of sparse tables: a read after a write, and that a write keeps the canonical form. -/
namespace Sys2Proof.Machine

variable {α : Type}

@[simp] theorem Tab.get_nil (d : α) (k : Nat) : Tab.get d [] k = d := rfl

theorem Tab.get_drop (d : α) (t : Tab α) (k j : Nat) : (t.drop k).get d j = if j = k then d else t.get d j := by
  induction t with
  | nil => simp [Tab.drop]
  | cons e t ih =>
    obtain ⟨k', v'⟩ := e
    by_cases h : k = k' <;> by_cases hj : j = k' <;> simp_all [Tab.drop, Tab.get]
    omega

variable [DecidableEq α]

/-- A read after a write: the value written there, and everywhere else what stood there. -/
theorem Tab.get_set (d : α) (t : Tab α) (k : Nat) (v : α) (j : Nat) : (t.set d k v).get d j = if j = k then v else t.get d j := by
  induction t with
  | nil => by_cases h : v = d <;> by_cases hj : j = k <;> simp_all [Tab.set, Tab.get]
  | cons e t ih =>
    obtain ⟨k', v'⟩ := e
    by_cases hlt : k' < k
    · by_cases hj : j = k'
      · subst hj; simp [Tab.set, hlt, Tab.get]; omega
      · simp [Tab.set, hlt, Tab.get, hj, ih]
    · by_cases hv : v = d
      · subst hv; simp only [Tab.set, hlt, if_false, if_true, Tab.get_drop]
      · simp only [Tab.set, if_neg hlt, if_neg hv]
        by_cases hk : k = k' <;> by_cases hj : j = k <;> simp_all [Tab.get]

@[simp] theorem Tab.get_set_self (d : α) (t : Tab α) (k : Nat) (v : α) : (t.set d k v).get d k = v := by simp [Tab.get_set]

theorem Tab.get_set_other (d : α) (t : Tab α) {k j : Nat} (v : α) (h : j ≠ k) : (t.set d k v).get d j = t.get d j := by
  simp [Tab.get_set, h]

/-- What lies above a bound lies above every lower one. -/
theorem Tab.wfFrom_mono (d : α) {l l' : Nat} (h : l' ≤ l) : ∀ t : Tab α, Tab.wfFrom d (some l) t = true → Tab.wfFrom d (some l') t = true
  | [], _ => rfl
  | (k, v) :: t, hw => by
    simp only [Tab.wfFrom, Bool.and_eq_true, decide_eq_true_eq] at hw ⊢
    exact ⟨⟨by omega, hw.1.2⟩, hw.2⟩

theorem Tab.wfFrom_none (d : α) {l : Nat} : ∀ t : Tab α, Tab.wfFrom d (some l) t = true → Tab.wfFrom d none t = true
  | [], _ => rfl
  | (k, v) :: t, hw => by
    simp only [Tab.wfFrom, Bool.and_eq_true, decide_eq_true_eq, Bool.true_and] at hw ⊢
    exact ⟨hw.1.2, hw.2⟩

/-- Dropping a key that lies below all keys changes nothing. -/
theorem Tab.drop_above (d : α) {k l : Nat} (h : k ≤ l) : ∀ t : Tab α, Tab.wfFrom d (some l) t = true → Tab.drop t k = t
  | [], _ => rfl
  | (k', v) :: t, hw => by
    simp only [Tab.wfFrom, Bool.and_eq_true, decide_eq_true_eq] at hw
    have : k ≠ k' := by omega
    simp [Tab.drop, this, Tab.drop_above d (by omega : k ≤ k') t hw.2]

theorem Tab.wfFrom_set (d : α) (k : Nat) (v : α) : ∀ (t : Tab α) (lo : Option Nat), (∀ l, lo = some l → l < k) →
    Tab.wfFrom d lo t = true → Tab.wfFrom d lo (t.set d k v) = true
  | [], lo, hlo, _ => by
    by_cases h : v = d
    · simp [Tab.set, h, Tab.wfFrom]
    · cases lo <;> simp_all [Tab.set, Tab.wfFrom]
  | (k', v') :: t, lo, hlo, hw => by
    simp only [Tab.wfFrom, Bool.and_eq_true, decide_eq_true_eq] at hw
    obtain ⟨⟨h1, h2⟩, h3⟩ := hw
    by_cases hlt : k' < k
    · simp only [Tab.set, hlt, if_true, Tab.wfFrom, Bool.and_eq_true, decide_eq_true_eq]
      exact ⟨⟨h1, h2⟩, Tab.wfFrom_set d k v t (some k') (by simpa using hlt) h3⟩
    · by_cases hv : v = d
      · subst hv
        simp only [Tab.set, hlt, if_false, if_true]
        by_cases hk : k = k'
        · subst hk
          have : Tab.drop t k = t := Tab.drop_above v (Nat.le_refl k) t h3
          simp only [Tab.drop, if_true, this]
          cases lo with
          | none => exact Tab.wfFrom_none v t h3
          | some l => exact Tab.wfFrom_mono v (by have := hlo l rfl; omega) t h3
        · have : Tab.drop t k = t := Tab.drop_above v (by omega : k ≤ k') t h3
          simp only [Tab.drop, hk, if_false, this, Tab.wfFrom, Bool.and_eq_true, decide_eq_true_eq]
          exact ⟨⟨h1, h2⟩, h3⟩
      · have hb : Tab.wfFrom d lo [(k, v)] = true := by
          cases lo with
          | none => simp [Tab.wfFrom, hv]
          | some l => simp [Tab.wfFrom, hv, hlo l rfl]
        simp only [Tab.wfFrom, Bool.and_eq_true, decide_eq_true_eq] at hb
        by_cases hk : k = k'
        · subst hk
          simp only [Tab.set, Nat.lt_irrefl, if_false, hv, if_true, Tab.wfFrom, Bool.and_eq_true, decide_eq_true_eq]
          exact ⟨⟨hb.1.1, hv⟩, h3⟩
        · simp only [Tab.set, hlt, if_false, hv, hk, Tab.wfFrom, Bool.and_eq_true, decide_eq_true_eq]
          exact ⟨⟨hb.1.1, hv⟩, ⟨by omega, h2⟩, h3⟩

/-- A write keeps the canonical form. -/
theorem Tab.wf_set (d : α) {t : Tab α} (k : Nat) (v : α) (h : t.wf d = true) : (t.set d k v).wf d = true :=
  Tab.wfFrom_set d k v t none (by simp) h

@[simp] theorem Tab.wf_nil (d : α) : Tab.wf d [] = true := rfl

end Sys2Proof.Machine
end

