-- ==== Sys2Proof/Laws/State.lean ====
section
/-! SUPPORT. What each update of the state leaves alone, one lemma per field and update, true by computation; and what the
accessors read after an update. Generated row by row from the fields of `State` and `Slot`. -/
namespace Sys2Proof.Machine

/-! The units -/

@[simp] theorem State.setSlot_cycle (s : State) (g : Nat) (x : Slot) : (s.setSlot g x).cycle = s.cycle := rfl
@[simp] theorem State.setSlot_fresh (s : State) (g : Nat) (x : Slot) : (s.setSlot g x).fresh = s.fresh := rfl
@[simp] theorem State.setSlot_miss (s : State) (g : Nat) (x : Slot) : (s.setSlot g x).miss = s.miss := rfl
@[simp] theorem State.setSlot_cur (s : State) (g : Nat) (x : Slot) : (s.setSlot g x).cur = s.cur := rfl
@[simp] theorem State.setSlot_nextId (s : State) (g : Nat) (x : Slot) : (s.setSlot g x).nextId = s.nextId := rfl
@[simp] theorem State.setSlot_mem (s : State) (g : Nat) (x : Slot) : (s.setSlot g x).mem = s.mem := rfl
@[simp] theorem State.setSlot_poison (s : State) (g : Nat) (x : Slot) : (s.setSlot g x).poison = s.poison := rfl
@[simp] theorem State.setSlot_cores (s : State) (g : Nat) (x : Slot) : (s.setSlot g x).cores = s.cores := rfl
@[simp] theorem State.setSlot_clusters (s : State) (g : Nat) (x : Slot) : (s.setSlot g x).clusters = s.clusters := rfl
@[simp] theorem State.setSlot_dies (s : State) (g : Nat) (x : Slot) : (s.setSlot g x).dies = s.dies := rfl
@[simp] theorem State.setSlot_ports (s : State) (g : Nat) (x : Slot) : (s.setSlot g x).ports = s.ports := rfl
@[simp] theorem State.setSlot_links (s : State) (g : Nat) (x : Slot) : (s.setSlot g x).links = s.links := rfl
@[simp] theorem State.setSlot_hostQueues (s : State) (g : Nat) (x : Slot) : (s.setSlot g x).hostQueues = s.hostQueues := rfl
@[simp] theorem State.setSlot_loads (s : State) (g : Nat) (x : Slot) : (s.setSlot g x).loads = s.loads := rfl
@[simp] theorem State.setSlot_out (s : State) (g : Nat) (x : Slot) : (s.setSlot g x).out = s.out := rfl
@[simp] theorem State.setSlot_amos (s : State) (g : Nat) (x : Slot) : (s.setSlot g x).amos = s.amos := rfl
@[simp] theorem State.setSlot_chains (s : State) (g : Nat) (x : Slot) : (s.setSlot g x).chains = s.chains := rfl
@[simp] theorem State.setSlot_nameOps (s : State) (g : Nat) (x : Slot) : (s.setSlot g x).nameOps = s.nameOps := rfl
@[simp] theorem State.setSlot_shoots (s : State) (g : Nat) (x : Slot) : (s.setSlot g x).shoots = s.shoots := rfl
@[simp] theorem State.setSlot_spawns (s : State) (g : Nat) (x : Slot) : (s.setSlot g x).spawns = s.spawns := rfl
@[simp] theorem State.setSlot_sends (s : State) (g : Nat) (x : Slot) : (s.setSlot g x).sends = s.sends := rfl
@[simp] theorem State.setSlot_notes (s : State) (g : Nat) (x : Slot) : (s.setSlot g x).notes = s.notes := rfl
@[simp] theorem State.setSlot_parks (s : State) (g : Nat) (x : Slot) : (s.setSlot g x).parks = s.parks := rfl
@[simp] theorem State.setSlot_contribs (s : State) (g : Nat) (x : Slot) : (s.setSlot g x).contribs = s.contribs := rfl
@[simp] theorem State.setSlot_parked (s : State) (g : Nat) (x : Slot) : (s.setSlot g x).parked = s.parked := rfl
@[simp] theorem State.setSlot_graph (s : State) (g : Nat) (x : Slot) : (s.setSlot g x).graph = s.graph := rfl
@[simp] theorem State.setSlot_grSeen (s : State) (g : Nat) (x : Slot) : (s.setSlot g x).grSeen = s.grSeen := rfl
@[simp] theorem State.setSlot_trapped (s : State) (g : Nat) (x : Slot) : (s.setSlot g x).trapped = s.trapped := rfl
@[simp] theorem State.setSlot_names (s : State) (g : Nat) (x : Slot) : (s.setSlot g x).names = s.names := rfl
@[simp] theorem State.setSlot_births (s : State) (g : Nat) (x : Slot) : (s.setSlot g x).births = s.births := rfl
@[simp] theorem State.setSlot_deaths (s : State) (g : Nat) (x : Slot) : (s.setSlot g x).deaths = s.deaths := rfl
@[simp] theorem State.setSlot_hostOut (s : State) (g : Nat) (x : Slot) : (s.setSlot g x).hostOut = s.hostOut := rfl
@[simp] theorem State.setSlot_hostRead (s : State) (g : Nat) (x : Slot) : (s.setSlot g x).hostRead = s.hostRead := rfl
@[simp] theorem State.setSlot_barriers (s : State) (g : Nat) (x : Slot) : (s.setSlot g x).barriers = s.barriers := rfl
@[simp] theorem State.setSlot_skeins (s : State) (g : Nat) (x : Slot) : (s.setSlot g x).skeins = s.skeins := rfl
@[simp] theorem State.setSlot_bindings (s : State) (g : Nat) (x : Slot) : (s.setSlot g x).bindings = s.bindings := rfl
@[simp] theorem State.setSlot_rel (s : State) (g : Nat) (x : Slot) : (s.setSlot g x).rel = s.rel := rfl
@[simp] theorem State.setSlot_ksyncs (s : State) (g : Nat) (x : Slot) : (s.setSlot g x).ksyncs = s.ksyncs := rfl
@[simp] theorem State.setSlot_killing (s : State) (g : Nat) (x : Slot) : (s.setSlot g x).killing = s.killing := rfl
@[simp] theorem State.setSlot_killWaits (s : State) (g : Nat) (x : Slot) : (s.setSlot g x).killWaits = s.killWaits := rfl
@[simp] theorem State.setSlot_lastKill (s : State) (g : Nat) (x : Slot) : (s.setSlot g x).lastKill = s.lastKill := rfl
@[simp] theorem State.setSlot_serialNext (s : State) (g : Nat) (x : Slot) : (s.setSlot g x).serialNext = s.serialNext := rfl
@[simp] theorem State.setSlot_serialEnd (s : State) (g : Nat) (x : Slot) : (s.setSlot g x).serialEnd = s.serialEnd := rfl
@[simp] theorem State.setSlot_serialFail (s : State) (g : Nat) (x : Slot) : (s.setSlot g x).serialFail = s.serialFail := rfl
@[simp] theorem State.setSlot_durable (s : State) (g : Nat) (x : Slot) : (s.setSlot g x).durable = s.durable := rfl
@[simp] theorem State.setSlot_bringUp (s : State) (g : Nat) (x : Slot) : (s.setSlot g x).bringUp = s.bringUp := rfl
@[simp] theorem State.setSlot_loaderNext (s : State) (g : Nat) (x : Slot) : (s.setSlot g x).loaderNext = s.loaderNext := rfl
@[simp] theorem State.setSlot_ckRound (s : State) (g : Nat) (x : Slot) : (s.setSlot g x).ckRound = s.ckRound := rfl
@[simp] theorem State.setSlot_ckWaiting (s : State) (g : Nat) (x : Slot) : (s.setSlot g x).ckWaiting = s.ckWaiting := rfl
@[simp] theorem State.setSlot_ckRanges (s : State) (g : Nat) (x : Slot) : (s.setSlot g x).ckRanges = s.ckRanges := rfl
@[simp] theorem State.setSlot_ckWants (s : State) (g : Nat) (x : Slot) : (s.setSlot g x).ckWants = s.ckWants := rfl
@[simp] theorem State.setSlot_ckDone (s : State) (g : Nat) (x : Slot) : (s.setSlot g x).ckDone = s.ckDone := rfl
@[simp] theorem State.setSlot_sched (s : State) (g : Nat) (x : Slot) : (s.setSlot g x).sched = s.sched := rfl
@[simp] theorem State.setSlot_cut (s : State) (g : Nat) (x : Slot) : (s.setSlot g x).cut = s.cut := rfl
@[simp] theorem State.setSlot_tier (s : State) (g : Nat) (x : Slot) : (s.setSlot g x).tier = s.tier := rfl

@[simp] theorem State.modSlot_cycle (s : State) (g : Nat) (f : Slot → Slot) : (s.modSlot g f).cycle = s.cycle := rfl
@[simp] theorem State.modSlot_fresh (s : State) (g : Nat) (f : Slot → Slot) : (s.modSlot g f).fresh = s.fresh := rfl
@[simp] theorem State.modSlot_miss (s : State) (g : Nat) (f : Slot → Slot) : (s.modSlot g f).miss = s.miss := rfl
@[simp] theorem State.modSlot_cur (s : State) (g : Nat) (f : Slot → Slot) : (s.modSlot g f).cur = s.cur := rfl
@[simp] theorem State.modSlot_nextId (s : State) (g : Nat) (f : Slot → Slot) : (s.modSlot g f).nextId = s.nextId := rfl
@[simp] theorem State.modSlot_mem (s : State) (g : Nat) (f : Slot → Slot) : (s.modSlot g f).mem = s.mem := rfl
@[simp] theorem State.modSlot_poison (s : State) (g : Nat) (f : Slot → Slot) : (s.modSlot g f).poison = s.poison := rfl
@[simp] theorem State.modSlot_cores (s : State) (g : Nat) (f : Slot → Slot) : (s.modSlot g f).cores = s.cores := rfl
@[simp] theorem State.modSlot_clusters (s : State) (g : Nat) (f : Slot → Slot) : (s.modSlot g f).clusters = s.clusters := rfl
@[simp] theorem State.modSlot_dies (s : State) (g : Nat) (f : Slot → Slot) : (s.modSlot g f).dies = s.dies := rfl
@[simp] theorem State.modSlot_ports (s : State) (g : Nat) (f : Slot → Slot) : (s.modSlot g f).ports = s.ports := rfl
@[simp] theorem State.modSlot_links (s : State) (g : Nat) (f : Slot → Slot) : (s.modSlot g f).links = s.links := rfl
@[simp] theorem State.modSlot_hostQueues (s : State) (g : Nat) (f : Slot → Slot) : (s.modSlot g f).hostQueues = s.hostQueues := rfl
@[simp] theorem State.modSlot_loads (s : State) (g : Nat) (f : Slot → Slot) : (s.modSlot g f).loads = s.loads := rfl
@[simp] theorem State.modSlot_out (s : State) (g : Nat) (f : Slot → Slot) : (s.modSlot g f).out = s.out := rfl
@[simp] theorem State.modSlot_amos (s : State) (g : Nat) (f : Slot → Slot) : (s.modSlot g f).amos = s.amos := rfl
@[simp] theorem State.modSlot_chains (s : State) (g : Nat) (f : Slot → Slot) : (s.modSlot g f).chains = s.chains := rfl
@[simp] theorem State.modSlot_nameOps (s : State) (g : Nat) (f : Slot → Slot) : (s.modSlot g f).nameOps = s.nameOps := rfl
@[simp] theorem State.modSlot_shoots (s : State) (g : Nat) (f : Slot → Slot) : (s.modSlot g f).shoots = s.shoots := rfl
@[simp] theorem State.modSlot_spawns (s : State) (g : Nat) (f : Slot → Slot) : (s.modSlot g f).spawns = s.spawns := rfl
@[simp] theorem State.modSlot_sends (s : State) (g : Nat) (f : Slot → Slot) : (s.modSlot g f).sends = s.sends := rfl
@[simp] theorem State.modSlot_notes (s : State) (g : Nat) (f : Slot → Slot) : (s.modSlot g f).notes = s.notes := rfl
@[simp] theorem State.modSlot_parks (s : State) (g : Nat) (f : Slot → Slot) : (s.modSlot g f).parks = s.parks := rfl
@[simp] theorem State.modSlot_contribs (s : State) (g : Nat) (f : Slot → Slot) : (s.modSlot g f).contribs = s.contribs := rfl
@[simp] theorem State.modSlot_parked (s : State) (g : Nat) (f : Slot → Slot) : (s.modSlot g f).parked = s.parked := rfl
@[simp] theorem State.modSlot_graph (s : State) (g : Nat) (f : Slot → Slot) : (s.modSlot g f).graph = s.graph := rfl
@[simp] theorem State.modSlot_grSeen (s : State) (g : Nat) (f : Slot → Slot) : (s.modSlot g f).grSeen = s.grSeen := rfl
@[simp] theorem State.modSlot_trapped (s : State) (g : Nat) (f : Slot → Slot) : (s.modSlot g f).trapped = s.trapped := rfl
@[simp] theorem State.modSlot_names (s : State) (g : Nat) (f : Slot → Slot) : (s.modSlot g f).names = s.names := rfl
@[simp] theorem State.modSlot_births (s : State) (g : Nat) (f : Slot → Slot) : (s.modSlot g f).births = s.births := rfl
@[simp] theorem State.modSlot_deaths (s : State) (g : Nat) (f : Slot → Slot) : (s.modSlot g f).deaths = s.deaths := rfl
@[simp] theorem State.modSlot_hostOut (s : State) (g : Nat) (f : Slot → Slot) : (s.modSlot g f).hostOut = s.hostOut := rfl
@[simp] theorem State.modSlot_hostRead (s : State) (g : Nat) (f : Slot → Slot) : (s.modSlot g f).hostRead = s.hostRead := rfl
@[simp] theorem State.modSlot_barriers (s : State) (g : Nat) (f : Slot → Slot) : (s.modSlot g f).barriers = s.barriers := rfl
@[simp] theorem State.modSlot_skeins (s : State) (g : Nat) (f : Slot → Slot) : (s.modSlot g f).skeins = s.skeins := rfl
@[simp] theorem State.modSlot_bindings (s : State) (g : Nat) (f : Slot → Slot) : (s.modSlot g f).bindings = s.bindings := rfl
@[simp] theorem State.modSlot_rel (s : State) (g : Nat) (f : Slot → Slot) : (s.modSlot g f).rel = s.rel := rfl
@[simp] theorem State.modSlot_ksyncs (s : State) (g : Nat) (f : Slot → Slot) : (s.modSlot g f).ksyncs = s.ksyncs := rfl
@[simp] theorem State.modSlot_killing (s : State) (g : Nat) (f : Slot → Slot) : (s.modSlot g f).killing = s.killing := rfl
@[simp] theorem State.modSlot_killWaits (s : State) (g : Nat) (f : Slot → Slot) : (s.modSlot g f).killWaits = s.killWaits := rfl
@[simp] theorem State.modSlot_lastKill (s : State) (g : Nat) (f : Slot → Slot) : (s.modSlot g f).lastKill = s.lastKill := rfl
@[simp] theorem State.modSlot_serialNext (s : State) (g : Nat) (f : Slot → Slot) : (s.modSlot g f).serialNext = s.serialNext := rfl
@[simp] theorem State.modSlot_serialEnd (s : State) (g : Nat) (f : Slot → Slot) : (s.modSlot g f).serialEnd = s.serialEnd := rfl
@[simp] theorem State.modSlot_serialFail (s : State) (g : Nat) (f : Slot → Slot) : (s.modSlot g f).serialFail = s.serialFail := rfl
@[simp] theorem State.modSlot_durable (s : State) (g : Nat) (f : Slot → Slot) : (s.modSlot g f).durable = s.durable := rfl
@[simp] theorem State.modSlot_bringUp (s : State) (g : Nat) (f : Slot → Slot) : (s.modSlot g f).bringUp = s.bringUp := rfl
@[simp] theorem State.modSlot_loaderNext (s : State) (g : Nat) (f : Slot → Slot) : (s.modSlot g f).loaderNext = s.loaderNext := rfl
@[simp] theorem State.modSlot_ckRound (s : State) (g : Nat) (f : Slot → Slot) : (s.modSlot g f).ckRound = s.ckRound := rfl
@[simp] theorem State.modSlot_ckWaiting (s : State) (g : Nat) (f : Slot → Slot) : (s.modSlot g f).ckWaiting = s.ckWaiting := rfl
@[simp] theorem State.modSlot_ckRanges (s : State) (g : Nat) (f : Slot → Slot) : (s.modSlot g f).ckRanges = s.ckRanges := rfl
@[simp] theorem State.modSlot_ckWants (s : State) (g : Nat) (f : Slot → Slot) : (s.modSlot g f).ckWants = s.ckWants := rfl
@[simp] theorem State.modSlot_ckDone (s : State) (g : Nat) (f : Slot → Slot) : (s.modSlot g f).ckDone = s.ckDone := rfl
@[simp] theorem State.modSlot_sched (s : State) (g : Nat) (f : Slot → Slot) : (s.modSlot g f).sched = s.sched := rfl
@[simp] theorem State.modSlot_cut (s : State) (g : Nat) (f : Slot → Slot) : (s.modSlot g f).cut = s.cut := rfl
@[simp] theorem State.modSlot_tier (s : State) (g : Nat) (f : Slot → Slot) : (s.modSlot g f).tier = s.tier := rfl

@[simp] theorem State.modMe_cycle (s : State) (f : Slot → Slot) : (s.modMe f).cycle = s.cycle := rfl
@[simp] theorem State.modMe_fresh (s : State) (f : Slot → Slot) : (s.modMe f).fresh = s.fresh := rfl
@[simp] theorem State.modMe_miss (s : State) (f : Slot → Slot) : (s.modMe f).miss = s.miss := rfl
@[simp] theorem State.modMe_cur (s : State) (f : Slot → Slot) : (s.modMe f).cur = s.cur := rfl
@[simp] theorem State.modMe_nextId (s : State) (f : Slot → Slot) : (s.modMe f).nextId = s.nextId := rfl
@[simp] theorem State.modMe_mem (s : State) (f : Slot → Slot) : (s.modMe f).mem = s.mem := rfl
@[simp] theorem State.modMe_poison (s : State) (f : Slot → Slot) : (s.modMe f).poison = s.poison := rfl
@[simp] theorem State.modMe_cores (s : State) (f : Slot → Slot) : (s.modMe f).cores = s.cores := rfl
@[simp] theorem State.modMe_clusters (s : State) (f : Slot → Slot) : (s.modMe f).clusters = s.clusters := rfl
@[simp] theorem State.modMe_dies (s : State) (f : Slot → Slot) : (s.modMe f).dies = s.dies := rfl
@[simp] theorem State.modMe_ports (s : State) (f : Slot → Slot) : (s.modMe f).ports = s.ports := rfl
@[simp] theorem State.modMe_links (s : State) (f : Slot → Slot) : (s.modMe f).links = s.links := rfl
@[simp] theorem State.modMe_hostQueues (s : State) (f : Slot → Slot) : (s.modMe f).hostQueues = s.hostQueues := rfl
@[simp] theorem State.modMe_loads (s : State) (f : Slot → Slot) : (s.modMe f).loads = s.loads := rfl
@[simp] theorem State.modMe_out (s : State) (f : Slot → Slot) : (s.modMe f).out = s.out := rfl
@[simp] theorem State.modMe_amos (s : State) (f : Slot → Slot) : (s.modMe f).amos = s.amos := rfl
@[simp] theorem State.modMe_chains (s : State) (f : Slot → Slot) : (s.modMe f).chains = s.chains := rfl
@[simp] theorem State.modMe_nameOps (s : State) (f : Slot → Slot) : (s.modMe f).nameOps = s.nameOps := rfl
@[simp] theorem State.modMe_shoots (s : State) (f : Slot → Slot) : (s.modMe f).shoots = s.shoots := rfl
@[simp] theorem State.modMe_spawns (s : State) (f : Slot → Slot) : (s.modMe f).spawns = s.spawns := rfl
@[simp] theorem State.modMe_sends (s : State) (f : Slot → Slot) : (s.modMe f).sends = s.sends := rfl
@[simp] theorem State.modMe_notes (s : State) (f : Slot → Slot) : (s.modMe f).notes = s.notes := rfl
@[simp] theorem State.modMe_parks (s : State) (f : Slot → Slot) : (s.modMe f).parks = s.parks := rfl
@[simp] theorem State.modMe_contribs (s : State) (f : Slot → Slot) : (s.modMe f).contribs = s.contribs := rfl
@[simp] theorem State.modMe_parked (s : State) (f : Slot → Slot) : (s.modMe f).parked = s.parked := rfl
@[simp] theorem State.modMe_graph (s : State) (f : Slot → Slot) : (s.modMe f).graph = s.graph := rfl
@[simp] theorem State.modMe_grSeen (s : State) (f : Slot → Slot) : (s.modMe f).grSeen = s.grSeen := rfl
@[simp] theorem State.modMe_trapped (s : State) (f : Slot → Slot) : (s.modMe f).trapped = s.trapped := rfl
@[simp] theorem State.modMe_names (s : State) (f : Slot → Slot) : (s.modMe f).names = s.names := rfl
@[simp] theorem State.modMe_births (s : State) (f : Slot → Slot) : (s.modMe f).births = s.births := rfl
@[simp] theorem State.modMe_deaths (s : State) (f : Slot → Slot) : (s.modMe f).deaths = s.deaths := rfl
@[simp] theorem State.modMe_hostOut (s : State) (f : Slot → Slot) : (s.modMe f).hostOut = s.hostOut := rfl
@[simp] theorem State.modMe_hostRead (s : State) (f : Slot → Slot) : (s.modMe f).hostRead = s.hostRead := rfl
@[simp] theorem State.modMe_barriers (s : State) (f : Slot → Slot) : (s.modMe f).barriers = s.barriers := rfl
@[simp] theorem State.modMe_skeins (s : State) (f : Slot → Slot) : (s.modMe f).skeins = s.skeins := rfl
@[simp] theorem State.modMe_bindings (s : State) (f : Slot → Slot) : (s.modMe f).bindings = s.bindings := rfl
@[simp] theorem State.modMe_rel (s : State) (f : Slot → Slot) : (s.modMe f).rel = s.rel := rfl
@[simp] theorem State.modMe_ksyncs (s : State) (f : Slot → Slot) : (s.modMe f).ksyncs = s.ksyncs := rfl
@[simp] theorem State.modMe_killing (s : State) (f : Slot → Slot) : (s.modMe f).killing = s.killing := rfl
@[simp] theorem State.modMe_killWaits (s : State) (f : Slot → Slot) : (s.modMe f).killWaits = s.killWaits := rfl
@[simp] theorem State.modMe_lastKill (s : State) (f : Slot → Slot) : (s.modMe f).lastKill = s.lastKill := rfl
@[simp] theorem State.modMe_serialNext (s : State) (f : Slot → Slot) : (s.modMe f).serialNext = s.serialNext := rfl
@[simp] theorem State.modMe_serialEnd (s : State) (f : Slot → Slot) : (s.modMe f).serialEnd = s.serialEnd := rfl
@[simp] theorem State.modMe_serialFail (s : State) (f : Slot → Slot) : (s.modMe f).serialFail = s.serialFail := rfl
@[simp] theorem State.modMe_durable (s : State) (f : Slot → Slot) : (s.modMe f).durable = s.durable := rfl
@[simp] theorem State.modMe_bringUp (s : State) (f : Slot → Slot) : (s.modMe f).bringUp = s.bringUp := rfl
@[simp] theorem State.modMe_loaderNext (s : State) (f : Slot → Slot) : (s.modMe f).loaderNext = s.loaderNext := rfl
@[simp] theorem State.modMe_ckRound (s : State) (f : Slot → Slot) : (s.modMe f).ckRound = s.ckRound := rfl
@[simp] theorem State.modMe_ckWaiting (s : State) (f : Slot → Slot) : (s.modMe f).ckWaiting = s.ckWaiting := rfl
@[simp] theorem State.modMe_ckRanges (s : State) (f : Slot → Slot) : (s.modMe f).ckRanges = s.ckRanges := rfl
@[simp] theorem State.modMe_ckWants (s : State) (f : Slot → Slot) : (s.modMe f).ckWants = s.ckWants := rfl
@[simp] theorem State.modMe_ckDone (s : State) (f : Slot → Slot) : (s.modMe f).ckDone = s.ckDone := rfl
@[simp] theorem State.modMe_sched (s : State) (f : Slot → Slot) : (s.modMe f).sched = s.sched := rfl
@[simp] theorem State.modMe_cut (s : State) (f : Slot → Slot) : (s.modMe f).cut = s.cut := rfl
@[simp] theorem State.modMe_tier (s : State) (f : Slot → Slot) : (s.modMe f).tier = s.tier := rfl

@[simp] theorem State.modCore_cycle (s : State) (c : Nat) (f : Core → Core) : (s.modCore c f).cycle = s.cycle := rfl
@[simp] theorem State.modCore_fresh (s : State) (c : Nat) (f : Core → Core) : (s.modCore c f).fresh = s.fresh := rfl
@[simp] theorem State.modCore_miss (s : State) (c : Nat) (f : Core → Core) : (s.modCore c f).miss = s.miss := rfl
@[simp] theorem State.modCore_cur (s : State) (c : Nat) (f : Core → Core) : (s.modCore c f).cur = s.cur := rfl
@[simp] theorem State.modCore_nextId (s : State) (c : Nat) (f : Core → Core) : (s.modCore c f).nextId = s.nextId := rfl
@[simp] theorem State.modCore_mem (s : State) (c : Nat) (f : Core → Core) : (s.modCore c f).mem = s.mem := rfl
@[simp] theorem State.modCore_poison (s : State) (c : Nat) (f : Core → Core) : (s.modCore c f).poison = s.poison := rfl
@[simp] theorem State.modCore_slots (s : State) (c : Nat) (f : Core → Core) : (s.modCore c f).slots = s.slots := rfl
@[simp] theorem State.modCore_clusters (s : State) (c : Nat) (f : Core → Core) : (s.modCore c f).clusters = s.clusters := rfl
@[simp] theorem State.modCore_dies (s : State) (c : Nat) (f : Core → Core) : (s.modCore c f).dies = s.dies := rfl
@[simp] theorem State.modCore_ports (s : State) (c : Nat) (f : Core → Core) : (s.modCore c f).ports = s.ports := rfl
@[simp] theorem State.modCore_links (s : State) (c : Nat) (f : Core → Core) : (s.modCore c f).links = s.links := rfl
@[simp] theorem State.modCore_hostQueues (s : State) (c : Nat) (f : Core → Core) : (s.modCore c f).hostQueues = s.hostQueues := rfl
@[simp] theorem State.modCore_loads (s : State) (c : Nat) (f : Core → Core) : (s.modCore c f).loads = s.loads := rfl
@[simp] theorem State.modCore_out (s : State) (c : Nat) (f : Core → Core) : (s.modCore c f).out = s.out := rfl
@[simp] theorem State.modCore_amos (s : State) (c : Nat) (f : Core → Core) : (s.modCore c f).amos = s.amos := rfl
@[simp] theorem State.modCore_chains (s : State) (c : Nat) (f : Core → Core) : (s.modCore c f).chains = s.chains := rfl
@[simp] theorem State.modCore_nameOps (s : State) (c : Nat) (f : Core → Core) : (s.modCore c f).nameOps = s.nameOps := rfl
@[simp] theorem State.modCore_shoots (s : State) (c : Nat) (f : Core → Core) : (s.modCore c f).shoots = s.shoots := rfl
@[simp] theorem State.modCore_spawns (s : State) (c : Nat) (f : Core → Core) : (s.modCore c f).spawns = s.spawns := rfl
@[simp] theorem State.modCore_sends (s : State) (c : Nat) (f : Core → Core) : (s.modCore c f).sends = s.sends := rfl
@[simp] theorem State.modCore_notes (s : State) (c : Nat) (f : Core → Core) : (s.modCore c f).notes = s.notes := rfl
@[simp] theorem State.modCore_parks (s : State) (c : Nat) (f : Core → Core) : (s.modCore c f).parks = s.parks := rfl
@[simp] theorem State.modCore_contribs (s : State) (c : Nat) (f : Core → Core) : (s.modCore c f).contribs = s.contribs := rfl
@[simp] theorem State.modCore_parked (s : State) (c : Nat) (f : Core → Core) : (s.modCore c f).parked = s.parked := rfl
@[simp] theorem State.modCore_graph (s : State) (c : Nat) (f : Core → Core) : (s.modCore c f).graph = s.graph := rfl
@[simp] theorem State.modCore_grSeen (s : State) (c : Nat) (f : Core → Core) : (s.modCore c f).grSeen = s.grSeen := rfl
@[simp] theorem State.modCore_trapped (s : State) (c : Nat) (f : Core → Core) : (s.modCore c f).trapped = s.trapped := rfl
@[simp] theorem State.modCore_names (s : State) (c : Nat) (f : Core → Core) : (s.modCore c f).names = s.names := rfl
@[simp] theorem State.modCore_births (s : State) (c : Nat) (f : Core → Core) : (s.modCore c f).births = s.births := rfl
@[simp] theorem State.modCore_deaths (s : State) (c : Nat) (f : Core → Core) : (s.modCore c f).deaths = s.deaths := rfl
@[simp] theorem State.modCore_hostOut (s : State) (c : Nat) (f : Core → Core) : (s.modCore c f).hostOut = s.hostOut := rfl
@[simp] theorem State.modCore_hostRead (s : State) (c : Nat) (f : Core → Core) : (s.modCore c f).hostRead = s.hostRead := rfl
@[simp] theorem State.modCore_barriers (s : State) (c : Nat) (f : Core → Core) : (s.modCore c f).barriers = s.barriers := rfl
@[simp] theorem State.modCore_skeins (s : State) (c : Nat) (f : Core → Core) : (s.modCore c f).skeins = s.skeins := rfl
@[simp] theorem State.modCore_bindings (s : State) (c : Nat) (f : Core → Core) : (s.modCore c f).bindings = s.bindings := rfl
@[simp] theorem State.modCore_rel (s : State) (c : Nat) (f : Core → Core) : (s.modCore c f).rel = s.rel := rfl
@[simp] theorem State.modCore_ksyncs (s : State) (c : Nat) (f : Core → Core) : (s.modCore c f).ksyncs = s.ksyncs := rfl
@[simp] theorem State.modCore_killing (s : State) (c : Nat) (f : Core → Core) : (s.modCore c f).killing = s.killing := rfl
@[simp] theorem State.modCore_killWaits (s : State) (c : Nat) (f : Core → Core) : (s.modCore c f).killWaits = s.killWaits := rfl
@[simp] theorem State.modCore_lastKill (s : State) (c : Nat) (f : Core → Core) : (s.modCore c f).lastKill = s.lastKill := rfl
@[simp] theorem State.modCore_serialNext (s : State) (c : Nat) (f : Core → Core) : (s.modCore c f).serialNext = s.serialNext := rfl
@[simp] theorem State.modCore_serialEnd (s : State) (c : Nat) (f : Core → Core) : (s.modCore c f).serialEnd = s.serialEnd := rfl
@[simp] theorem State.modCore_serialFail (s : State) (c : Nat) (f : Core → Core) : (s.modCore c f).serialFail = s.serialFail := rfl
@[simp] theorem State.modCore_durable (s : State) (c : Nat) (f : Core → Core) : (s.modCore c f).durable = s.durable := rfl
@[simp] theorem State.modCore_bringUp (s : State) (c : Nat) (f : Core → Core) : (s.modCore c f).bringUp = s.bringUp := rfl
@[simp] theorem State.modCore_loaderNext (s : State) (c : Nat) (f : Core → Core) : (s.modCore c f).loaderNext = s.loaderNext := rfl
@[simp] theorem State.modCore_ckRound (s : State) (c : Nat) (f : Core → Core) : (s.modCore c f).ckRound = s.ckRound := rfl
@[simp] theorem State.modCore_ckWaiting (s : State) (c : Nat) (f : Core → Core) : (s.modCore c f).ckWaiting = s.ckWaiting := rfl
@[simp] theorem State.modCore_ckRanges (s : State) (c : Nat) (f : Core → Core) : (s.modCore c f).ckRanges = s.ckRanges := rfl
@[simp] theorem State.modCore_ckWants (s : State) (c : Nat) (f : Core → Core) : (s.modCore c f).ckWants = s.ckWants := rfl
@[simp] theorem State.modCore_ckDone (s : State) (c : Nat) (f : Core → Core) : (s.modCore c f).ckDone = s.ckDone := rfl
@[simp] theorem State.modCore_sched (s : State) (c : Nat) (f : Core → Core) : (s.modCore c f).sched = s.sched := rfl
@[simp] theorem State.modCore_cut (s : State) (c : Nat) (f : Core → Core) : (s.modCore c f).cut = s.cut := rfl
@[simp] theorem State.modCore_tier (s : State) (c : Nat) (f : Core → Core) : (s.modCore c f).tier = s.tier := rfl

@[simp] theorem State.modCluster_cycle (s : State) (k : Nat) (f : Cluster → Cluster) : (s.modCluster k f).cycle = s.cycle := rfl
@[simp] theorem State.modCluster_fresh (s : State) (k : Nat) (f : Cluster → Cluster) : (s.modCluster k f).fresh = s.fresh := rfl
@[simp] theorem State.modCluster_miss (s : State) (k : Nat) (f : Cluster → Cluster) : (s.modCluster k f).miss = s.miss := rfl
@[simp] theorem State.modCluster_cur (s : State) (k : Nat) (f : Cluster → Cluster) : (s.modCluster k f).cur = s.cur := rfl
@[simp] theorem State.modCluster_nextId (s : State) (k : Nat) (f : Cluster → Cluster) : (s.modCluster k f).nextId = s.nextId := rfl
@[simp] theorem State.modCluster_mem (s : State) (k : Nat) (f : Cluster → Cluster) : (s.modCluster k f).mem = s.mem := rfl
@[simp] theorem State.modCluster_poison (s : State) (k : Nat) (f : Cluster → Cluster) : (s.modCluster k f).poison = s.poison := rfl
@[simp] theorem State.modCluster_slots (s : State) (k : Nat) (f : Cluster → Cluster) : (s.modCluster k f).slots = s.slots := rfl
@[simp] theorem State.modCluster_cores (s : State) (k : Nat) (f : Cluster → Cluster) : (s.modCluster k f).cores = s.cores := rfl
@[simp] theorem State.modCluster_dies (s : State) (k : Nat) (f : Cluster → Cluster) : (s.modCluster k f).dies = s.dies := rfl
@[simp] theorem State.modCluster_ports (s : State) (k : Nat) (f : Cluster → Cluster) : (s.modCluster k f).ports = s.ports := rfl
@[simp] theorem State.modCluster_links (s : State) (k : Nat) (f : Cluster → Cluster) : (s.modCluster k f).links = s.links := rfl
@[simp] theorem State.modCluster_hostQueues (s : State) (k : Nat) (f : Cluster → Cluster) : (s.modCluster k f).hostQueues = s.hostQueues := rfl
@[simp] theorem State.modCluster_loads (s : State) (k : Nat) (f : Cluster → Cluster) : (s.modCluster k f).loads = s.loads := rfl
@[simp] theorem State.modCluster_out (s : State) (k : Nat) (f : Cluster → Cluster) : (s.modCluster k f).out = s.out := rfl
@[simp] theorem State.modCluster_amos (s : State) (k : Nat) (f : Cluster → Cluster) : (s.modCluster k f).amos = s.amos := rfl
@[simp] theorem State.modCluster_chains (s : State) (k : Nat) (f : Cluster → Cluster) : (s.modCluster k f).chains = s.chains := rfl
@[simp] theorem State.modCluster_nameOps (s : State) (k : Nat) (f : Cluster → Cluster) : (s.modCluster k f).nameOps = s.nameOps := rfl
@[simp] theorem State.modCluster_shoots (s : State) (k : Nat) (f : Cluster → Cluster) : (s.modCluster k f).shoots = s.shoots := rfl
@[simp] theorem State.modCluster_spawns (s : State) (k : Nat) (f : Cluster → Cluster) : (s.modCluster k f).spawns = s.spawns := rfl
@[simp] theorem State.modCluster_sends (s : State) (k : Nat) (f : Cluster → Cluster) : (s.modCluster k f).sends = s.sends := rfl
@[simp] theorem State.modCluster_notes (s : State) (k : Nat) (f : Cluster → Cluster) : (s.modCluster k f).notes = s.notes := rfl
@[simp] theorem State.modCluster_parks (s : State) (k : Nat) (f : Cluster → Cluster) : (s.modCluster k f).parks = s.parks := rfl
@[simp] theorem State.modCluster_contribs (s : State) (k : Nat) (f : Cluster → Cluster) : (s.modCluster k f).contribs = s.contribs := rfl
@[simp] theorem State.modCluster_parked (s : State) (k : Nat) (f : Cluster → Cluster) : (s.modCluster k f).parked = s.parked := rfl
@[simp] theorem State.modCluster_graph (s : State) (k : Nat) (f : Cluster → Cluster) : (s.modCluster k f).graph = s.graph := rfl
@[simp] theorem State.modCluster_grSeen (s : State) (k : Nat) (f : Cluster → Cluster) : (s.modCluster k f).grSeen = s.grSeen := rfl
@[simp] theorem State.modCluster_trapped (s : State) (k : Nat) (f : Cluster → Cluster) : (s.modCluster k f).trapped = s.trapped := rfl
@[simp] theorem State.modCluster_names (s : State) (k : Nat) (f : Cluster → Cluster) : (s.modCluster k f).names = s.names := rfl
@[simp] theorem State.modCluster_births (s : State) (k : Nat) (f : Cluster → Cluster) : (s.modCluster k f).births = s.births := rfl
@[simp] theorem State.modCluster_deaths (s : State) (k : Nat) (f : Cluster → Cluster) : (s.modCluster k f).deaths = s.deaths := rfl
@[simp] theorem State.modCluster_hostOut (s : State) (k : Nat) (f : Cluster → Cluster) : (s.modCluster k f).hostOut = s.hostOut := rfl
@[simp] theorem State.modCluster_hostRead (s : State) (k : Nat) (f : Cluster → Cluster) : (s.modCluster k f).hostRead = s.hostRead := rfl
@[simp] theorem State.modCluster_barriers (s : State) (k : Nat) (f : Cluster → Cluster) : (s.modCluster k f).barriers = s.barriers := rfl
@[simp] theorem State.modCluster_skeins (s : State) (k : Nat) (f : Cluster → Cluster) : (s.modCluster k f).skeins = s.skeins := rfl
@[simp] theorem State.modCluster_bindings (s : State) (k : Nat) (f : Cluster → Cluster) : (s.modCluster k f).bindings = s.bindings := rfl
@[simp] theorem State.modCluster_rel (s : State) (k : Nat) (f : Cluster → Cluster) : (s.modCluster k f).rel = s.rel := rfl
@[simp] theorem State.modCluster_ksyncs (s : State) (k : Nat) (f : Cluster → Cluster) : (s.modCluster k f).ksyncs = s.ksyncs := rfl
@[simp] theorem State.modCluster_killing (s : State) (k : Nat) (f : Cluster → Cluster) : (s.modCluster k f).killing = s.killing := rfl
@[simp] theorem State.modCluster_killWaits (s : State) (k : Nat) (f : Cluster → Cluster) : (s.modCluster k f).killWaits = s.killWaits := rfl
@[simp] theorem State.modCluster_lastKill (s : State) (k : Nat) (f : Cluster → Cluster) : (s.modCluster k f).lastKill = s.lastKill := rfl
@[simp] theorem State.modCluster_serialNext (s : State) (k : Nat) (f : Cluster → Cluster) : (s.modCluster k f).serialNext = s.serialNext := rfl
@[simp] theorem State.modCluster_serialEnd (s : State) (k : Nat) (f : Cluster → Cluster) : (s.modCluster k f).serialEnd = s.serialEnd := rfl
@[simp] theorem State.modCluster_serialFail (s : State) (k : Nat) (f : Cluster → Cluster) : (s.modCluster k f).serialFail = s.serialFail := rfl
@[simp] theorem State.modCluster_durable (s : State) (k : Nat) (f : Cluster → Cluster) : (s.modCluster k f).durable = s.durable := rfl
@[simp] theorem State.modCluster_bringUp (s : State) (k : Nat) (f : Cluster → Cluster) : (s.modCluster k f).bringUp = s.bringUp := rfl
@[simp] theorem State.modCluster_loaderNext (s : State) (k : Nat) (f : Cluster → Cluster) : (s.modCluster k f).loaderNext = s.loaderNext := rfl
@[simp] theorem State.modCluster_ckRound (s : State) (k : Nat) (f : Cluster → Cluster) : (s.modCluster k f).ckRound = s.ckRound := rfl
@[simp] theorem State.modCluster_ckWaiting (s : State) (k : Nat) (f : Cluster → Cluster) : (s.modCluster k f).ckWaiting = s.ckWaiting := rfl
@[simp] theorem State.modCluster_ckRanges (s : State) (k : Nat) (f : Cluster → Cluster) : (s.modCluster k f).ckRanges = s.ckRanges := rfl
@[simp] theorem State.modCluster_ckWants (s : State) (k : Nat) (f : Cluster → Cluster) : (s.modCluster k f).ckWants = s.ckWants := rfl
@[simp] theorem State.modCluster_ckDone (s : State) (k : Nat) (f : Cluster → Cluster) : (s.modCluster k f).ckDone = s.ckDone := rfl
@[simp] theorem State.modCluster_sched (s : State) (k : Nat) (f : Cluster → Cluster) : (s.modCluster k f).sched = s.sched := rfl
@[simp] theorem State.modCluster_cut (s : State) (k : Nat) (f : Cluster → Cluster) : (s.modCluster k f).cut = s.cut := rfl
@[simp] theorem State.modCluster_tier (s : State) (k : Nat) (f : Cluster → Cluster) : (s.modCluster k f).tier = s.tier := rfl

@[simp] theorem State.modDie_cycle (s : State) (d : Nat) (f : Die → Die) : (s.modDie d f).cycle = s.cycle := rfl
@[simp] theorem State.modDie_fresh (s : State) (d : Nat) (f : Die → Die) : (s.modDie d f).fresh = s.fresh := rfl
@[simp] theorem State.modDie_miss (s : State) (d : Nat) (f : Die → Die) : (s.modDie d f).miss = s.miss := rfl
@[simp] theorem State.modDie_cur (s : State) (d : Nat) (f : Die → Die) : (s.modDie d f).cur = s.cur := rfl
@[simp] theorem State.modDie_nextId (s : State) (d : Nat) (f : Die → Die) : (s.modDie d f).nextId = s.nextId := rfl
@[simp] theorem State.modDie_mem (s : State) (d : Nat) (f : Die → Die) : (s.modDie d f).mem = s.mem := rfl
@[simp] theorem State.modDie_poison (s : State) (d : Nat) (f : Die → Die) : (s.modDie d f).poison = s.poison := rfl
@[simp] theorem State.modDie_slots (s : State) (d : Nat) (f : Die → Die) : (s.modDie d f).slots = s.slots := rfl
@[simp] theorem State.modDie_cores (s : State) (d : Nat) (f : Die → Die) : (s.modDie d f).cores = s.cores := rfl
@[simp] theorem State.modDie_clusters (s : State) (d : Nat) (f : Die → Die) : (s.modDie d f).clusters = s.clusters := rfl
@[simp] theorem State.modDie_ports (s : State) (d : Nat) (f : Die → Die) : (s.modDie d f).ports = s.ports := rfl
@[simp] theorem State.modDie_links (s : State) (d : Nat) (f : Die → Die) : (s.modDie d f).links = s.links := rfl
@[simp] theorem State.modDie_hostQueues (s : State) (d : Nat) (f : Die → Die) : (s.modDie d f).hostQueues = s.hostQueues := rfl
@[simp] theorem State.modDie_loads (s : State) (d : Nat) (f : Die → Die) : (s.modDie d f).loads = s.loads := rfl
@[simp] theorem State.modDie_out (s : State) (d : Nat) (f : Die → Die) : (s.modDie d f).out = s.out := rfl
@[simp] theorem State.modDie_amos (s : State) (d : Nat) (f : Die → Die) : (s.modDie d f).amos = s.amos := rfl
@[simp] theorem State.modDie_chains (s : State) (d : Nat) (f : Die → Die) : (s.modDie d f).chains = s.chains := rfl
@[simp] theorem State.modDie_nameOps (s : State) (d : Nat) (f : Die → Die) : (s.modDie d f).nameOps = s.nameOps := rfl
@[simp] theorem State.modDie_shoots (s : State) (d : Nat) (f : Die → Die) : (s.modDie d f).shoots = s.shoots := rfl
@[simp] theorem State.modDie_spawns (s : State) (d : Nat) (f : Die → Die) : (s.modDie d f).spawns = s.spawns := rfl
@[simp] theorem State.modDie_sends (s : State) (d : Nat) (f : Die → Die) : (s.modDie d f).sends = s.sends := rfl
@[simp] theorem State.modDie_notes (s : State) (d : Nat) (f : Die → Die) : (s.modDie d f).notes = s.notes := rfl
@[simp] theorem State.modDie_parks (s : State) (d : Nat) (f : Die → Die) : (s.modDie d f).parks = s.parks := rfl
@[simp] theorem State.modDie_contribs (s : State) (d : Nat) (f : Die → Die) : (s.modDie d f).contribs = s.contribs := rfl
@[simp] theorem State.modDie_parked (s : State) (d : Nat) (f : Die → Die) : (s.modDie d f).parked = s.parked := rfl
@[simp] theorem State.modDie_graph (s : State) (d : Nat) (f : Die → Die) : (s.modDie d f).graph = s.graph := rfl
@[simp] theorem State.modDie_grSeen (s : State) (d : Nat) (f : Die → Die) : (s.modDie d f).grSeen = s.grSeen := rfl
@[simp] theorem State.modDie_trapped (s : State) (d : Nat) (f : Die → Die) : (s.modDie d f).trapped = s.trapped := rfl
@[simp] theorem State.modDie_names (s : State) (d : Nat) (f : Die → Die) : (s.modDie d f).names = s.names := rfl
@[simp] theorem State.modDie_births (s : State) (d : Nat) (f : Die → Die) : (s.modDie d f).births = s.births := rfl
@[simp] theorem State.modDie_deaths (s : State) (d : Nat) (f : Die → Die) : (s.modDie d f).deaths = s.deaths := rfl
@[simp] theorem State.modDie_hostOut (s : State) (d : Nat) (f : Die → Die) : (s.modDie d f).hostOut = s.hostOut := rfl
@[simp] theorem State.modDie_hostRead (s : State) (d : Nat) (f : Die → Die) : (s.modDie d f).hostRead = s.hostRead := rfl
@[simp] theorem State.modDie_barriers (s : State) (d : Nat) (f : Die → Die) : (s.modDie d f).barriers = s.barriers := rfl
@[simp] theorem State.modDie_skeins (s : State) (d : Nat) (f : Die → Die) : (s.modDie d f).skeins = s.skeins := rfl
@[simp] theorem State.modDie_bindings (s : State) (d : Nat) (f : Die → Die) : (s.modDie d f).bindings = s.bindings := rfl
@[simp] theorem State.modDie_rel (s : State) (d : Nat) (f : Die → Die) : (s.modDie d f).rel = s.rel := rfl
@[simp] theorem State.modDie_ksyncs (s : State) (d : Nat) (f : Die → Die) : (s.modDie d f).ksyncs = s.ksyncs := rfl
@[simp] theorem State.modDie_killing (s : State) (d : Nat) (f : Die → Die) : (s.modDie d f).killing = s.killing := rfl
@[simp] theorem State.modDie_killWaits (s : State) (d : Nat) (f : Die → Die) : (s.modDie d f).killWaits = s.killWaits := rfl
@[simp] theorem State.modDie_lastKill (s : State) (d : Nat) (f : Die → Die) : (s.modDie d f).lastKill = s.lastKill := rfl
@[simp] theorem State.modDie_serialNext (s : State) (d : Nat) (f : Die → Die) : (s.modDie d f).serialNext = s.serialNext := rfl
@[simp] theorem State.modDie_serialEnd (s : State) (d : Nat) (f : Die → Die) : (s.modDie d f).serialEnd = s.serialEnd := rfl
@[simp] theorem State.modDie_serialFail (s : State) (d : Nat) (f : Die → Die) : (s.modDie d f).serialFail = s.serialFail := rfl
@[simp] theorem State.modDie_durable (s : State) (d : Nat) (f : Die → Die) : (s.modDie d f).durable = s.durable := rfl
@[simp] theorem State.modDie_bringUp (s : State) (d : Nat) (f : Die → Die) : (s.modDie d f).bringUp = s.bringUp := rfl
@[simp] theorem State.modDie_loaderNext (s : State) (d : Nat) (f : Die → Die) : (s.modDie d f).loaderNext = s.loaderNext := rfl
@[simp] theorem State.modDie_ckRound (s : State) (d : Nat) (f : Die → Die) : (s.modDie d f).ckRound = s.ckRound := rfl
@[simp] theorem State.modDie_ckWaiting (s : State) (d : Nat) (f : Die → Die) : (s.modDie d f).ckWaiting = s.ckWaiting := rfl
@[simp] theorem State.modDie_ckRanges (s : State) (d : Nat) (f : Die → Die) : (s.modDie d f).ckRanges = s.ckRanges := rfl
@[simp] theorem State.modDie_ckWants (s : State) (d : Nat) (f : Die → Die) : (s.modDie d f).ckWants = s.ckWants := rfl
@[simp] theorem State.modDie_ckDone (s : State) (d : Nat) (f : Die → Die) : (s.modDie d f).ckDone = s.ckDone := rfl
@[simp] theorem State.modDie_sched (s : State) (d : Nat) (f : Die → Die) : (s.modDie d f).sched = s.sched := rfl
@[simp] theorem State.modDie_cut (s : State) (d : Nat) (f : Die → Die) : (s.modDie d f).cut = s.cut := rfl
@[simp] theorem State.modDie_tier (s : State) (d : Nat) (f : Die → Die) : (s.modDie d f).tier = s.tier := rfl

@[simp] theorem State.modPort_cycle (s : State) (p : Nat) (f : Port → Port) : (s.modPort p f).cycle = s.cycle := rfl
@[simp] theorem State.modPort_fresh (s : State) (p : Nat) (f : Port → Port) : (s.modPort p f).fresh = s.fresh := rfl
@[simp] theorem State.modPort_miss (s : State) (p : Nat) (f : Port → Port) : (s.modPort p f).miss = s.miss := rfl
@[simp] theorem State.modPort_cur (s : State) (p : Nat) (f : Port → Port) : (s.modPort p f).cur = s.cur := rfl
@[simp] theorem State.modPort_nextId (s : State) (p : Nat) (f : Port → Port) : (s.modPort p f).nextId = s.nextId := rfl
@[simp] theorem State.modPort_mem (s : State) (p : Nat) (f : Port → Port) : (s.modPort p f).mem = s.mem := rfl
@[simp] theorem State.modPort_poison (s : State) (p : Nat) (f : Port → Port) : (s.modPort p f).poison = s.poison := rfl
@[simp] theorem State.modPort_slots (s : State) (p : Nat) (f : Port → Port) : (s.modPort p f).slots = s.slots := rfl
@[simp] theorem State.modPort_cores (s : State) (p : Nat) (f : Port → Port) : (s.modPort p f).cores = s.cores := rfl
@[simp] theorem State.modPort_clusters (s : State) (p : Nat) (f : Port → Port) : (s.modPort p f).clusters = s.clusters := rfl
@[simp] theorem State.modPort_dies (s : State) (p : Nat) (f : Port → Port) : (s.modPort p f).dies = s.dies := rfl
@[simp] theorem State.modPort_links (s : State) (p : Nat) (f : Port → Port) : (s.modPort p f).links = s.links := rfl
@[simp] theorem State.modPort_hostQueues (s : State) (p : Nat) (f : Port → Port) : (s.modPort p f).hostQueues = s.hostQueues := rfl
@[simp] theorem State.modPort_loads (s : State) (p : Nat) (f : Port → Port) : (s.modPort p f).loads = s.loads := rfl
@[simp] theorem State.modPort_out (s : State) (p : Nat) (f : Port → Port) : (s.modPort p f).out = s.out := rfl
@[simp] theorem State.modPort_amos (s : State) (p : Nat) (f : Port → Port) : (s.modPort p f).amos = s.amos := rfl
@[simp] theorem State.modPort_chains (s : State) (p : Nat) (f : Port → Port) : (s.modPort p f).chains = s.chains := rfl
@[simp] theorem State.modPort_nameOps (s : State) (p : Nat) (f : Port → Port) : (s.modPort p f).nameOps = s.nameOps := rfl
@[simp] theorem State.modPort_shoots (s : State) (p : Nat) (f : Port → Port) : (s.modPort p f).shoots = s.shoots := rfl
@[simp] theorem State.modPort_spawns (s : State) (p : Nat) (f : Port → Port) : (s.modPort p f).spawns = s.spawns := rfl
@[simp] theorem State.modPort_sends (s : State) (p : Nat) (f : Port → Port) : (s.modPort p f).sends = s.sends := rfl
@[simp] theorem State.modPort_notes (s : State) (p : Nat) (f : Port → Port) : (s.modPort p f).notes = s.notes := rfl
@[simp] theorem State.modPort_parks (s : State) (p : Nat) (f : Port → Port) : (s.modPort p f).parks = s.parks := rfl
@[simp] theorem State.modPort_contribs (s : State) (p : Nat) (f : Port → Port) : (s.modPort p f).contribs = s.contribs := rfl
@[simp] theorem State.modPort_parked (s : State) (p : Nat) (f : Port → Port) : (s.modPort p f).parked = s.parked := rfl
@[simp] theorem State.modPort_graph (s : State) (p : Nat) (f : Port → Port) : (s.modPort p f).graph = s.graph := rfl
@[simp] theorem State.modPort_grSeen (s : State) (p : Nat) (f : Port → Port) : (s.modPort p f).grSeen = s.grSeen := rfl
@[simp] theorem State.modPort_trapped (s : State) (p : Nat) (f : Port → Port) : (s.modPort p f).trapped = s.trapped := rfl
@[simp] theorem State.modPort_names (s : State) (p : Nat) (f : Port → Port) : (s.modPort p f).names = s.names := rfl
@[simp] theorem State.modPort_births (s : State) (p : Nat) (f : Port → Port) : (s.modPort p f).births = s.births := rfl
@[simp] theorem State.modPort_deaths (s : State) (p : Nat) (f : Port → Port) : (s.modPort p f).deaths = s.deaths := rfl
@[simp] theorem State.modPort_hostOut (s : State) (p : Nat) (f : Port → Port) : (s.modPort p f).hostOut = s.hostOut := rfl
@[simp] theorem State.modPort_hostRead (s : State) (p : Nat) (f : Port → Port) : (s.modPort p f).hostRead = s.hostRead := rfl
@[simp] theorem State.modPort_barriers (s : State) (p : Nat) (f : Port → Port) : (s.modPort p f).barriers = s.barriers := rfl
@[simp] theorem State.modPort_skeins (s : State) (p : Nat) (f : Port → Port) : (s.modPort p f).skeins = s.skeins := rfl
@[simp] theorem State.modPort_bindings (s : State) (p : Nat) (f : Port → Port) : (s.modPort p f).bindings = s.bindings := rfl
@[simp] theorem State.modPort_rel (s : State) (p : Nat) (f : Port → Port) : (s.modPort p f).rel = s.rel := rfl
@[simp] theorem State.modPort_ksyncs (s : State) (p : Nat) (f : Port → Port) : (s.modPort p f).ksyncs = s.ksyncs := rfl
@[simp] theorem State.modPort_killing (s : State) (p : Nat) (f : Port → Port) : (s.modPort p f).killing = s.killing := rfl
@[simp] theorem State.modPort_killWaits (s : State) (p : Nat) (f : Port → Port) : (s.modPort p f).killWaits = s.killWaits := rfl
@[simp] theorem State.modPort_lastKill (s : State) (p : Nat) (f : Port → Port) : (s.modPort p f).lastKill = s.lastKill := rfl
@[simp] theorem State.modPort_serialNext (s : State) (p : Nat) (f : Port → Port) : (s.modPort p f).serialNext = s.serialNext := rfl
@[simp] theorem State.modPort_serialEnd (s : State) (p : Nat) (f : Port → Port) : (s.modPort p f).serialEnd = s.serialEnd := rfl
@[simp] theorem State.modPort_serialFail (s : State) (p : Nat) (f : Port → Port) : (s.modPort p f).serialFail = s.serialFail := rfl
@[simp] theorem State.modPort_durable (s : State) (p : Nat) (f : Port → Port) : (s.modPort p f).durable = s.durable := rfl
@[simp] theorem State.modPort_bringUp (s : State) (p : Nat) (f : Port → Port) : (s.modPort p f).bringUp = s.bringUp := rfl
@[simp] theorem State.modPort_loaderNext (s : State) (p : Nat) (f : Port → Port) : (s.modPort p f).loaderNext = s.loaderNext := rfl
@[simp] theorem State.modPort_ckRound (s : State) (p : Nat) (f : Port → Port) : (s.modPort p f).ckRound = s.ckRound := rfl
@[simp] theorem State.modPort_ckWaiting (s : State) (p : Nat) (f : Port → Port) : (s.modPort p f).ckWaiting = s.ckWaiting := rfl
@[simp] theorem State.modPort_ckRanges (s : State) (p : Nat) (f : Port → Port) : (s.modPort p f).ckRanges = s.ckRanges := rfl
@[simp] theorem State.modPort_ckWants (s : State) (p : Nat) (f : Port → Port) : (s.modPort p f).ckWants = s.ckWants := rfl
@[simp] theorem State.modPort_ckDone (s : State) (p : Nat) (f : Port → Port) : (s.modPort p f).ckDone = s.ckDone := rfl
@[simp] theorem State.modPort_sched (s : State) (p : Nat) (f : Port → Port) : (s.modPort p f).sched = s.sched := rfl
@[simp] theorem State.modPort_cut (s : State) (p : Nat) (f : Port → Port) : (s.modPort p f).cut = s.cut := rfl
@[simp] theorem State.modPort_tier (s : State) (p : Nat) (f : Port → Port) : (s.modPort p f).tier = s.tier := rfl

@[simp] theorem State.modLink_cycle (s : State) (l : Nat) (f : Link → Link) : (s.modLink l f).cycle = s.cycle := rfl
@[simp] theorem State.modLink_fresh (s : State) (l : Nat) (f : Link → Link) : (s.modLink l f).fresh = s.fresh := rfl
@[simp] theorem State.modLink_miss (s : State) (l : Nat) (f : Link → Link) : (s.modLink l f).miss = s.miss := rfl
@[simp] theorem State.modLink_cur (s : State) (l : Nat) (f : Link → Link) : (s.modLink l f).cur = s.cur := rfl
@[simp] theorem State.modLink_nextId (s : State) (l : Nat) (f : Link → Link) : (s.modLink l f).nextId = s.nextId := rfl
@[simp] theorem State.modLink_mem (s : State) (l : Nat) (f : Link → Link) : (s.modLink l f).mem = s.mem := rfl
@[simp] theorem State.modLink_poison (s : State) (l : Nat) (f : Link → Link) : (s.modLink l f).poison = s.poison := rfl
@[simp] theorem State.modLink_slots (s : State) (l : Nat) (f : Link → Link) : (s.modLink l f).slots = s.slots := rfl
@[simp] theorem State.modLink_cores (s : State) (l : Nat) (f : Link → Link) : (s.modLink l f).cores = s.cores := rfl
@[simp] theorem State.modLink_clusters (s : State) (l : Nat) (f : Link → Link) : (s.modLink l f).clusters = s.clusters := rfl
@[simp] theorem State.modLink_dies (s : State) (l : Nat) (f : Link → Link) : (s.modLink l f).dies = s.dies := rfl
@[simp] theorem State.modLink_ports (s : State) (l : Nat) (f : Link → Link) : (s.modLink l f).ports = s.ports := rfl
@[simp] theorem State.modLink_hostQueues (s : State) (l : Nat) (f : Link → Link) : (s.modLink l f).hostQueues = s.hostQueues := rfl
@[simp] theorem State.modLink_loads (s : State) (l : Nat) (f : Link → Link) : (s.modLink l f).loads = s.loads := rfl
@[simp] theorem State.modLink_out (s : State) (l : Nat) (f : Link → Link) : (s.modLink l f).out = s.out := rfl
@[simp] theorem State.modLink_amos (s : State) (l : Nat) (f : Link → Link) : (s.modLink l f).amos = s.amos := rfl
@[simp] theorem State.modLink_chains (s : State) (l : Nat) (f : Link → Link) : (s.modLink l f).chains = s.chains := rfl
@[simp] theorem State.modLink_nameOps (s : State) (l : Nat) (f : Link → Link) : (s.modLink l f).nameOps = s.nameOps := rfl
@[simp] theorem State.modLink_shoots (s : State) (l : Nat) (f : Link → Link) : (s.modLink l f).shoots = s.shoots := rfl
@[simp] theorem State.modLink_spawns (s : State) (l : Nat) (f : Link → Link) : (s.modLink l f).spawns = s.spawns := rfl
@[simp] theorem State.modLink_sends (s : State) (l : Nat) (f : Link → Link) : (s.modLink l f).sends = s.sends := rfl
@[simp] theorem State.modLink_notes (s : State) (l : Nat) (f : Link → Link) : (s.modLink l f).notes = s.notes := rfl
@[simp] theorem State.modLink_parks (s : State) (l : Nat) (f : Link → Link) : (s.modLink l f).parks = s.parks := rfl
@[simp] theorem State.modLink_contribs (s : State) (l : Nat) (f : Link → Link) : (s.modLink l f).contribs = s.contribs := rfl
@[simp] theorem State.modLink_parked (s : State) (l : Nat) (f : Link → Link) : (s.modLink l f).parked = s.parked := rfl
@[simp] theorem State.modLink_graph (s : State) (l : Nat) (f : Link → Link) : (s.modLink l f).graph = s.graph := rfl
@[simp] theorem State.modLink_grSeen (s : State) (l : Nat) (f : Link → Link) : (s.modLink l f).grSeen = s.grSeen := rfl
@[simp] theorem State.modLink_trapped (s : State) (l : Nat) (f : Link → Link) : (s.modLink l f).trapped = s.trapped := rfl
@[simp] theorem State.modLink_names (s : State) (l : Nat) (f : Link → Link) : (s.modLink l f).names = s.names := rfl
@[simp] theorem State.modLink_births (s : State) (l : Nat) (f : Link → Link) : (s.modLink l f).births = s.births := rfl
@[simp] theorem State.modLink_deaths (s : State) (l : Nat) (f : Link → Link) : (s.modLink l f).deaths = s.deaths := rfl
@[simp] theorem State.modLink_hostOut (s : State) (l : Nat) (f : Link → Link) : (s.modLink l f).hostOut = s.hostOut := rfl
@[simp] theorem State.modLink_hostRead (s : State) (l : Nat) (f : Link → Link) : (s.modLink l f).hostRead = s.hostRead := rfl
@[simp] theorem State.modLink_barriers (s : State) (l : Nat) (f : Link → Link) : (s.modLink l f).barriers = s.barriers := rfl
@[simp] theorem State.modLink_skeins (s : State) (l : Nat) (f : Link → Link) : (s.modLink l f).skeins = s.skeins := rfl
@[simp] theorem State.modLink_bindings (s : State) (l : Nat) (f : Link → Link) : (s.modLink l f).bindings = s.bindings := rfl
@[simp] theorem State.modLink_rel (s : State) (l : Nat) (f : Link → Link) : (s.modLink l f).rel = s.rel := rfl
@[simp] theorem State.modLink_ksyncs (s : State) (l : Nat) (f : Link → Link) : (s.modLink l f).ksyncs = s.ksyncs := rfl
@[simp] theorem State.modLink_killing (s : State) (l : Nat) (f : Link → Link) : (s.modLink l f).killing = s.killing := rfl
@[simp] theorem State.modLink_killWaits (s : State) (l : Nat) (f : Link → Link) : (s.modLink l f).killWaits = s.killWaits := rfl
@[simp] theorem State.modLink_lastKill (s : State) (l : Nat) (f : Link → Link) : (s.modLink l f).lastKill = s.lastKill := rfl
@[simp] theorem State.modLink_serialNext (s : State) (l : Nat) (f : Link → Link) : (s.modLink l f).serialNext = s.serialNext := rfl
@[simp] theorem State.modLink_serialEnd (s : State) (l : Nat) (f : Link → Link) : (s.modLink l f).serialEnd = s.serialEnd := rfl
@[simp] theorem State.modLink_serialFail (s : State) (l : Nat) (f : Link → Link) : (s.modLink l f).serialFail = s.serialFail := rfl
@[simp] theorem State.modLink_durable (s : State) (l : Nat) (f : Link → Link) : (s.modLink l f).durable = s.durable := rfl
@[simp] theorem State.modLink_bringUp (s : State) (l : Nat) (f : Link → Link) : (s.modLink l f).bringUp = s.bringUp := rfl
@[simp] theorem State.modLink_loaderNext (s : State) (l : Nat) (f : Link → Link) : (s.modLink l f).loaderNext = s.loaderNext := rfl
@[simp] theorem State.modLink_ckRound (s : State) (l : Nat) (f : Link → Link) : (s.modLink l f).ckRound = s.ckRound := rfl
@[simp] theorem State.modLink_ckWaiting (s : State) (l : Nat) (f : Link → Link) : (s.modLink l f).ckWaiting = s.ckWaiting := rfl
@[simp] theorem State.modLink_ckRanges (s : State) (l : Nat) (f : Link → Link) : (s.modLink l f).ckRanges = s.ckRanges := rfl
@[simp] theorem State.modLink_ckWants (s : State) (l : Nat) (f : Link → Link) : (s.modLink l f).ckWants = s.ckWants := rfl
@[simp] theorem State.modLink_ckDone (s : State) (l : Nat) (f : Link → Link) : (s.modLink l f).ckDone = s.ckDone := rfl
@[simp] theorem State.modLink_sched (s : State) (l : Nat) (f : Link → Link) : (s.modLink l f).sched = s.sched := rfl
@[simp] theorem State.modLink_cut (s : State) (l : Nat) (f : Link → Link) : (s.modLink l f).cut = s.cut := rfl
@[simp] theorem State.modLink_tier (s : State) (l : Nat) (f : Link → Link) : (s.modLink l f).tier = s.tier := rfl

@[simp] theorem State.trace_cycle (s : State) (g kind : Nat) (pc : Pc) (aux : Nat) (data value : W64) : (s.trace g kind pc aux data value).cycle = s.cycle := rfl
@[simp] theorem State.trace_fresh (s : State) (g kind : Nat) (pc : Pc) (aux : Nat) (data value : W64) : (s.trace g kind pc aux data value).fresh = s.fresh := rfl
@[simp] theorem State.trace_miss (s : State) (g kind : Nat) (pc : Pc) (aux : Nat) (data value : W64) : (s.trace g kind pc aux data value).miss = s.miss := rfl
@[simp] theorem State.trace_cur (s : State) (g kind : Nat) (pc : Pc) (aux : Nat) (data value : W64) : (s.trace g kind pc aux data value).cur = s.cur := rfl
@[simp] theorem State.trace_nextId (s : State) (g kind : Nat) (pc : Pc) (aux : Nat) (data value : W64) : (s.trace g kind pc aux data value).nextId = s.nextId := rfl
@[simp] theorem State.trace_mem (s : State) (g kind : Nat) (pc : Pc) (aux : Nat) (data value : W64) : (s.trace g kind pc aux data value).mem = s.mem := rfl
@[simp] theorem State.trace_poison (s : State) (g kind : Nat) (pc : Pc) (aux : Nat) (data value : W64) : (s.trace g kind pc aux data value).poison = s.poison := rfl
@[simp] theorem State.trace_slots (s : State) (g kind : Nat) (pc : Pc) (aux : Nat) (data value : W64) : (s.trace g kind pc aux data value).slots = s.slots := rfl
@[simp] theorem State.trace_clusters (s : State) (g kind : Nat) (pc : Pc) (aux : Nat) (data value : W64) : (s.trace g kind pc aux data value).clusters = s.clusters := rfl
@[simp] theorem State.trace_dies (s : State) (g kind : Nat) (pc : Pc) (aux : Nat) (data value : W64) : (s.trace g kind pc aux data value).dies = s.dies := rfl
@[simp] theorem State.trace_ports (s : State) (g kind : Nat) (pc : Pc) (aux : Nat) (data value : W64) : (s.trace g kind pc aux data value).ports = s.ports := rfl
@[simp] theorem State.trace_links (s : State) (g kind : Nat) (pc : Pc) (aux : Nat) (data value : W64) : (s.trace g kind pc aux data value).links = s.links := rfl
@[simp] theorem State.trace_hostQueues (s : State) (g kind : Nat) (pc : Pc) (aux : Nat) (data value : W64) : (s.trace g kind pc aux data value).hostQueues = s.hostQueues := rfl
@[simp] theorem State.trace_loads (s : State) (g kind : Nat) (pc : Pc) (aux : Nat) (data value : W64) : (s.trace g kind pc aux data value).loads = s.loads := rfl
@[simp] theorem State.trace_out (s : State) (g kind : Nat) (pc : Pc) (aux : Nat) (data value : W64) : (s.trace g kind pc aux data value).out = s.out := rfl
@[simp] theorem State.trace_amos (s : State) (g kind : Nat) (pc : Pc) (aux : Nat) (data value : W64) : (s.trace g kind pc aux data value).amos = s.amos := rfl
@[simp] theorem State.trace_chains (s : State) (g kind : Nat) (pc : Pc) (aux : Nat) (data value : W64) : (s.trace g kind pc aux data value).chains = s.chains := rfl
@[simp] theorem State.trace_nameOps (s : State) (g kind : Nat) (pc : Pc) (aux : Nat) (data value : W64) : (s.trace g kind pc aux data value).nameOps = s.nameOps := rfl
@[simp] theorem State.trace_shoots (s : State) (g kind : Nat) (pc : Pc) (aux : Nat) (data value : W64) : (s.trace g kind pc aux data value).shoots = s.shoots := rfl
@[simp] theorem State.trace_spawns (s : State) (g kind : Nat) (pc : Pc) (aux : Nat) (data value : W64) : (s.trace g kind pc aux data value).spawns = s.spawns := rfl
@[simp] theorem State.trace_sends (s : State) (g kind : Nat) (pc : Pc) (aux : Nat) (data value : W64) : (s.trace g kind pc aux data value).sends = s.sends := rfl
@[simp] theorem State.trace_notes (s : State) (g kind : Nat) (pc : Pc) (aux : Nat) (data value : W64) : (s.trace g kind pc aux data value).notes = s.notes := rfl
@[simp] theorem State.trace_parks (s : State) (g kind : Nat) (pc : Pc) (aux : Nat) (data value : W64) : (s.trace g kind pc aux data value).parks = s.parks := rfl
@[simp] theorem State.trace_contribs (s : State) (g kind : Nat) (pc : Pc) (aux : Nat) (data value : W64) : (s.trace g kind pc aux data value).contribs = s.contribs := rfl
@[simp] theorem State.trace_parked (s : State) (g kind : Nat) (pc : Pc) (aux : Nat) (data value : W64) : (s.trace g kind pc aux data value).parked = s.parked := rfl
@[simp] theorem State.trace_graph (s : State) (g kind : Nat) (pc : Pc) (aux : Nat) (data value : W64) : (s.trace g kind pc aux data value).graph = s.graph := rfl
@[simp] theorem State.trace_grSeen (s : State) (g kind : Nat) (pc : Pc) (aux : Nat) (data value : W64) : (s.trace g kind pc aux data value).grSeen = s.grSeen := rfl
@[simp] theorem State.trace_trapped (s : State) (g kind : Nat) (pc : Pc) (aux : Nat) (data value : W64) : (s.trace g kind pc aux data value).trapped = s.trapped := rfl
@[simp] theorem State.trace_names (s : State) (g kind : Nat) (pc : Pc) (aux : Nat) (data value : W64) : (s.trace g kind pc aux data value).names = s.names := rfl
@[simp] theorem State.trace_births (s : State) (g kind : Nat) (pc : Pc) (aux : Nat) (data value : W64) : (s.trace g kind pc aux data value).births = s.births := rfl
@[simp] theorem State.trace_deaths (s : State) (g kind : Nat) (pc : Pc) (aux : Nat) (data value : W64) : (s.trace g kind pc aux data value).deaths = s.deaths := rfl
@[simp] theorem State.trace_hostOut (s : State) (g kind : Nat) (pc : Pc) (aux : Nat) (data value : W64) : (s.trace g kind pc aux data value).hostOut = s.hostOut := rfl
@[simp] theorem State.trace_hostRead (s : State) (g kind : Nat) (pc : Pc) (aux : Nat) (data value : W64) : (s.trace g kind pc aux data value).hostRead = s.hostRead := rfl
@[simp] theorem State.trace_barriers (s : State) (g kind : Nat) (pc : Pc) (aux : Nat) (data value : W64) : (s.trace g kind pc aux data value).barriers = s.barriers := rfl
@[simp] theorem State.trace_skeins (s : State) (g kind : Nat) (pc : Pc) (aux : Nat) (data value : W64) : (s.trace g kind pc aux data value).skeins = s.skeins := rfl
@[simp] theorem State.trace_bindings (s : State) (g kind : Nat) (pc : Pc) (aux : Nat) (data value : W64) : (s.trace g kind pc aux data value).bindings = s.bindings := rfl
@[simp] theorem State.trace_rel (s : State) (g kind : Nat) (pc : Pc) (aux : Nat) (data value : W64) : (s.trace g kind pc aux data value).rel = s.rel := rfl
@[simp] theorem State.trace_ksyncs (s : State) (g kind : Nat) (pc : Pc) (aux : Nat) (data value : W64) : (s.trace g kind pc aux data value).ksyncs = s.ksyncs := rfl
@[simp] theorem State.trace_killing (s : State) (g kind : Nat) (pc : Pc) (aux : Nat) (data value : W64) : (s.trace g kind pc aux data value).killing = s.killing := rfl
@[simp] theorem State.trace_killWaits (s : State) (g kind : Nat) (pc : Pc) (aux : Nat) (data value : W64) : (s.trace g kind pc aux data value).killWaits = s.killWaits := rfl
@[simp] theorem State.trace_lastKill (s : State) (g kind : Nat) (pc : Pc) (aux : Nat) (data value : W64) : (s.trace g kind pc aux data value).lastKill = s.lastKill := rfl
@[simp] theorem State.trace_serialNext (s : State) (g kind : Nat) (pc : Pc) (aux : Nat) (data value : W64) : (s.trace g kind pc aux data value).serialNext = s.serialNext := rfl
@[simp] theorem State.trace_serialEnd (s : State) (g kind : Nat) (pc : Pc) (aux : Nat) (data value : W64) : (s.trace g kind pc aux data value).serialEnd = s.serialEnd := rfl
@[simp] theorem State.trace_serialFail (s : State) (g kind : Nat) (pc : Pc) (aux : Nat) (data value : W64) : (s.trace g kind pc aux data value).serialFail = s.serialFail := rfl
@[simp] theorem State.trace_durable (s : State) (g kind : Nat) (pc : Pc) (aux : Nat) (data value : W64) : (s.trace g kind pc aux data value).durable = s.durable := rfl
@[simp] theorem State.trace_bringUp (s : State) (g kind : Nat) (pc : Pc) (aux : Nat) (data value : W64) : (s.trace g kind pc aux data value).bringUp = s.bringUp := rfl
@[simp] theorem State.trace_loaderNext (s : State) (g kind : Nat) (pc : Pc) (aux : Nat) (data value : W64) : (s.trace g kind pc aux data value).loaderNext = s.loaderNext := rfl
@[simp] theorem State.trace_ckRound (s : State) (g kind : Nat) (pc : Pc) (aux : Nat) (data value : W64) : (s.trace g kind pc aux data value).ckRound = s.ckRound := rfl
@[simp] theorem State.trace_ckWaiting (s : State) (g kind : Nat) (pc : Pc) (aux : Nat) (data value : W64) : (s.trace g kind pc aux data value).ckWaiting = s.ckWaiting := rfl
@[simp] theorem State.trace_ckRanges (s : State) (g kind : Nat) (pc : Pc) (aux : Nat) (data value : W64) : (s.trace g kind pc aux data value).ckRanges = s.ckRanges := rfl
@[simp] theorem State.trace_ckWants (s : State) (g kind : Nat) (pc : Pc) (aux : Nat) (data value : W64) : (s.trace g kind pc aux data value).ckWants = s.ckWants := rfl
@[simp] theorem State.trace_ckDone (s : State) (g kind : Nat) (pc : Pc) (aux : Nat) (data value : W64) : (s.trace g kind pc aux data value).ckDone = s.ckDone := rfl
@[simp] theorem State.trace_sched (s : State) (g kind : Nat) (pc : Pc) (aux : Nat) (data value : W64) : (s.trace g kind pc aux data value).sched = s.sched := rfl
@[simp] theorem State.trace_cut (s : State) (g kind : Nat) (pc : Pc) (aux : Nat) (data value : W64) : (s.trace g kind pc aux data value).cut = s.cut := rfl
@[simp] theorem State.trace_tier (s : State) (g kind : Nat) (pc : Pc) (aux : Nat) (data value : W64) : (s.trace g kind pc aux data value).tier = s.tier := rfl

@[simp] theorem State.setSlot_core (s : State) (g : Nat) (x : Slot) (j : Nat) : (s.setSlot g x).core j = s.core j := rfl
@[simp] theorem State.setSlot_cluster (s : State) (g : Nat) (x : Slot) (j : Nat) : (s.setSlot g x).cluster j = s.cluster j := rfl
@[simp] theorem State.setSlot_die (s : State) (g : Nat) (x : Slot) (j : Nat) : (s.setSlot g x).die j = s.die j := rfl
@[simp] theorem State.setSlot_port (s : State) (g : Nat) (x : Slot) (j : Nat) : (s.setSlot g x).port j = s.port j := rfl
@[simp] theorem State.setSlot_link (s : State) (g : Nat) (x : Slot) (j : Nat) : (s.setSlot g x).link j = s.link j := rfl
@[simp] theorem State.modSlot_core (s : State) (g : Nat) (f : Slot → Slot) (j : Nat) : (s.modSlot g f).core j = s.core j := rfl
@[simp] theorem State.modSlot_cluster (s : State) (g : Nat) (f : Slot → Slot) (j : Nat) : (s.modSlot g f).cluster j = s.cluster j := rfl
@[simp] theorem State.modSlot_die (s : State) (g : Nat) (f : Slot → Slot) (j : Nat) : (s.modSlot g f).die j = s.die j := rfl
@[simp] theorem State.modSlot_port (s : State) (g : Nat) (f : Slot → Slot) (j : Nat) : (s.modSlot g f).port j = s.port j := rfl
@[simp] theorem State.modSlot_link (s : State) (g : Nat) (f : Slot → Slot) (j : Nat) : (s.modSlot g f).link j = s.link j := rfl
@[simp] theorem State.modMe_core (s : State) (f : Slot → Slot) (j : Nat) : (s.modMe f).core j = s.core j := rfl
@[simp] theorem State.modMe_cluster (s : State) (f : Slot → Slot) (j : Nat) : (s.modMe f).cluster j = s.cluster j := rfl
@[simp] theorem State.modMe_die (s : State) (f : Slot → Slot) (j : Nat) : (s.modMe f).die j = s.die j := rfl
@[simp] theorem State.modMe_port (s : State) (f : Slot → Slot) (j : Nat) : (s.modMe f).port j = s.port j := rfl
@[simp] theorem State.modMe_link (s : State) (f : Slot → Slot) (j : Nat) : (s.modMe f).link j = s.link j := rfl
@[simp] theorem State.modCore_slot (s : State) (c : Nat) (f : Core → Core) (j : Nat) : (s.modCore c f).slot j = s.slot j := rfl
@[simp] theorem State.modCore_cluster (s : State) (c : Nat) (f : Core → Core) (j : Nat) : (s.modCore c f).cluster j = s.cluster j := rfl
@[simp] theorem State.modCore_die (s : State) (c : Nat) (f : Core → Core) (j : Nat) : (s.modCore c f).die j = s.die j := rfl
@[simp] theorem State.modCore_port (s : State) (c : Nat) (f : Core → Core) (j : Nat) : (s.modCore c f).port j = s.port j := rfl
@[simp] theorem State.modCore_link (s : State) (c : Nat) (f : Core → Core) (j : Nat) : (s.modCore c f).link j = s.link j := rfl
@[simp] theorem State.modCluster_slot (s : State) (k : Nat) (f : Cluster → Cluster) (j : Nat) : (s.modCluster k f).slot j = s.slot j := rfl
@[simp] theorem State.modCluster_core (s : State) (k : Nat) (f : Cluster → Cluster) (j : Nat) : (s.modCluster k f).core j = s.core j := rfl
@[simp] theorem State.modCluster_die (s : State) (k : Nat) (f : Cluster → Cluster) (j : Nat) : (s.modCluster k f).die j = s.die j := rfl
@[simp] theorem State.modCluster_port (s : State) (k : Nat) (f : Cluster → Cluster) (j : Nat) : (s.modCluster k f).port j = s.port j := rfl
@[simp] theorem State.modCluster_link (s : State) (k : Nat) (f : Cluster → Cluster) (j : Nat) : (s.modCluster k f).link j = s.link j := rfl
@[simp] theorem State.modDie_slot (s : State) (d : Nat) (f : Die → Die) (j : Nat) : (s.modDie d f).slot j = s.slot j := rfl
@[simp] theorem State.modDie_core (s : State) (d : Nat) (f : Die → Die) (j : Nat) : (s.modDie d f).core j = s.core j := rfl
@[simp] theorem State.modDie_cluster (s : State) (d : Nat) (f : Die → Die) (j : Nat) : (s.modDie d f).cluster j = s.cluster j := rfl
@[simp] theorem State.modDie_port (s : State) (d : Nat) (f : Die → Die) (j : Nat) : (s.modDie d f).port j = s.port j := rfl
@[simp] theorem State.modDie_link (s : State) (d : Nat) (f : Die → Die) (j : Nat) : (s.modDie d f).link j = s.link j := rfl
@[simp] theorem State.modPort_slot (s : State) (p : Nat) (f : Port → Port) (j : Nat) : (s.modPort p f).slot j = s.slot j := rfl
@[simp] theorem State.modPort_core (s : State) (p : Nat) (f : Port → Port) (j : Nat) : (s.modPort p f).core j = s.core j := rfl
@[simp] theorem State.modPort_cluster (s : State) (p : Nat) (f : Port → Port) (j : Nat) : (s.modPort p f).cluster j = s.cluster j := rfl
@[simp] theorem State.modPort_die (s : State) (p : Nat) (f : Port → Port) (j : Nat) : (s.modPort p f).die j = s.die j := rfl
@[simp] theorem State.modPort_link (s : State) (p : Nat) (f : Port → Port) (j : Nat) : (s.modPort p f).link j = s.link j := rfl
@[simp] theorem State.modLink_slot (s : State) (l : Nat) (f : Link → Link) (j : Nat) : (s.modLink l f).slot j = s.slot j := rfl
@[simp] theorem State.modLink_core (s : State) (l : Nat) (f : Link → Link) (j : Nat) : (s.modLink l f).core j = s.core j := rfl
@[simp] theorem State.modLink_cluster (s : State) (l : Nat) (f : Link → Link) (j : Nat) : (s.modLink l f).cluster j = s.cluster j := rfl
@[simp] theorem State.modLink_die (s : State) (l : Nat) (f : Link → Link) (j : Nat) : (s.modLink l f).die j = s.die j := rfl
@[simp] theorem State.modLink_port (s : State) (l : Nat) (f : Link → Link) (j : Nat) : (s.modLink l f).port j = s.port j := rfl
@[simp] theorem State.trace_slot (s : State) (g kind : Nat) (pc : Pc) (aux : Nat) (data value : W64) (j : Nat) : (s.trace g kind pc aux data value).slot j = s.slot j := rfl
@[simp] theorem State.trace_cluster (s : State) (g kind : Nat) (pc : Pc) (aux : Nat) (data value : W64) (j : Nat) : (s.trace g kind pc aux data value).cluster j = s.cluster j := rfl
@[simp] theorem State.trace_die (s : State) (g kind : Nat) (pc : Pc) (aux : Nat) (data value : W64) (j : Nat) : (s.trace g kind pc aux data value).die j = s.die j := rfl
@[simp] theorem State.trace_port (s : State) (g kind : Nat) (pc : Pc) (aux : Nat) (data value : W64) (j : Nat) : (s.trace g kind pc aux data value).port j = s.port j := rfl
@[simp] theorem State.trace_link (s : State) (g kind : Nat) (pc : Pc) (aux : Nat) (data value : W64) (j : Nat) : (s.trace g kind pc aux data value).link j = s.link j := rfl

/-- A unit after an update of one: the update's value there, every other unit as before. -/
theorem State.slot_setSlot (s : State) (g : Nat) (x : Slot) (j : Nat) : (s.setSlot g x).slot j = if j = g then x else s.slot j := by
  simp [State.setSlot, State.slot, Tab.get_set]
theorem State.slot_modSlot (s : State) (g : Nat) (f : Slot → Slot) (j : Nat) : (s.modSlot g f).slot j = if j = g then f (s.slot g) else s.slot j :=
  State.slot_setSlot s g _ j
theorem State.core_modCore (s : State) (g : Nat) (f : Core → Core) (j : Nat) : (s.modCore g f).core j = if j = g then f (s.core g) else s.core j := by
  simp [State.modCore, State.core, Tab.get_set]
theorem State.cluster_modCluster (s : State) (g : Nat) (f : Cluster → Cluster) (j : Nat) : (s.modCluster g f).cluster j = if j = g then f (s.cluster g) else s.cluster j := by
  simp [State.modCluster, State.cluster, Tab.get_set]
theorem State.die_modDie (s : State) (g : Nat) (f : Die → Die) (j : Nat) : (s.modDie g f).die j = if j = g then f (s.die g) else s.die j := by
  simp [State.modDie, State.die, Tab.get_set]
theorem State.port_modPort (s : State) (g : Nat) (f : Port → Port) (j : Nat) : (s.modPort g f).port j = if j = g then f (s.port g) else s.port j := by
  simp [State.modPort, State.port, Tab.get_set]
theorem State.link_modLink (s : State) (g : Nat) (f : Link → Link) (j : Nat) : (s.modLink g f).link j = if j = g then f (s.link g) else s.link j := by
  simp [State.modLink, State.link, Tab.get_set]

@[simp] theorem State.slot_setSlot_self (s : State) (g : Nat) (x : Slot) : (s.setSlot g x).slot g = x := by simp [State.slot_setSlot]
@[simp] theorem State.slot_modSlot_self (s : State) (g : Nat) (f : Slot → Slot) : (s.modSlot g f).slot g = f (s.slot g) := by simp [State.slot_modSlot]
theorem State.slot_modSlot_other (s : State) {g j : Nat} (f : Slot → Slot) (h : j ≠ g) : (s.modSlot g f).slot j = s.slot j := by simp [State.slot_modSlot, h]
@[simp] theorem State.me_modMe (s : State) (f : Slot → Slot) : (s.modMe f).me = f s.me := by
  simp only [State.me, State.modMe_cur]; exact State.slot_modSlot_self s s.cur f
theorem State.slot_modMe (s : State) (f : Slot → Slot) {j : Nat} (h : j ≠ s.cur) : (s.modMe f).slot j = s.slot j := State.slot_modSlot_other s f h
@[simp] theorem State.me_trace (s : State) (g kind : Nat) (pc : Pc) (aux : Nat) (data value : W64) : (s.trace g kind pc aux data value).me = s.me := rfl

@[simp] theorem State.core_modCore_self (s : State) (g : Nat) (f : Core → Core) : (s.modCore g f).core g = f (s.core g) := by simp [State.core_modCore]
@[simp] theorem State.cluster_modCluster_self (s : State) (g : Nat) (f : Cluster → Cluster) : (s.modCluster g f).cluster g = f (s.cluster g) := by simp [State.cluster_modCluster]
@[simp] theorem State.die_modDie_self (s : State) (g : Nat) (f : Die → Die) : (s.modDie g f).die g = f (s.die g) := by simp [State.die_modDie]
@[simp] theorem State.port_modPort_self (s : State) (g : Nat) (f : Port → Port) : (s.modPort g f).port g = f (s.port g) := by simp [State.port_modPort]
@[simp] theorem State.link_modLink_self (s : State) (g : Nat) (f : Link → Link) : (s.modLink g f).link g = f (s.link g) := by simp [State.link_modLink]

/-! The registers of a slot -/

@[simp] theorem Slot.setS_state (x : Slot) (r : BitVec 5) (v : W64) : (x.setS r v).state = x.state := by unfold Slot.setS; split_ifs <;> rfl
@[simp] theorem Slot.setS_hold (x : Slot) (r : BitVec 5) (v : W64) : (x.setS r v).hold = x.hold := by unfold Slot.setS; split_ifs <;> rfl
@[simp] theorem Slot.setS_heldSince (x : Slot) (r : BitVec 5) (v : W64) : (x.setS r v).heldSince = x.heldSince := by unfold Slot.setS; split_ifs <;> rfl
@[simp] theorem Slot.setS_await (x : Slot) (r : BitVec 5) (v : W64) : (x.setS r v).await = x.await := by unfold Slot.setS; split_ifs <;> rfl
@[simp] theorem Slot.setS_mode (x : Slot) (r : BitVec 5) (v : W64) : (x.setS r v).mode = x.mode := by unfold Slot.setS; split_ifs <;> rfl
@[simp] theorem Slot.setS_pc (x : Slot) (r : BitVec 5) (v : W64) : (x.setS r v).pc = x.pc := by unfold Slot.setS; split_ifs <;> rfl
@[simp] theorem Slot.setS_rstpc (x : Slot) (r : BitVec 5) (v : W64) : (x.setS r v).rstpc = x.rstpc := by unfold Slot.setS; split_ifs <;> rfl
@[simp] theorem Slot.setS_wb (x : Slot) (r : BitVec 5) (v : W64) : (x.setS r v).wb = x.wb := by unfold Slot.setS; split_ifs <;> rfl
@[simp] theorem Slot.setS_res (x : Slot) (r : BitVec 5) (v : W64) : (x.setS r v).res = x.res := by unfold Slot.setS; split_ifs <;> rfl
@[simp] theorem Slot.setS_v (x : Slot) (r : BitVec 5) (v : W64) : (x.setS r v).v = x.v := by unfold Slot.setS; split_ifs <;> rfl
@[simp] theorem Slot.setS_m (x : Slot) (r : BitVec 5) (v : W64) : (x.setS r v).m = x.m := by unfold Slot.setS; split_ifs <;> rfl
@[simp] theorem Slot.setS_q (x : Slot) (r : BitVec 5) (v : W64) : (x.setS r v).q = x.q := by unfold Slot.setS; split_ifs <;> rfl
@[simp] theorem Slot.setS_task (x : Slot) (r : BitVec 5) (v : W64) : (x.setS r v).task = x.task := by unfold Slot.setS; split_ifs <;> rfl
@[simp] theorem Slot.setS_taskid (x : Slot) (r : BitVec 5) (v : W64) : (x.setS r v).taskid = x.taskid := by unfold Slot.setS; split_ifs <;> rfl
@[simp] theorem Slot.setS_name (x : Slot) (r : BitVec 5) (v : W64) : (x.setS r v).name = x.name := by unfold Slot.setS; split_ifs <;> rfl
@[simp] theorem Slot.setS_named (x : Slot) (r : BitVec 5) (v : W64) : (x.setS r v).named = x.named := by unfold Slot.setS; split_ifs <;> rfl
@[simp] theorem Slot.setS_prio (x : Slot) (r : BitVec 5) (v : W64) : (x.setS r v).prio = x.prio := by unfold Slot.setS; split_ifs <;> rfl
@[simp] theorem Slot.setS_ctx (x : Slot) (r : BitVec 5) (v : W64) : (x.setS r v).ctx = x.ctx := by unfold Slot.setS; split_ifs <;> rfl
@[simp] theorem Slot.setS_feat (x : Slot) (r : BitVec 5) (v : W64) : (x.setS r v).feat = x.feat := by unfold Slot.setS; split_ifs <;> rfl
@[simp] theorem Slot.setS_eclass (x : Slot) (r : BitVec 5) (v : W64) : (x.setS r v).eclass = x.eclass := by unfold Slot.setS; split_ifs <;> rfl
@[simp] theorem Slot.setS_place (x : Slot) (r : BitVec 5) (v : W64) : (x.setS r v).place = x.place := by unfold Slot.setS; split_ifs <;> rfl
@[simp] theorem Slot.setS_holdlim (x : Slot) (r : BitVec 5) (v : W64) : (x.setS r v).holdlim = x.holdlim := by unfold Slot.setS; split_ifs <;> rfl
@[simp] theorem Slot.setS_fsp (x : Slot) (r : BitVec 5) (v : W64) : (x.setS r v).fsp = x.fsp := by unfold Slot.setS; split_ifs <;> rfl
@[simp] theorem Slot.setS_fslim (x : Slot) (r : BitVec 5) (v : W64) : (x.setS r v).fslim = x.fslim := by unfold Slot.setS; split_ifs <;> rfl
@[simp] theorem Slot.setS_through (x : Slot) (r : BitVec 5) (v : W64) : (x.setS r v).through = x.through := by unfold Slot.setS; split_ifs <;> rfl
@[simp] theorem Slot.setS_seg (x : Slot) (r : BitVec 5) (v : W64) : (x.setS r v).seg = x.seg := by unfold Slot.setS; split_ifs <;> rfl
@[simp] theorem Slot.setS_buf (x : Slot) (r : BitVec 5) (v : W64) : (x.setS r v).buf = x.buf := by unfold Slot.setS; split_ifs <;> rfl
@[simp] theorem Slot.setS_obs (x : Slot) (r : BitVec 5) (v : W64) : (x.setS r v).obs = x.obs := by unfold Slot.setS; split_ifs <;> rfl
@[simp] theorem Slot.setS_hb (x : Slot) (r : BitVec 5) (v : W64) : (x.setS r v).hb = x.hb := by unfold Slot.setS; split_ifs <;> rfl
@[simp] theorem Slot.setS_seen (x : Slot) (r : BitVec 5) (v : W64) : (x.setS r v).seen = x.seen := by unfold Slot.setS; split_ifs <;> rfl
@[simp] theorem Slot.setS_fence (x : Slot) (r : BitVec 5) (v : W64) : (x.setS r v).fence = x.fence := by unfold Slot.setS; split_ifs <;> rfl
@[simp] theorem Slot.setS_descs (x : Slot) (r : BitVec 5) (v : W64) : (x.setS r v).descs = x.descs := by unfold Slot.setS; split_ifs <;> rfl
@[simp] theorem Slot.setS_guard (x : Slot) (r : BitVec 5) (v : W64) : (x.setS r v).guard = x.guard := by unfold Slot.setS; split_ifs <;> rfl
@[simp] theorem Slot.setS_prest (x : Slot) (r : BitVec 5) (v : W64) : (x.setS r v).prest = x.prest := by unfold Slot.setS; split_ifs <;> rfl
@[simp] theorem Slot.setS_paddr (x : Slot) (r : BitVec 5) (v : W64) : (x.setS r v).paddr = x.paddr := by unfold Slot.setS; split_ifs <;> rfl
@[simp] theorem Slot.setS_psince (x : Slot) (r : BitVec 5) (v : W64) : (x.setS r v).psince = x.psince := by unfold Slot.setS; split_ifs <;> rfl
@[simp] theorem Slot.setS_cpNum (x : Slot) (r : BitVec 5) (v : W64) : (x.setS r v).cpNum = x.cpNum := by unfold Slot.setS; split_ifs <;> rfl
@[simp] theorem Slot.setS_mxNum (x : Slot) (r : BitVec 5) (v : W64) : (x.setS r v).mxNum = x.mxNum := by unfold Slot.setS; split_ifs <;> rfl
@[simp] theorem Slot.setS_spillbase (x : Slot) (r : BitVec 5) (v : W64) : (x.setS r v).spillbase = x.spillbase := by unfold Slot.setS; split_ifs <;> rfl
@[simp] theorem Slot.setS_lastCause (x : Slot) (r : BitVec 5) (v : W64) : (x.setS r v).lastCause = x.lastCause := by unfold Slot.setS; split_ifs <;> rfl
@[simp] theorem Slot.setS_cmdStatus (x : Slot) (r : BitVec 5) (v : W64) : (x.setS r v).cmdStatus = x.cmdStatus := by unfold Slot.setS; split_ifs <;> rfl
@[simp] theorem Slot.setS_busy (x : Slot) (r : BitVec 5) (v : W64) : (x.setS r v).busy = x.busy := by unfold Slot.setS; split_ifs <;> rfl
@[simp] theorem Slot.setS_npre (x : Slot) (r : BitVec 5) (v : W64) : (x.setS r v).npre = x.npre := by unfold Slot.setS; split_ifs <;> rfl
@[simp] theorem Slot.setS_faults (x : Slot) (r : BitVec 5) (v : W64) : (x.setS r v).faults = x.faults := by unfold Slot.setS; split_ifs <;> rfl
@[simp] theorem Slot.setS_stepSeq (x : Slot) (r : BitVec 5) (v : W64) : (x.setS r v).stepSeq = x.stepSeq := by unfold Slot.setS; split_ifs <;> rfl
@[simp] theorem Slot.setS_inspect (x : Slot) (r : BitVec 5) (v : W64) : (x.setS r v).inspect = x.inspect := by unfold Slot.setS; split_ifs <;> rfl
@[simp] theorem Slot.setS_stepping (x : Slot) (r : BitVec 5) (v : W64) : (x.setS r v).stepping = x.stepping := by unfold Slot.setS; split_ifs <;> rfl
@[simp] theorem Slot.setS_begun (x : Slot) (r : BitVec 5) (v : W64) : (x.setS r v).begun = x.begun := by unfold Slot.setS; split_ifs <;> rfl
@[simp] theorem Slot.setS_sent (x : Slot) (r : BitVec 5) (v : W64) : (x.setS r v).sent = x.sent := by unfold Slot.setS; split_ifs <;> rfl
@[simp] theorem Slot.setS_stamped (x : Slot) (r : BitVec 5) (v : W64) : (x.setS r v).stamped = x.stamped := by unfold Slot.setS; split_ifs <;> rfl
@[simp] theorem Slot.setS_word (x : Slot) (r : BitVec 5) (v : W64) : (x.setS r v).word = x.word := by unfold Slot.setS; split_ifs <;> rfl
@[simp] theorem Slot.setS_woken (x : Slot) (r : BitVec 5) (v : W64) : (x.setS r v).woken = x.woken := by unfold Slot.setS; split_ifs <;> rfl
@[simp] theorem Slot.setS_stepDone (x : Slot) (r : BitVec 5) (v : W64) : (x.setS r v).stepDone = x.stepDone := by unfold Slot.setS; split_ifs <;> rfl
@[simp] theorem Slot.setS_stepRep (x : Slot) (r : BitVec 5) (v : W64) : (x.setS r v).stepRep = x.stepRep := by unfold Slot.setS; split_ifs <;> rfl
@[simp] theorem Slot.setS_restoring (x : Slot) (r : BitVec 5) (v : W64) : (x.setS r v).restoring = x.restoring := by unfold Slot.setS; split_ifs <;> rfl
@[simp] theorem Slot.setS_spilled (x : Slot) (r : BitVec 5) (v : W64) : (x.setS r v).spilled = x.spilled := by unfold Slot.setS; split_ifs <;> rfl
@[simp] theorem Slot.setS_spillAt (x : Slot) (r : BitVec 5) (v : W64) : (x.setS r v).spillAt = x.spillAt := by unfold Slot.setS; split_ifs <;> rfl
@[simp] theorem Slot.setS_preempting (x : Slot) (r : BitVec 5) (v : W64) : (x.setS r v).preempting = x.preempting := by unfold Slot.setS; split_ifs <;> rfl
@[simp] theorem Slot.setS_packet (x : Slot) (r : BitVec 5) (v : W64) : (x.setS r v).packet = x.packet := by unfold Slot.setS; split_ifs <;> rfl
@[simp] theorem Slot.setS_sig (x : Slot) (r : BitVec 5) (v : W64) : (x.setS r v).sig = x.sig := by unfold Slot.setS; split_ifs <;> rfl
@[simp] theorem Slot.setS_prevBlock (x : Slot) (r : BitVec 5) (v : W64) : (x.setS r v).prevBlock = x.prevBlock := by unfold Slot.setS; split_ifs <;> rfl
@[simp] theorem Slot.setS_sigWas (x : Slot) (r : BitVec 5) (v : W64) : (x.setS r v).sigWas = x.sigWas := by unfold Slot.setS; split_ifs <;> rfl

@[simp] theorem Slot.setV_state (x : Slot) (r : BitVec 4) (v : W256) : (x.setV r v).state = x.state := rfl
@[simp] theorem Slot.setV_hold (x : Slot) (r : BitVec 4) (v : W256) : (x.setV r v).hold = x.hold := rfl
@[simp] theorem Slot.setV_heldSince (x : Slot) (r : BitVec 4) (v : W256) : (x.setV r v).heldSince = x.heldSince := rfl
@[simp] theorem Slot.setV_await (x : Slot) (r : BitVec 4) (v : W256) : (x.setV r v).await = x.await := rfl
@[simp] theorem Slot.setV_mode (x : Slot) (r : BitVec 4) (v : W256) : (x.setV r v).mode = x.mode := rfl
@[simp] theorem Slot.setV_pc (x : Slot) (r : BitVec 4) (v : W256) : (x.setV r v).pc = x.pc := rfl
@[simp] theorem Slot.setV_rstpc (x : Slot) (r : BitVec 4) (v : W256) : (x.setV r v).rstpc = x.rstpc := rfl
@[simp] theorem Slot.setV_low (x : Slot) (r : BitVec 4) (v : W256) : (x.setV r v).low = x.low := rfl
@[simp] theorem Slot.setV_win (x : Slot) (r : BitVec 4) (v : W256) : (x.setV r v).win = x.win := rfl
@[simp] theorem Slot.setV_wb (x : Slot) (r : BitVec 4) (v : W256) : (x.setV r v).wb = x.wb := rfl
@[simp] theorem Slot.setV_res (x : Slot) (r : BitVec 4) (v : W256) : (x.setV r v).res = x.res := rfl
@[simp] theorem Slot.setV_m (x : Slot) (r : BitVec 4) (v : W256) : (x.setV r v).m = x.m := rfl
@[simp] theorem Slot.setV_q (x : Slot) (r : BitVec 4) (v : W256) : (x.setV r v).q = x.q := rfl
@[simp] theorem Slot.setV_task (x : Slot) (r : BitVec 4) (v : W256) : (x.setV r v).task = x.task := rfl
@[simp] theorem Slot.setV_taskid (x : Slot) (r : BitVec 4) (v : W256) : (x.setV r v).taskid = x.taskid := rfl
@[simp] theorem Slot.setV_name (x : Slot) (r : BitVec 4) (v : W256) : (x.setV r v).name = x.name := rfl
@[simp] theorem Slot.setV_named (x : Slot) (r : BitVec 4) (v : W256) : (x.setV r v).named = x.named := rfl
@[simp] theorem Slot.setV_prio (x : Slot) (r : BitVec 4) (v : W256) : (x.setV r v).prio = x.prio := rfl
@[simp] theorem Slot.setV_ctx (x : Slot) (r : BitVec 4) (v : W256) : (x.setV r v).ctx = x.ctx := rfl
@[simp] theorem Slot.setV_feat (x : Slot) (r : BitVec 4) (v : W256) : (x.setV r v).feat = x.feat := rfl
@[simp] theorem Slot.setV_eclass (x : Slot) (r : BitVec 4) (v : W256) : (x.setV r v).eclass = x.eclass := rfl
@[simp] theorem Slot.setV_place (x : Slot) (r : BitVec 4) (v : W256) : (x.setV r v).place = x.place := rfl
@[simp] theorem Slot.setV_holdlim (x : Slot) (r : BitVec 4) (v : W256) : (x.setV r v).holdlim = x.holdlim := rfl
@[simp] theorem Slot.setV_fsp (x : Slot) (r : BitVec 4) (v : W256) : (x.setV r v).fsp = x.fsp := rfl
@[simp] theorem Slot.setV_fslim (x : Slot) (r : BitVec 4) (v : W256) : (x.setV r v).fslim = x.fslim := rfl
@[simp] theorem Slot.setV_through (x : Slot) (r : BitVec 4) (v : W256) : (x.setV r v).through = x.through := rfl
@[simp] theorem Slot.setV_seg (x : Slot) (r : BitVec 4) (v : W256) : (x.setV r v).seg = x.seg := rfl
@[simp] theorem Slot.setV_buf (x : Slot) (r : BitVec 4) (v : W256) : (x.setV r v).buf = x.buf := rfl
@[simp] theorem Slot.setV_obs (x : Slot) (r : BitVec 4) (v : W256) : (x.setV r v).obs = x.obs := rfl
@[simp] theorem Slot.setV_hb (x : Slot) (r : BitVec 4) (v : W256) : (x.setV r v).hb = x.hb := rfl
@[simp] theorem Slot.setV_seen (x : Slot) (r : BitVec 4) (v : W256) : (x.setV r v).seen = x.seen := rfl
@[simp] theorem Slot.setV_fence (x : Slot) (r : BitVec 4) (v : W256) : (x.setV r v).fence = x.fence := rfl
@[simp] theorem Slot.setV_descs (x : Slot) (r : BitVec 4) (v : W256) : (x.setV r v).descs = x.descs := rfl
@[simp] theorem Slot.setV_guard (x : Slot) (r : BitVec 4) (v : W256) : (x.setV r v).guard = x.guard := rfl
@[simp] theorem Slot.setV_prest (x : Slot) (r : BitVec 4) (v : W256) : (x.setV r v).prest = x.prest := rfl
@[simp] theorem Slot.setV_paddr (x : Slot) (r : BitVec 4) (v : W256) : (x.setV r v).paddr = x.paddr := rfl
@[simp] theorem Slot.setV_psince (x : Slot) (r : BitVec 4) (v : W256) : (x.setV r v).psince = x.psince := rfl
@[simp] theorem Slot.setV_cpNum (x : Slot) (r : BitVec 4) (v : W256) : (x.setV r v).cpNum = x.cpNum := rfl
@[simp] theorem Slot.setV_mxNum (x : Slot) (r : BitVec 4) (v : W256) : (x.setV r v).mxNum = x.mxNum := rfl
@[simp] theorem Slot.setV_spillbase (x : Slot) (r : BitVec 4) (v : W256) : (x.setV r v).spillbase = x.spillbase := rfl
@[simp] theorem Slot.setV_lastCause (x : Slot) (r : BitVec 4) (v : W256) : (x.setV r v).lastCause = x.lastCause := rfl
@[simp] theorem Slot.setV_cmdStatus (x : Slot) (r : BitVec 4) (v : W256) : (x.setV r v).cmdStatus = x.cmdStatus := rfl
@[simp] theorem Slot.setV_busy (x : Slot) (r : BitVec 4) (v : W256) : (x.setV r v).busy = x.busy := rfl
@[simp] theorem Slot.setV_npre (x : Slot) (r : BitVec 4) (v : W256) : (x.setV r v).npre = x.npre := rfl
@[simp] theorem Slot.setV_faults (x : Slot) (r : BitVec 4) (v : W256) : (x.setV r v).faults = x.faults := rfl
@[simp] theorem Slot.setV_stepSeq (x : Slot) (r : BitVec 4) (v : W256) : (x.setV r v).stepSeq = x.stepSeq := rfl
@[simp] theorem Slot.setV_inspect (x : Slot) (r : BitVec 4) (v : W256) : (x.setV r v).inspect = x.inspect := rfl
@[simp] theorem Slot.setV_stepping (x : Slot) (r : BitVec 4) (v : W256) : (x.setV r v).stepping = x.stepping := rfl
@[simp] theorem Slot.setV_begun (x : Slot) (r : BitVec 4) (v : W256) : (x.setV r v).begun = x.begun := rfl
@[simp] theorem Slot.setV_sent (x : Slot) (r : BitVec 4) (v : W256) : (x.setV r v).sent = x.sent := rfl
@[simp] theorem Slot.setV_stamped (x : Slot) (r : BitVec 4) (v : W256) : (x.setV r v).stamped = x.stamped := rfl
@[simp] theorem Slot.setV_word (x : Slot) (r : BitVec 4) (v : W256) : (x.setV r v).word = x.word := rfl
@[simp] theorem Slot.setV_woken (x : Slot) (r : BitVec 4) (v : W256) : (x.setV r v).woken = x.woken := rfl
@[simp] theorem Slot.setV_stepDone (x : Slot) (r : BitVec 4) (v : W256) : (x.setV r v).stepDone = x.stepDone := rfl
@[simp] theorem Slot.setV_stepRep (x : Slot) (r : BitVec 4) (v : W256) : (x.setV r v).stepRep = x.stepRep := rfl
@[simp] theorem Slot.setV_restoring (x : Slot) (r : BitVec 4) (v : W256) : (x.setV r v).restoring = x.restoring := rfl
@[simp] theorem Slot.setV_spilled (x : Slot) (r : BitVec 4) (v : W256) : (x.setV r v).spilled = x.spilled := rfl
@[simp] theorem Slot.setV_spillAt (x : Slot) (r : BitVec 4) (v : W256) : (x.setV r v).spillAt = x.spillAt := rfl
@[simp] theorem Slot.setV_preempting (x : Slot) (r : BitVec 4) (v : W256) : (x.setV r v).preempting = x.preempting := rfl
@[simp] theorem Slot.setV_packet (x : Slot) (r : BitVec 4) (v : W256) : (x.setV r v).packet = x.packet := rfl
@[simp] theorem Slot.setV_sig (x : Slot) (r : BitVec 4) (v : W256) : (x.setV r v).sig = x.sig := rfl
@[simp] theorem Slot.setV_prevBlock (x : Slot) (r : BitVec 4) (v : W256) : (x.setV r v).prevBlock = x.prevBlock := rfl
@[simp] theorem Slot.setV_sigWas (x : Slot) (r : BitVec 4) (v : W256) : (x.setV r v).sigWas = x.sigWas := rfl

@[simp] theorem Slot.setM_state (x : Slot) (r : Nat) (v : W32) : (x.setM r v).state = x.state := rfl
@[simp] theorem Slot.setM_hold (x : Slot) (r : Nat) (v : W32) : (x.setM r v).hold = x.hold := rfl
@[simp] theorem Slot.setM_heldSince (x : Slot) (r : Nat) (v : W32) : (x.setM r v).heldSince = x.heldSince := rfl
@[simp] theorem Slot.setM_await (x : Slot) (r : Nat) (v : W32) : (x.setM r v).await = x.await := rfl
@[simp] theorem Slot.setM_mode (x : Slot) (r : Nat) (v : W32) : (x.setM r v).mode = x.mode := rfl
@[simp] theorem Slot.setM_pc (x : Slot) (r : Nat) (v : W32) : (x.setM r v).pc = x.pc := rfl
@[simp] theorem Slot.setM_rstpc (x : Slot) (r : Nat) (v : W32) : (x.setM r v).rstpc = x.rstpc := rfl
@[simp] theorem Slot.setM_low (x : Slot) (r : Nat) (v : W32) : (x.setM r v).low = x.low := rfl
@[simp] theorem Slot.setM_win (x : Slot) (r : Nat) (v : W32) : (x.setM r v).win = x.win := rfl
@[simp] theorem Slot.setM_wb (x : Slot) (r : Nat) (v : W32) : (x.setM r v).wb = x.wb := rfl
@[simp] theorem Slot.setM_res (x : Slot) (r : Nat) (v : W32) : (x.setM r v).res = x.res := rfl
@[simp] theorem Slot.setM_v (x : Slot) (r : Nat) (v : W32) : (x.setM r v).v = x.v := rfl
@[simp] theorem Slot.setM_q (x : Slot) (r : Nat) (v : W32) : (x.setM r v).q = x.q := rfl
@[simp] theorem Slot.setM_task (x : Slot) (r : Nat) (v : W32) : (x.setM r v).task = x.task := rfl
@[simp] theorem Slot.setM_taskid (x : Slot) (r : Nat) (v : W32) : (x.setM r v).taskid = x.taskid := rfl
@[simp] theorem Slot.setM_name (x : Slot) (r : Nat) (v : W32) : (x.setM r v).name = x.name := rfl
@[simp] theorem Slot.setM_named (x : Slot) (r : Nat) (v : W32) : (x.setM r v).named = x.named := rfl
@[simp] theorem Slot.setM_prio (x : Slot) (r : Nat) (v : W32) : (x.setM r v).prio = x.prio := rfl
@[simp] theorem Slot.setM_ctx (x : Slot) (r : Nat) (v : W32) : (x.setM r v).ctx = x.ctx := rfl
@[simp] theorem Slot.setM_feat (x : Slot) (r : Nat) (v : W32) : (x.setM r v).feat = x.feat := rfl
@[simp] theorem Slot.setM_eclass (x : Slot) (r : Nat) (v : W32) : (x.setM r v).eclass = x.eclass := rfl
@[simp] theorem Slot.setM_place (x : Slot) (r : Nat) (v : W32) : (x.setM r v).place = x.place := rfl
@[simp] theorem Slot.setM_holdlim (x : Slot) (r : Nat) (v : W32) : (x.setM r v).holdlim = x.holdlim := rfl
@[simp] theorem Slot.setM_fsp (x : Slot) (r : Nat) (v : W32) : (x.setM r v).fsp = x.fsp := rfl
@[simp] theorem Slot.setM_fslim (x : Slot) (r : Nat) (v : W32) : (x.setM r v).fslim = x.fslim := rfl
@[simp] theorem Slot.setM_through (x : Slot) (r : Nat) (v : W32) : (x.setM r v).through = x.through := rfl
@[simp] theorem Slot.setM_seg (x : Slot) (r : Nat) (v : W32) : (x.setM r v).seg = x.seg := rfl
@[simp] theorem Slot.setM_buf (x : Slot) (r : Nat) (v : W32) : (x.setM r v).buf = x.buf := rfl
@[simp] theorem Slot.setM_obs (x : Slot) (r : Nat) (v : W32) : (x.setM r v).obs = x.obs := rfl
@[simp] theorem Slot.setM_hb (x : Slot) (r : Nat) (v : W32) : (x.setM r v).hb = x.hb := rfl
@[simp] theorem Slot.setM_seen (x : Slot) (r : Nat) (v : W32) : (x.setM r v).seen = x.seen := rfl
@[simp] theorem Slot.setM_fence (x : Slot) (r : Nat) (v : W32) : (x.setM r v).fence = x.fence := rfl
@[simp] theorem Slot.setM_descs (x : Slot) (r : Nat) (v : W32) : (x.setM r v).descs = x.descs := rfl
@[simp] theorem Slot.setM_guard (x : Slot) (r : Nat) (v : W32) : (x.setM r v).guard = x.guard := rfl
@[simp] theorem Slot.setM_prest (x : Slot) (r : Nat) (v : W32) : (x.setM r v).prest = x.prest := rfl
@[simp] theorem Slot.setM_paddr (x : Slot) (r : Nat) (v : W32) : (x.setM r v).paddr = x.paddr := rfl
@[simp] theorem Slot.setM_psince (x : Slot) (r : Nat) (v : W32) : (x.setM r v).psince = x.psince := rfl
@[simp] theorem Slot.setM_cpNum (x : Slot) (r : Nat) (v : W32) : (x.setM r v).cpNum = x.cpNum := rfl
@[simp] theorem Slot.setM_mxNum (x : Slot) (r : Nat) (v : W32) : (x.setM r v).mxNum = x.mxNum := rfl
@[simp] theorem Slot.setM_spillbase (x : Slot) (r : Nat) (v : W32) : (x.setM r v).spillbase = x.spillbase := rfl
@[simp] theorem Slot.setM_lastCause (x : Slot) (r : Nat) (v : W32) : (x.setM r v).lastCause = x.lastCause := rfl
@[simp] theorem Slot.setM_cmdStatus (x : Slot) (r : Nat) (v : W32) : (x.setM r v).cmdStatus = x.cmdStatus := rfl
@[simp] theorem Slot.setM_busy (x : Slot) (r : Nat) (v : W32) : (x.setM r v).busy = x.busy := rfl
@[simp] theorem Slot.setM_npre (x : Slot) (r : Nat) (v : W32) : (x.setM r v).npre = x.npre := rfl
@[simp] theorem Slot.setM_faults (x : Slot) (r : Nat) (v : W32) : (x.setM r v).faults = x.faults := rfl
@[simp] theorem Slot.setM_stepSeq (x : Slot) (r : Nat) (v : W32) : (x.setM r v).stepSeq = x.stepSeq := rfl
@[simp] theorem Slot.setM_inspect (x : Slot) (r : Nat) (v : W32) : (x.setM r v).inspect = x.inspect := rfl
@[simp] theorem Slot.setM_stepping (x : Slot) (r : Nat) (v : W32) : (x.setM r v).stepping = x.stepping := rfl
@[simp] theorem Slot.setM_begun (x : Slot) (r : Nat) (v : W32) : (x.setM r v).begun = x.begun := rfl
@[simp] theorem Slot.setM_sent (x : Slot) (r : Nat) (v : W32) : (x.setM r v).sent = x.sent := rfl
@[simp] theorem Slot.setM_stamped (x : Slot) (r : Nat) (v : W32) : (x.setM r v).stamped = x.stamped := rfl
@[simp] theorem Slot.setM_word (x : Slot) (r : Nat) (v : W32) : (x.setM r v).word = x.word := rfl
@[simp] theorem Slot.setM_woken (x : Slot) (r : Nat) (v : W32) : (x.setM r v).woken = x.woken := rfl
@[simp] theorem Slot.setM_stepDone (x : Slot) (r : Nat) (v : W32) : (x.setM r v).stepDone = x.stepDone := rfl
@[simp] theorem Slot.setM_stepRep (x : Slot) (r : Nat) (v : W32) : (x.setM r v).stepRep = x.stepRep := rfl
@[simp] theorem Slot.setM_restoring (x : Slot) (r : Nat) (v : W32) : (x.setM r v).restoring = x.restoring := rfl
@[simp] theorem Slot.setM_spilled (x : Slot) (r : Nat) (v : W32) : (x.setM r v).spilled = x.spilled := rfl
@[simp] theorem Slot.setM_spillAt (x : Slot) (r : Nat) (v : W32) : (x.setM r v).spillAt = x.spillAt := rfl
@[simp] theorem Slot.setM_preempting (x : Slot) (r : Nat) (v : W32) : (x.setM r v).preempting = x.preempting := rfl
@[simp] theorem Slot.setM_packet (x : Slot) (r : Nat) (v : W32) : (x.setM r v).packet = x.packet := rfl
@[simp] theorem Slot.setM_sig (x : Slot) (r : Nat) (v : W32) : (x.setM r v).sig = x.sig := rfl
@[simp] theorem Slot.setM_prevBlock (x : Slot) (r : Nat) (v : W32) : (x.setM r v).prevBlock = x.prevBlock := rfl
@[simp] theorem Slot.setM_sigWas (x : Slot) (r : Nat) (v : W32) : (x.setM r v).sigWas = x.sigWas := rfl

@[simp] theorem Slot.setSt_state (x : Slot) (k : Nat) (v : Stream) : (x.setSt k v).state = x.state := rfl
@[simp] theorem Slot.setSt_hold (x : Slot) (k : Nat) (v : Stream) : (x.setSt k v).hold = x.hold := rfl
@[simp] theorem Slot.setSt_heldSince (x : Slot) (k : Nat) (v : Stream) : (x.setSt k v).heldSince = x.heldSince := rfl
@[simp] theorem Slot.setSt_await (x : Slot) (k : Nat) (v : Stream) : (x.setSt k v).await = x.await := rfl
@[simp] theorem Slot.setSt_mode (x : Slot) (k : Nat) (v : Stream) : (x.setSt k v).mode = x.mode := rfl
@[simp] theorem Slot.setSt_pc (x : Slot) (k : Nat) (v : Stream) : (x.setSt k v).pc = x.pc := rfl
@[simp] theorem Slot.setSt_rstpc (x : Slot) (k : Nat) (v : Stream) : (x.setSt k v).rstpc = x.rstpc := rfl
@[simp] theorem Slot.setSt_low (x : Slot) (k : Nat) (v : Stream) : (x.setSt k v).low = x.low := rfl
@[simp] theorem Slot.setSt_win (x : Slot) (k : Nat) (v : Stream) : (x.setSt k v).win = x.win := rfl
@[simp] theorem Slot.setSt_wb (x : Slot) (k : Nat) (v : Stream) : (x.setSt k v).wb = x.wb := rfl
@[simp] theorem Slot.setSt_res (x : Slot) (k : Nat) (v : Stream) : (x.setSt k v).res = x.res := rfl
@[simp] theorem Slot.setSt_v (x : Slot) (k : Nat) (v : Stream) : (x.setSt k v).v = x.v := rfl
@[simp] theorem Slot.setSt_m (x : Slot) (k : Nat) (v : Stream) : (x.setSt k v).m = x.m := rfl
@[simp] theorem Slot.setSt_task (x : Slot) (k : Nat) (v : Stream) : (x.setSt k v).task = x.task := rfl
@[simp] theorem Slot.setSt_taskid (x : Slot) (k : Nat) (v : Stream) : (x.setSt k v).taskid = x.taskid := rfl
@[simp] theorem Slot.setSt_name (x : Slot) (k : Nat) (v : Stream) : (x.setSt k v).name = x.name := rfl
@[simp] theorem Slot.setSt_named (x : Slot) (k : Nat) (v : Stream) : (x.setSt k v).named = x.named := rfl
@[simp] theorem Slot.setSt_prio (x : Slot) (k : Nat) (v : Stream) : (x.setSt k v).prio = x.prio := rfl
@[simp] theorem Slot.setSt_ctx (x : Slot) (k : Nat) (v : Stream) : (x.setSt k v).ctx = x.ctx := rfl
@[simp] theorem Slot.setSt_feat (x : Slot) (k : Nat) (v : Stream) : (x.setSt k v).feat = x.feat := rfl
@[simp] theorem Slot.setSt_eclass (x : Slot) (k : Nat) (v : Stream) : (x.setSt k v).eclass = x.eclass := rfl
@[simp] theorem Slot.setSt_place (x : Slot) (k : Nat) (v : Stream) : (x.setSt k v).place = x.place := rfl
@[simp] theorem Slot.setSt_holdlim (x : Slot) (k : Nat) (v : Stream) : (x.setSt k v).holdlim = x.holdlim := rfl
@[simp] theorem Slot.setSt_fsp (x : Slot) (k : Nat) (v : Stream) : (x.setSt k v).fsp = x.fsp := rfl
@[simp] theorem Slot.setSt_fslim (x : Slot) (k : Nat) (v : Stream) : (x.setSt k v).fslim = x.fslim := rfl
@[simp] theorem Slot.setSt_through (x : Slot) (k : Nat) (v : Stream) : (x.setSt k v).through = x.through := rfl
@[simp] theorem Slot.setSt_seg (x : Slot) (k : Nat) (v : Stream) : (x.setSt k v).seg = x.seg := rfl
@[simp] theorem Slot.setSt_buf (x : Slot) (k : Nat) (v : Stream) : (x.setSt k v).buf = x.buf := rfl
@[simp] theorem Slot.setSt_obs (x : Slot) (k : Nat) (v : Stream) : (x.setSt k v).obs = x.obs := rfl
@[simp] theorem Slot.setSt_hb (x : Slot) (k : Nat) (v : Stream) : (x.setSt k v).hb = x.hb := rfl
@[simp] theorem Slot.setSt_seen (x : Slot) (k : Nat) (v : Stream) : (x.setSt k v).seen = x.seen := rfl
@[simp] theorem Slot.setSt_fence (x : Slot) (k : Nat) (v : Stream) : (x.setSt k v).fence = x.fence := rfl
@[simp] theorem Slot.setSt_descs (x : Slot) (k : Nat) (v : Stream) : (x.setSt k v).descs = x.descs := rfl
@[simp] theorem Slot.setSt_guard (x : Slot) (k : Nat) (v : Stream) : (x.setSt k v).guard = x.guard := rfl
@[simp] theorem Slot.setSt_prest (x : Slot) (k : Nat) (v : Stream) : (x.setSt k v).prest = x.prest := rfl
@[simp] theorem Slot.setSt_paddr (x : Slot) (k : Nat) (v : Stream) : (x.setSt k v).paddr = x.paddr := rfl
@[simp] theorem Slot.setSt_psince (x : Slot) (k : Nat) (v : Stream) : (x.setSt k v).psince = x.psince := rfl
@[simp] theorem Slot.setSt_cpNum (x : Slot) (k : Nat) (v : Stream) : (x.setSt k v).cpNum = x.cpNum := rfl
@[simp] theorem Slot.setSt_mxNum (x : Slot) (k : Nat) (v : Stream) : (x.setSt k v).mxNum = x.mxNum := rfl
@[simp] theorem Slot.setSt_spillbase (x : Slot) (k : Nat) (v : Stream) : (x.setSt k v).spillbase = x.spillbase := rfl
@[simp] theorem Slot.setSt_lastCause (x : Slot) (k : Nat) (v : Stream) : (x.setSt k v).lastCause = x.lastCause := rfl
@[simp] theorem Slot.setSt_cmdStatus (x : Slot) (k : Nat) (v : Stream) : (x.setSt k v).cmdStatus = x.cmdStatus := rfl
@[simp] theorem Slot.setSt_busy (x : Slot) (k : Nat) (v : Stream) : (x.setSt k v).busy = x.busy := rfl
@[simp] theorem Slot.setSt_npre (x : Slot) (k : Nat) (v : Stream) : (x.setSt k v).npre = x.npre := rfl
@[simp] theorem Slot.setSt_faults (x : Slot) (k : Nat) (v : Stream) : (x.setSt k v).faults = x.faults := rfl
@[simp] theorem Slot.setSt_stepSeq (x : Slot) (k : Nat) (v : Stream) : (x.setSt k v).stepSeq = x.stepSeq := rfl
@[simp] theorem Slot.setSt_inspect (x : Slot) (k : Nat) (v : Stream) : (x.setSt k v).inspect = x.inspect := rfl
@[simp] theorem Slot.setSt_stepping (x : Slot) (k : Nat) (v : Stream) : (x.setSt k v).stepping = x.stepping := rfl
@[simp] theorem Slot.setSt_begun (x : Slot) (k : Nat) (v : Stream) : (x.setSt k v).begun = x.begun := rfl
@[simp] theorem Slot.setSt_sent (x : Slot) (k : Nat) (v : Stream) : (x.setSt k v).sent = x.sent := rfl
@[simp] theorem Slot.setSt_stamped (x : Slot) (k : Nat) (v : Stream) : (x.setSt k v).stamped = x.stamped := rfl
@[simp] theorem Slot.setSt_word (x : Slot) (k : Nat) (v : Stream) : (x.setSt k v).word = x.word := rfl
@[simp] theorem Slot.setSt_woken (x : Slot) (k : Nat) (v : Stream) : (x.setSt k v).woken = x.woken := rfl
@[simp] theorem Slot.setSt_stepDone (x : Slot) (k : Nat) (v : Stream) : (x.setSt k v).stepDone = x.stepDone := rfl
@[simp] theorem Slot.setSt_stepRep (x : Slot) (k : Nat) (v : Stream) : (x.setSt k v).stepRep = x.stepRep := rfl
@[simp] theorem Slot.setSt_restoring (x : Slot) (k : Nat) (v : Stream) : (x.setSt k v).restoring = x.restoring := rfl
@[simp] theorem Slot.setSt_spilled (x : Slot) (k : Nat) (v : Stream) : (x.setSt k v).spilled = x.spilled := rfl
@[simp] theorem Slot.setSt_spillAt (x : Slot) (k : Nat) (v : Stream) : (x.setSt k v).spillAt = x.spillAt := rfl
@[simp] theorem Slot.setSt_preempting (x : Slot) (k : Nat) (v : Stream) : (x.setSt k v).preempting = x.preempting := rfl
@[simp] theorem Slot.setSt_packet (x : Slot) (k : Nat) (v : Stream) : (x.setSt k v).packet = x.packet := rfl
@[simp] theorem Slot.setSt_sig (x : Slot) (k : Nat) (v : Stream) : (x.setSt k v).sig = x.sig := rfl
@[simp] theorem Slot.setSt_prevBlock (x : Slot) (k : Nat) (v : Stream) : (x.setSt k v).prevBlock = x.prevBlock := rfl
@[simp] theorem Slot.setSt_sigWas (x : Slot) (k : Nat) (v : Stream) : (x.setSt k v).sigWas = x.sigWas := rfl

@[simp] theorem Slot.goto_state (x : Slot) (p : Pc) : (x.goto p).state = x.state := rfl
@[simp] theorem Slot.goto_hold (x : Slot) (p : Pc) : (x.goto p).hold = x.hold := rfl
@[simp] theorem Slot.goto_heldSince (x : Slot) (p : Pc) : (x.goto p).heldSince = x.heldSince := rfl
@[simp] theorem Slot.goto_await (x : Slot) (p : Pc) : (x.goto p).await = x.await := rfl
@[simp] theorem Slot.goto_mode (x : Slot) (p : Pc) : (x.goto p).mode = x.mode := rfl
@[simp] theorem Slot.goto_rstpc (x : Slot) (p : Pc) : (x.goto p).rstpc = x.rstpc := rfl
@[simp] theorem Slot.goto_low (x : Slot) (p : Pc) : (x.goto p).low = x.low := rfl
@[simp] theorem Slot.goto_win (x : Slot) (p : Pc) : (x.goto p).win = x.win := rfl
@[simp] theorem Slot.goto_wb (x : Slot) (p : Pc) : (x.goto p).wb = x.wb := rfl
@[simp] theorem Slot.goto_res (x : Slot) (p : Pc) : (x.goto p).res = x.res := rfl
@[simp] theorem Slot.goto_v (x : Slot) (p : Pc) : (x.goto p).v = x.v := rfl
@[simp] theorem Slot.goto_m (x : Slot) (p : Pc) : (x.goto p).m = x.m := rfl
@[simp] theorem Slot.goto_q (x : Slot) (p : Pc) : (x.goto p).q = x.q := rfl
@[simp] theorem Slot.goto_task (x : Slot) (p : Pc) : (x.goto p).task = x.task := rfl
@[simp] theorem Slot.goto_taskid (x : Slot) (p : Pc) : (x.goto p).taskid = x.taskid := rfl
@[simp] theorem Slot.goto_name (x : Slot) (p : Pc) : (x.goto p).name = x.name := rfl
@[simp] theorem Slot.goto_named (x : Slot) (p : Pc) : (x.goto p).named = x.named := rfl
@[simp] theorem Slot.goto_prio (x : Slot) (p : Pc) : (x.goto p).prio = x.prio := rfl
@[simp] theorem Slot.goto_ctx (x : Slot) (p : Pc) : (x.goto p).ctx = x.ctx := rfl
@[simp] theorem Slot.goto_feat (x : Slot) (p : Pc) : (x.goto p).feat = x.feat := rfl
@[simp] theorem Slot.goto_eclass (x : Slot) (p : Pc) : (x.goto p).eclass = x.eclass := rfl
@[simp] theorem Slot.goto_place (x : Slot) (p : Pc) : (x.goto p).place = x.place := rfl
@[simp] theorem Slot.goto_holdlim (x : Slot) (p : Pc) : (x.goto p).holdlim = x.holdlim := rfl
@[simp] theorem Slot.goto_fsp (x : Slot) (p : Pc) : (x.goto p).fsp = x.fsp := rfl
@[simp] theorem Slot.goto_fslim (x : Slot) (p : Pc) : (x.goto p).fslim = x.fslim := rfl
@[simp] theorem Slot.goto_through (x : Slot) (p : Pc) : (x.goto p).through = x.through := rfl
@[simp] theorem Slot.goto_seg (x : Slot) (p : Pc) : (x.goto p).seg = x.seg := rfl
@[simp] theorem Slot.goto_buf (x : Slot) (p : Pc) : (x.goto p).buf = x.buf := rfl
@[simp] theorem Slot.goto_obs (x : Slot) (p : Pc) : (x.goto p).obs = x.obs := rfl
@[simp] theorem Slot.goto_hb (x : Slot) (p : Pc) : (x.goto p).hb = x.hb := rfl
@[simp] theorem Slot.goto_seen (x : Slot) (p : Pc) : (x.goto p).seen = x.seen := rfl
@[simp] theorem Slot.goto_fence (x : Slot) (p : Pc) : (x.goto p).fence = x.fence := rfl
@[simp] theorem Slot.goto_descs (x : Slot) (p : Pc) : (x.goto p).descs = x.descs := rfl
@[simp] theorem Slot.goto_guard (x : Slot) (p : Pc) : (x.goto p).guard = x.guard := rfl
@[simp] theorem Slot.goto_prest (x : Slot) (p : Pc) : (x.goto p).prest = x.prest := rfl
@[simp] theorem Slot.goto_paddr (x : Slot) (p : Pc) : (x.goto p).paddr = x.paddr := rfl
@[simp] theorem Slot.goto_psince (x : Slot) (p : Pc) : (x.goto p).psince = x.psince := rfl
@[simp] theorem Slot.goto_cpNum (x : Slot) (p : Pc) : (x.goto p).cpNum = x.cpNum := rfl
@[simp] theorem Slot.goto_mxNum (x : Slot) (p : Pc) : (x.goto p).mxNum = x.mxNum := rfl
@[simp] theorem Slot.goto_spillbase (x : Slot) (p : Pc) : (x.goto p).spillbase = x.spillbase := rfl
@[simp] theorem Slot.goto_lastCause (x : Slot) (p : Pc) : (x.goto p).lastCause = x.lastCause := rfl
@[simp] theorem Slot.goto_cmdStatus (x : Slot) (p : Pc) : (x.goto p).cmdStatus = x.cmdStatus := rfl
@[simp] theorem Slot.goto_busy (x : Slot) (p : Pc) : (x.goto p).busy = x.busy := rfl
@[simp] theorem Slot.goto_npre (x : Slot) (p : Pc) : (x.goto p).npre = x.npre := rfl
@[simp] theorem Slot.goto_faults (x : Slot) (p : Pc) : (x.goto p).faults = x.faults := rfl
@[simp] theorem Slot.goto_stepSeq (x : Slot) (p : Pc) : (x.goto p).stepSeq = x.stepSeq := rfl
@[simp] theorem Slot.goto_inspect (x : Slot) (p : Pc) : (x.goto p).inspect = x.inspect := rfl
@[simp] theorem Slot.goto_stepping (x : Slot) (p : Pc) : (x.goto p).stepping = x.stepping := rfl
@[simp] theorem Slot.goto_sent (x : Slot) (p : Pc) : (x.goto p).sent = x.sent := rfl
@[simp] theorem Slot.goto_word (x : Slot) (p : Pc) : (x.goto p).word = x.word := rfl
@[simp] theorem Slot.goto_woken (x : Slot) (p : Pc) : (x.goto p).woken = x.woken := rfl
@[simp] theorem Slot.goto_stepRep (x : Slot) (p : Pc) : (x.goto p).stepRep = x.stepRep := rfl
@[simp] theorem Slot.goto_restoring (x : Slot) (p : Pc) : (x.goto p).restoring = x.restoring := rfl
@[simp] theorem Slot.goto_spilled (x : Slot) (p : Pc) : (x.goto p).spilled = x.spilled := rfl
@[simp] theorem Slot.goto_spillAt (x : Slot) (p : Pc) : (x.goto p).spillAt = x.spillAt := rfl
@[simp] theorem Slot.goto_preempting (x : Slot) (p : Pc) : (x.goto p).preempting = x.preempting := rfl
@[simp] theorem Slot.goto_packet (x : Slot) (p : Pc) : (x.goto p).packet = x.packet := rfl
@[simp] theorem Slot.goto_sig (x : Slot) (p : Pc) : (x.goto p).sig = x.sig := rfl
@[simp] theorem Slot.goto_prevBlock (x : Slot) (p : Pc) : (x.goto p).prevBlock = x.prevBlock := rfl
@[simp] theorem Slot.goto_sigWas (x : Slot) (p : Pc) : (x.goto p).sigWas = x.sigWas := rfl

@[simp] theorem Slot.next_state (x : Slot) : (x.next).state = x.state := rfl
@[simp] theorem Slot.next_hold (x : Slot) : (x.next).hold = x.hold := rfl
@[simp] theorem Slot.next_heldSince (x : Slot) : (x.next).heldSince = x.heldSince := rfl
@[simp] theorem Slot.next_await (x : Slot) : (x.next).await = x.await := rfl
@[simp] theorem Slot.next_mode (x : Slot) : (x.next).mode = x.mode := rfl
@[simp] theorem Slot.next_rstpc (x : Slot) : (x.next).rstpc = x.rstpc := rfl
@[simp] theorem Slot.next_low (x : Slot) : (x.next).low = x.low := rfl
@[simp] theorem Slot.next_win (x : Slot) : (x.next).win = x.win := rfl
@[simp] theorem Slot.next_wb (x : Slot) : (x.next).wb = x.wb := rfl
@[simp] theorem Slot.next_res (x : Slot) : (x.next).res = x.res := rfl
@[simp] theorem Slot.next_v (x : Slot) : (x.next).v = x.v := rfl
@[simp] theorem Slot.next_m (x : Slot) : (x.next).m = x.m := rfl
@[simp] theorem Slot.next_q (x : Slot) : (x.next).q = x.q := rfl
@[simp] theorem Slot.next_task (x : Slot) : (x.next).task = x.task := rfl
@[simp] theorem Slot.next_taskid (x : Slot) : (x.next).taskid = x.taskid := rfl
@[simp] theorem Slot.next_name (x : Slot) : (x.next).name = x.name := rfl
@[simp] theorem Slot.next_named (x : Slot) : (x.next).named = x.named := rfl
@[simp] theorem Slot.next_prio (x : Slot) : (x.next).prio = x.prio := rfl
@[simp] theorem Slot.next_ctx (x : Slot) : (x.next).ctx = x.ctx := rfl
@[simp] theorem Slot.next_feat (x : Slot) : (x.next).feat = x.feat := rfl
@[simp] theorem Slot.next_eclass (x : Slot) : (x.next).eclass = x.eclass := rfl
@[simp] theorem Slot.next_place (x : Slot) : (x.next).place = x.place := rfl
@[simp] theorem Slot.next_holdlim (x : Slot) : (x.next).holdlim = x.holdlim := rfl
@[simp] theorem Slot.next_fsp (x : Slot) : (x.next).fsp = x.fsp := rfl
@[simp] theorem Slot.next_fslim (x : Slot) : (x.next).fslim = x.fslim := rfl
@[simp] theorem Slot.next_through (x : Slot) : (x.next).through = x.through := rfl
@[simp] theorem Slot.next_seg (x : Slot) : (x.next).seg = x.seg := rfl
@[simp] theorem Slot.next_buf (x : Slot) : (x.next).buf = x.buf := rfl
@[simp] theorem Slot.next_obs (x : Slot) : (x.next).obs = x.obs := rfl
@[simp] theorem Slot.next_hb (x : Slot) : (x.next).hb = x.hb := rfl
@[simp] theorem Slot.next_seen (x : Slot) : (x.next).seen = x.seen := rfl
@[simp] theorem Slot.next_fence (x : Slot) : (x.next).fence = x.fence := rfl
@[simp] theorem Slot.next_descs (x : Slot) : (x.next).descs = x.descs := rfl
@[simp] theorem Slot.next_guard (x : Slot) : (x.next).guard = x.guard := rfl
@[simp] theorem Slot.next_prest (x : Slot) : (x.next).prest = x.prest := rfl
@[simp] theorem Slot.next_paddr (x : Slot) : (x.next).paddr = x.paddr := rfl
@[simp] theorem Slot.next_psince (x : Slot) : (x.next).psince = x.psince := rfl
@[simp] theorem Slot.next_cpNum (x : Slot) : (x.next).cpNum = x.cpNum := rfl
@[simp] theorem Slot.next_mxNum (x : Slot) : (x.next).mxNum = x.mxNum := rfl
@[simp] theorem Slot.next_spillbase (x : Slot) : (x.next).spillbase = x.spillbase := rfl
@[simp] theorem Slot.next_lastCause (x : Slot) : (x.next).lastCause = x.lastCause := rfl
@[simp] theorem Slot.next_cmdStatus (x : Slot) : (x.next).cmdStatus = x.cmdStatus := rfl
@[simp] theorem Slot.next_busy (x : Slot) : (x.next).busy = x.busy := rfl
@[simp] theorem Slot.next_npre (x : Slot) : (x.next).npre = x.npre := rfl
@[simp] theorem Slot.next_faults (x : Slot) : (x.next).faults = x.faults := rfl
@[simp] theorem Slot.next_stepSeq (x : Slot) : (x.next).stepSeq = x.stepSeq := rfl
@[simp] theorem Slot.next_inspect (x : Slot) : (x.next).inspect = x.inspect := rfl
@[simp] theorem Slot.next_stepping (x : Slot) : (x.next).stepping = x.stepping := rfl
@[simp] theorem Slot.next_sent (x : Slot) : (x.next).sent = x.sent := rfl
@[simp] theorem Slot.next_word (x : Slot) : (x.next).word = x.word := rfl
@[simp] theorem Slot.next_woken (x : Slot) : (x.next).woken = x.woken := rfl
@[simp] theorem Slot.next_stepRep (x : Slot) : (x.next).stepRep = x.stepRep := rfl
@[simp] theorem Slot.next_restoring (x : Slot) : (x.next).restoring = x.restoring := rfl
@[simp] theorem Slot.next_spilled (x : Slot) : (x.next).spilled = x.spilled := rfl
@[simp] theorem Slot.next_spillAt (x : Slot) : (x.next).spillAt = x.spillAt := rfl
@[simp] theorem Slot.next_preempting (x : Slot) : (x.next).preempting = x.preempting := rfl
@[simp] theorem Slot.next_packet (x : Slot) : (x.next).packet = x.packet := rfl
@[simp] theorem Slot.next_sig (x : Slot) : (x.next).sig = x.sig := rfl
@[simp] theorem Slot.next_prevBlock (x : Slot) : (x.next).prevBlock = x.prevBlock := rfl
@[simp] theorem Slot.next_sigWas (x : Slot) : (x.next).sigWas = x.sigWas := rfl

@[simp] theorem Slot.goto_pc (x : Slot) (p : Pc) : (x.goto p).pc = p := rfl
@[simp] theorem Slot.goto_begun (x : Slot) (p : Pc) : (x.goto p).begun = false := rfl
@[simp] theorem Slot.goto_stamped (x : Slot) (p : Pc) : (x.goto p).stamped = false := rfl
@[simp] theorem Slot.next_stamped (x : Slot) : x.next.stamped = false := rfl
@[simp] theorem Slot.next_pc (x : Slot) : x.next.pc = x.pc + 4 := rfl
@[simp] theorem Slot.next_begun (x : Slot) : x.next.begun = false := rfl
@[simp] theorem Slot.goto_s (x : Slot) (p : Pc) (r : BitVec 5) : (x.goto p).s r = x.s r := rfl
@[simp] theorem Slot.next_s (x : Slot) (r : BitVec 5) : x.next.s r = x.s r := rfl
@[simp] theorem Slot.next_vr (x : Slot) (r : BitVec 4) : x.next.vr r = x.vr r := rfl
@[simp] theorem Slot.next_mr (x : Slot) (r : Nat) : x.next.mr r = x.mr r := rfl
@[simp] theorem Slot.setS_phys (x : Slot) (r : BitVec 5) (v : W64) (k : Nat) : (x.setS r v).phys k = x.phys k := by simp [Slot.phys]

/-- The registers s8 to s31 stand in different entries of the window file (R174). -/
theorem Slot.phys_inj (x : Slot) {a b : BitVec 5} (ha : 8 ≤ a.toNat) (hb : 8 ≤ b.toNat) (h : x.phys a.toNat = x.phys b.toNat) : a = b := by
  apply BitVec.eq_of_toNat_eq
  have := a.isLt; have := b.isLt
  simp only [Slot.phys] at h
  omega

/-- A scalar register after a write of one; s0 reads 0 whatever is written (R171). -/
theorem Slot.s_setS (x : Slot) (d r : BitVec 5) (v : W64) : (x.setS d v).s r = if r = d ∧ d ≠ 0 then v else x.s r := by
  by_cases hr : r = d
  · subst hr
    by_cases h0 : r = 0
    · subst h0; simp [Slot.s]
    · have hn : r.toNat ≠ 0 := fun h => h0 (BitVec.eq_of_toNat_eq (by simpa using h))
      rw [if_pos ⟨rfl, h0⟩]
      by_cases h8 : r.toNat < 8 <;> simp [Slot.s, Slot.setS, hn, h8, Slot.phys]
  · have hv : r.toNat ≠ d.toNat := fun h => hr (BitVec.eq_of_toNat_eq h)
    simp only [hr, false_and, if_false]
    by_cases d0 : d.toNat = 0
    · simp [Slot.setS, d0]
    · by_cases d8 : d.toNat < 8
      · simp only [Slot.setS, d0, d8, if_false, if_true, Slot.s, Tab.get_set, hv]; rfl
      · simp only [Slot.setS, d0, d8, if_false, Slot.s]
        by_cases r8 : r.toNat < 8
        · simp [r8]
        · have : x.phys r.toNat ≠ x.phys d.toNat := fun h => hr (x.phys_inj (by omega) (by omega) h)
          simp only [r8, Tab.get_set, Slot.phys] at this ⊢
          simp [this]

@[simp] theorem Slot.s_zero (x : Slot) : x.s 0 = 0 := rfl
@[simp] theorem Slot.setS_zero (x : Slot) (v : W64) : x.setS 0 v = x := rfl
theorem Slot.vr_setV (x : Slot) (d r : BitVec 4) (v : W256) : (x.setV d v).vr r = if r = d then v else x.vr r := by
  have : r = d ↔ r.toNat = d.toNat := ⟨fun h => by rw [h], BitVec.eq_of_toNat_eq⟩
  simp [Slot.vr, Slot.setV, Tab.get_set, this]
theorem Slot.mr_setM (x : Slot) (d r : Nat) (v : W32) : (x.setM d v).mr r = if r = d then v else x.mr r := by
  simp [Slot.mr, Slot.setM, Tab.get_set]
theorem Slot.st_setSt (x : Slot) (d r : Nat) (v : Stream) : (x.setSt d v).st r = if r = d then v else x.st r := by
  simp [Slot.st, Slot.setSt, Tab.get_set]
@[simp] theorem Slot.setS_vr (x : Slot) (d : BitVec 5) (v : W64) (r : BitVec 4) : (x.setS d v).vr r = x.vr r := by simp [Slot.vr]
@[simp] theorem Slot.setS_mr (x : Slot) (d : BitVec 5) (v : W64) (r : Nat) : (x.setS d v).mr r = x.mr r := by simp [Slot.mr]
@[simp] theorem Slot.setV_s (x : Slot) (d : BitVec 4) (v : W256) (r : BitVec 5) : (x.setV d v).s r = x.s r := rfl
@[simp] theorem Slot.setM_s (x : Slot) (d : Nat) (v : W32) (r : BitVec 5) : (x.setM d v).s r = x.s r := rfl
@[simp] theorem Slot.setV_mr (x : Slot) (d : BitVec 4) (v : W256) (r : Nat) : (x.setV d v).mr r = x.mr r := rfl
@[simp] theorem Slot.setM_vr (x : Slot) (d : Nat) (v : W32) (r : BitVec 4) : (x.setM d v).vr r = x.vr r := rfl

end Sys2Proof.Machine
end

