-- ==== Sys2Proof/Laws/Memory.lean ====
section
/-! SUPPORT. The laws of memory: what a read gives after a write, that every write keeps the canonical form, and what a write leaves alone
beside the bytes it stores. -/
namespace Sys2Proof.Machine

/-! Bytes -/

/-- A byte after a write of `n` bytes: little-endian (R10), and every byte outside as before. -/
theorem get_memPut (n : Nat) : ∀ (m : Tab Byte) (k v j : Nat), (memPut m k n v).get 0 j =
    if k ≤ j ∧ j < k + n then BitVec.ofNat 8 (v / 256 ^ (j - k)) else m.get 0 j := by
  induction n with
  | zero => intro m k v j; have : ¬ (k ≤ j ∧ j < k + 0) := by omega
            rw [if_neg this]; rfl
  | succ n ih =>
    intro m k v j
    rw [memPut, ih, Tab.get_set]
    by_cases h : k + 1 ≤ j ∧ j < k + 1 + n
    · have h' : k ≤ j ∧ j < k + (n + 1) := by omega
      have e : j - k = (j - (k + 1)) + 1 := by omega
      rw [if_pos h, if_pos h', e, Nat.pow_succ, Nat.mul_comm, Nat.div_div_eq_div_mul]
    · by_cases hj : j = k
      · subst hj
        have h' : j ≤ j ∧ j < j + (n + 1) := by omega
        simp [h']
      · have h' : ¬ (k ≤ j ∧ j < k + (n + 1)) := by omega
        rw [if_neg h, if_neg h', if_neg hj]

/-- A byte after a write under a mask. -/
theorem get_memPutMask (n : Nat) : ∀ (m : Tab Byte) (k v mk j : Nat), (memPutMask m k n v mk).get 0 j =
    if k ≤ j ∧ j < k + n ∧ mk / 2 ^ (j - k) % 2 = 1 then BitVec.ofNat 8 (v / 256 ^ (j - k)) else m.get 0 j := by
  induction n with
  | zero => intro m k v mk j; have : ¬ (k ≤ j ∧ j < k + 0 ∧ mk / 2 ^ (j - k) % 2 = 1) := by omega
            simp only [memPutMask, this, if_false]
  | succ n ih =>
    intro m k v mk j
    rw [memPutMask, ih]
    by_cases hj : j = k
    · subst hj
      have h1 : ¬ (j + 1 ≤ j ∧ j < j + 1 + n ∧ mk / 2 / 2 ^ (j - (j + 1)) % 2 = 1) := by omega
      rw [if_neg h1]
      by_cases hb : mk % 2 = 1
      · simp [hb]
      · simp [hb]
    · by_cases h : k + 1 ≤ j ∧ j < k + 1 + n
      · have e : j - k = (j - (k + 1)) + 1 := by omega
        have e2 : mk / 2 / 2 ^ (j - (k + 1)) = mk / 2 ^ (j - k) := by rw [e, Nat.pow_succ, Nat.mul_comm, Nat.div_div_eq_div_mul]
        have e3 : v / 256 / 256 ^ (j - (k + 1)) = v / 256 ^ (j - k) := by rw [e, Nat.pow_succ, Nat.mul_comm, Nat.div_div_eq_div_mul]
        have hm : (if mk % 2 = 1 then m.set 0 k (BitVec.ofNat 8 v) else m).get 0 j = m.get 0 j := by
          split
          · exact Tab.get_set_other 0 m _ hj
          · rfl
        rw [e2, e3, hm]
        by_cases hb : mk / 2 ^ (j - k) % 2 = 1
        · rw [if_pos ⟨h.1, h.2, hb⟩, if_pos ⟨by omega, by omega, hb⟩]
        · rw [if_neg (by tauto), if_neg (by tauto)]
      · have h1 : ¬ (k + 1 ≤ j ∧ j < k + 1 + n ∧ mk / 2 / 2 ^ (j - (k + 1)) % 2 = 1) := by tauto
        have h2 : ¬ (k ≤ j ∧ j < k + (n + 1) ∧ mk / 2 ^ (j - k) % 2 = 1) := by omega
        rw [if_neg h1, if_neg h2]
        split
        · exact Tab.get_set_other 0 m _ hj
        · rfl

theorem memPut_wf (n : Nat) : ∀ {m : Tab Byte} (k v : Nat), Memory.wf m = true → Memory.wf (memPut m k n v) = true := by
  induction n with
  | zero => intro m k v h; exact h
  | succ n ih => intro m k v h; exact ih _ _ (Tab.wf_set 0 k _ h)

theorem memPutMask_wf (n : Nat) : ∀ {m : Tab Byte} (k v mk : Nat), Memory.wf m = true → Memory.wf (memPutMask m k n v mk) = true := by
  induction n with
  | zero => intro m k v mk h; exact h
  | succ n ih =>
    intro m k v mk h
    refine ih _ _ _ ?_
    split
    · exact Tab.wf_set 0 k _ h
    · exact h

theorem reset_mem_wf : Memory.wf State.reset.mem = true := rfl

/-- A number from its bytes. -/
theorem memNat_eq (n : Nat) : ∀ (m : Tab Byte) (k x : Nat), (∀ i, i < n → m.get 0 (k + i) = BitVec.ofNat 8 (x / 256 ^ i)) → memNat m k n = x % 256 ^ n := by
  induction n with
  | zero => intro m k x _; simp [memNat, Nat.mod_one]
  | succ n ih =>
    intro m k x h
    have h0 := h 0 (by omega)
    have ht : memNat m (k + 1) n = x / 256 % 256 ^ n := by
      apply ih
      intro i hi
      have := h (i + 1) (by omega)
      rw [show k + 1 + i = k + (i + 1) by omega, this, Nat.pow_succ, Nat.mul_comm, Nat.div_div_eq_div_mul]
    have hb : (m.get 0 k).toNat = x % 256 := by
      have := congrArg BitVec.toNat h0
      simpa using this
    rw [memNat, ht, hb, Nat.pow_succ, Nat.mul_comm (256 ^ n) 256, Nat.mod_mul]

/-- What was written is read back. -/
theorem memNat_memPut (m : Tab Byte) (k n v : Nat) : memNat (memPut m k n v) k n = v % 256 ^ n := by
  apply memNat_eq
  intro i hi
  rw [get_memPut, if_pos ⟨by omega, by omega⟩, show k + i - k = i by omega]

theorem memNat_congr (n : Nat) : ∀ {m m' : Tab Byte} (k : Nat), (∀ i, i < n → m.get 0 (k + i) = m'.get 0 (k + i)) → memNat m k n = memNat m' k n := by
  induction n with
  | zero => intros; rfl
  | succ n ih =>
    intro m m' k h
    have h0 := h 0 (by omega)
    simp only [Nat.add_zero] at h0
    simp only [memNat, h0]
    have e := ih (m := m) (m' := m') (k + 1) (fun i hi => by have := h (i + 1) (by omega); rwa [Nat.add_assoc, Nat.add_comm 1 i])
    rw [e]

/-! What goes with a write -/

/-- What a fold keeps that each of its steps keeps. -/
theorem foldl_keeps {β : Type} (p : State → Prop) (f : State → β → State) (h : ∀ s x, p s → p (f s x)) :
    ∀ (l : List β) (s : State), p s → p (l.foldl f s)
  | [], _, hs => hs
  | x :: l, s, hs => foldl_keeps p f h l (f s x) (h s x hs)

@[simp] theorem State.put_slot (s : State) (k n v g : Nat) : (s.put k n v).slot g = s.slot g := rfl
@[simp] theorem State.put_mem (s : State) (k n v : Nat) : (s.put k n v).mem = memPut s.mem k n v := rfl
@[simp] theorem State.cover_slot (s : State) (k n g : Nat) : (s.cover k n).slot g = s.slot g := rfl
@[simp] theorem State.cover_mem (s : State) (k n : Nat) : (s.cover k n).mem = s.mem := rfl
@[simp] theorem State.relWrite_slot (s : State) (k n : Nat) (a : Bool) (ri : List RelInfo) (g : Nat) : (s.relWrite k n a ri).slot g = s.slot g := rfl
@[simp] theorem State.relWrite_mem (s : State) (k n : Nat) (a : Bool) (ri : List RelInfo) : (s.relWrite k n a ri).mem = s.mem := rfl
@[simp] theorem State.ready_slot (s : State) (cl : Nat) (st : W512) (c : Nat) (o : List Nat) (l f : List RelInfo) (g : Nat) :
    (s.ready cl st c o l f).slot g = s.slot g := rfl
@[simp] theorem State.unpark_slot (s : State) (p : Parked) (v : W64) (o : List Nat) (g : Nat) : (s.unpark p v o).slot g = s.slot g := rfl
@[simp] theorem State.unpark_mem (s : State) (p : Parked) (v : W64) (o : List Nat) : (s.unpark p v o).mem = s.mem := rfl
@[simp] theorem State.again_slot (s : State) (p : Parked) (g : Nat) : (s.again p).slot g = s.slot g := rfl
@[simp] theorem State.again_mem (s : State) (p : Parked) : (s.again p).mem = s.mem := rfl
@[simp] theorem State.run_mem (s : State) (g : Nat) : (s.run g).mem = s.mem := rfl
@[simp] theorem State.wakeHeld_mem (s : State) (g : Nat) (d : BitVec 5) (v : W64) (o got : List Nat) : (s.wakeHeld g d v o got).mem = s.mem := rfl
theorem State.run_slot (s : State) (g : Nat) {j : Nat} (h : j ≠ g) : (s.run g).slot j = s.slot j :=
  State.slot_modSlot_other s (fun x => { x with woken := x.streamHeld, state := .running, hold := .none }) h
theorem State.wakeHeld_slot (s : State) (g : Nat) (d : BitVec 5) (v : W64) (o got : List Nat) {j : Nat} (h : j ≠ g) :
    (s.wakeHeld g d v o got).slot j = s.slot j :=
  (State.run_slot _ g h).trans (State.slot_modSlot_other s _ h)

/-- What the waiters of a word are told leaves alone: memory, marks, every queue in flight, and every slot that is not HELD. -/
def Untouched (s t : State) : Prop :=
  t.mem = s.mem ∧ t.poison = s.poison ∧ t.cur = s.cur ∧ t.out = s.out ∧ t.loads = s.loads ∧ t.amos = s.amos ∧ t.dies = s.dies ∧
  ∀ g, (s.slot g).state ≠ .held → t.slot g = s.slot g

theorem Untouched.refl (s : State) : Untouched s s := ⟨rfl, rfl, rfl, rfl, rfl, rfl, rfl, fun _ _ => rfl⟩

theorem Untouched.of_slots {s t u : State} (h : Untouched s t) (hs : ∀ g, u.slot g = t.slot g) (hm : u.mem = t.mem) (hp : u.poison = t.poison)
    (hc : u.cur = t.cur) (ho : u.out = t.out) (hl : u.loads = t.loads) (ha : u.amos = t.amos) (hd : u.dies = t.dies) : Untouched s u :=
  ⟨hm.trans h.1, hp.trans h.2.1, hc.trans h.2.2.1, ho.trans h.2.2.2.1, hl.trans h.2.2.2.2.1, ha.trans h.2.2.2.2.2.1, hd.trans h.2.2.2.2.2.2.1,
    fun g hg => (hs g).trans (h.2.2.2.2.2.2.2 g hg)⟩

/-- A HELD slot that changes alone. -/
theorem Untouched.held {s t u : State} (h : Untouched s t) (g : Nat) (hh : (t.slot g).state = .held) (hs : ∀ j, j ≠ g → u.slot j = t.slot j)
    (hr : Untouched t { u with slots := t.slots }) : Untouched s u := by
  obtain ⟨h1, h2, h3, h4, h5, h6, h7, h8⟩ := h
  obtain ⟨r1, r2, r3, r4, r5, r6, r7, _⟩ := hr
  refine ⟨Eq.trans r1 h1, Eq.trans r2 h2, Eq.trans r3 h3, Eq.trans r4 h4, Eq.trans r5 h5, Eq.trans r6 h6, Eq.trans r7 h7, fun j hj => ?_⟩
  by_cases e : j = g
  · subst e; rw [h8 j hj] at hh; exact absurd hh hj
  · rw [hs j e]; exact h8 j hj
theorem Untouched.wakeHeld {s t : State} (h : Untouched s t) (g : Nat) (d : BitVec 5) (v : W64) (o got : List Nat)
    (hh : (t.slot g).state = .held) : Untouched s (t.wakeHeld g d v o got) :=
  h.held g hh (fun _ e => State.wakeHeld_slot t g d v o got e) ⟨rfl, rfl, rfl, rfl, rfl, rfl, rfl, fun _ _ => rfl⟩
theorem Untouched.run {s t : State} (h : Untouched s t) (g : Nat) (hh : (t.slot g).state = .held) : Untouched s (t.run g) :=
  h.held g hh (fun _ e => State.run_slot t g e) ⟨rfl, rfl, rfl, rfl, rfl, rfl, rfl, fun _ _ => rfl⟩

theorem State.wake_untouched (s : State) (k n : Nat) : Untouched s (s.wake k n) := by
  unfold State.wake
  dsimp only
  generalize h1 : List.foldl _ s s.slots = s1
  have H1 : Untouched s s1 := by
    subst h1
    refine foldl_keeps (Untouched s) _ (fun t e ht => ?_) _ _ (Untouched.refl s)
    split
    · rename_i h _
      split
      · exact ht.run _ h
      · split
        · exact ht.wakeHeld _ _ _ _ _ h
        · exact ht
    · exact ht
  generalize h2 : List.foldl _ s1 s1.cores = s2
  have H2 : Untouched s s2 := by
    subst h2
    refine foldl_keeps (Untouched s) _ (fun t e ht => ?_) _ _ H1
    split
    · exact ht
    · exact ht.of_slots (fun g => rfl) rfl rfl rfl rfl rfl rfl rfl
  generalize h3 : List.foldl _ s2 s2.parked = s3
  have H3 : Untouched s s3 := by
    subst h3
    refine foldl_keeps (Untouched s) _ (fun t p ht => ?_) _ _ H2
    split
    · split
      · exact ht.of_slots (fun g => rfl) rfl rfl rfl rfl rfl rfl rfl
      · split
        · exact ht.of_slots (fun g => rfl) rfl rfl rfl rfl rfl rfl rfl
        · exact ht
    · exact ht
  exact H3.of_slots (fun g => rfl) rfl rfl rfl rfl rfl rfl rfl

/-- One write: its bytes; every slot that is not HELD and every queue in flight as before. -/
theorem State.write_mem (s : State) (k n v : Nat) (ri : List RelInfo) : (s.write k n v ri).mem = memPut s.mem k n v := by
  unfold State.write
  split
  · rename_i h; subst h; rfl
  · rw [(State.wake_untouched _ k n).1]; rfl
theorem State.write_slot (s : State) (k n v : Nat) (ri : List RelInfo) {g : Nat} (h : (s.slot g).state ≠ .held) : (s.write k n v ri).slot g = s.slot g := by
  unfold State.write
  split
  · rfl
  · exact (State.wake_untouched _ k n).2.2.2.2.2.2.2 g h
theorem State.write_frame (s : State) (k n v : Nat) (ri : List RelInfo) :
    (s.write k n v ri).cur = s.cur ∧ (s.write k n v ri).out = s.out ∧ (s.write k n v ri).loads = s.loads ∧ (s.write k n v ri).amos = s.amos ∧
      (s.write k n v ri).dies = s.dies := by
  unfold State.write
  split
  · exact ⟨rfl, rfl, rfl, rfl, rfl⟩
  · obtain ⟨_, _, h3, h4, h5, h6, h7, _⟩ := State.wake_untouched (((s.put k n v).cover k n).relWrite k n false ri) k n
    exact ⟨h3, h4, h5, h6, h7⟩
theorem State.writeAtomic_mem (s : State) (k n v : Nat) (ri : List RelInfo) : (s.writeAtomic k n v ri).mem = memPut s.mem k n v := by
  unfold State.writeAtomic; rw [(State.wake_untouched _ k n).1]; rfl
theorem State.writeAtomic_slot (s : State) (k n v : Nat) (ri : List RelInfo) {g : Nat} (h : (s.slot g).state ≠ .held) :
    (s.writeAtomic k n v ri).slot g = s.slot g := (State.wake_untouched _ k n).2.2.2.2.2.2.2 g h

theorem State.writeMask_untouched (s : State) (k : Nat) (data : W512) (mask : BitVec 64) (ri : List RelInfo) :
    (s.writeMask k data mask ri).mem = memPutMask s.mem k 64 data.toNat mask.toNat ∧
    (∀ g, (s.slot g).state ≠ .held → (s.writeMask k data mask ri).slot g = s.slot g) ∧
    (s.writeMask k data mask ri).out = s.out ∧ (s.writeMask k data mask ri).loads = s.loads ∧ (s.writeMask k data mask ri).cur = s.cur := by
  unfold State.writeMask
  simp only
  generalize hs : ({ s with mem := _, poison := _, rel := _ } : State) = s0
  have hm : s0.mem = memPutMask s.mem k 64 data.toNat mask.toNat := by subst hs; rfl
  have hsl : ∀ g, s0.slot g = s.slot g := by subst hs; intro g; rfl
  have ho : s0.out = s.out ∧ s0.loads = s.loads ∧ s0.cur = s.cur := by subst hs; exact ⟨rfl, rfl, rfl⟩
  have := foldl_keeps (fun t => t.mem = s0.mem ∧ (∀ g, (s0.slot g).state ≠ .held → t.slot g = s0.slot g) ∧ t.out = s0.out ∧ t.loads = s0.loads ∧ t.cur = s0.cur)
    (fun (s : State) i => if fld mask.toNat (8 * i) 8 = 0 then s else s.wake (k + 8 * i) 8)
    (fun t i ht => by
      split
      · exact ht
      · obtain ⟨h1, _, h3, h4, h5, _, _, h8⟩ := State.wake_untouched t (k + 8 * i) 8
        exact ⟨h1.trans ht.1, fun g hg => (h8 g (by rw [ht.2.1 g hg]; exact hg)).trans (ht.2.1 g hg), h4.trans ht.2.2.1, h5.trans ht.2.2.2.1, h3.trans ht.2.2.2.2⟩)
    (List.range 8) s0 ⟨rfl, fun _ _ => rfl, rfl, rfl, rfl⟩
  refine ⟨this.1.trans hm, fun g hg => (this.2.1 g (by rw [hsl]; exact hg)).trans (hsl g), this.2.2.1.trans ho.1, this.2.2.2.1.trans ho.2.1, this.2.2.2.2.trans ho.2.2⟩

/-! Every memory operation keeps the canonical form -/

theorem State.put_wf (s : State) (k n v : Nat) (h : Memory.wf s.mem = true) : Memory.wf (s.put k n v).mem = true := memPut_wf n k v h
theorem State.write_wf (s : State) (k n v : Nat) (ri : List RelInfo) (h : Memory.wf s.mem = true) : Memory.wf (s.write k n v ri).mem = true := by
  rw [State.write_mem]; exact memPut_wf n k v h
theorem State.writeAtomic_wf (s : State) (k n v : Nat) (ri : List RelInfo) (h : Memory.wf s.mem = true) : Memory.wf (s.writeAtomic k n v ri).mem = true := by
  rw [State.writeAtomic_mem]; exact memPut_wf n k v h
theorem State.writeMask_wf (s : State) (k : Nat) (data : W512) (mask : BitVec 64) (ri : List RelInfo) (h : Memory.wf s.mem = true) :
    Memory.wf (s.writeMask k data mask ri).mem = true := by
  rw [(State.writeMask_untouched s k data mask ri).1]; exact memPutMask_wf 64 k _ _ h

end Sys2Proof.Machine
end

