-- ==== Sys2Proof/Laws/Ops.lean ====
section
/-! SUPPORT. The laws of the shared operations: what a commit with nothing to wait for does, what taking a fault leaves, what an access of
global memory leaves alone. -/
namespace Sys2Proof.Machine

/-! Slots that wait for nothing are left alone by what others do -/

/-- The running slot is the same and no slot has changed that was not HELD. -/
def SlotsKept (s t : State) : Prop := t.cur = s.cur ∧ ∀ g, (s.slot g).state ≠ .held → t.slot g = s.slot g

theorem SlotsKept.refl (s : State) : SlotsKept s s := ⟨rfl, fun _ _ => rfl⟩
theorem SlotsKept.trans {s t u : State} (h : SlotsKept s t) (k : SlotsKept t u) : SlotsKept s u :=
  ⟨k.1.trans h.1, fun g hg => (k.2 g (by rw [h.2 g hg]; exact hg)).trans (h.2 g hg)⟩
theorem SlotsKept.of_eq {s t : State} (h : t.cur = s.cur) (hs : t.slots = s.slots) : SlotsKept s t :=
  ⟨h, fun g _ => by show Tab.get _ t.slots g = Tab.get _ s.slots g; rw [hs]⟩
theorem SlotsKept.write (s : State) (k n v : Nat) (ri : List RelInfo) : SlotsKept s (s.write k n v ri) :=
  ⟨(State.write_frame s k n v ri).1, fun _ h => State.write_slot s k n v ri h⟩

theorem SlotsKept.sample (s : State) (d : Nat) (ctx : BitVec 16) (va cl : Nat) (peer : Bool) (type : Nat) :
    SlotsKept s (s.sample d ctx va cl peer type) := by
  unfold State.sample
  dsimp only
  split
  · exact .refl s
  split
  · exact .of_eq rfl rfl
  split
  · exact ((SlotsKept.of_eq (s := s) (t := s.modDie d _) rfl rfl).trans (SlotsKept.write _ _ _ _ _)).trans (.of_eq rfl rfl)
  · exact .of_eq rfl rfl

theorem SlotsKept.translate (s : State) (d va : Nat) (ctx : BitVec 16) (kind : Kind) : SlotsKept s (s.translate d ctx va kind).1 := by
  unfold State.translate
  dsimp only
  split
  · split
    · exact .refl s
    · split <;> exact .refl s
  · split
    · exact .of_eq rfl rfl
    · split
      · exact .of_eq rfl rfl
      · split
        · exact .of_eq rfl rfl
        · refine .of_eq ?_ ?_
          · rw [State.modDie_cur]; (repeat' split) <;> rfl
          · rw [State.modDie_slots]; (repeat' split) <;> rfl

/-- An access that is performed, and one that ends with a fault, leaves the slots alone. -/
def Got.kept (s : State) : Got (State × Nat) → Prop
  | .ok (t, _) => SlotsKept s t
  | .bad t _ => SlotsKept s t
  | .wait _ => True

theorem Got.kept_atHome (s : State) (d cl n type : Nat) (ctx : BitVec 16) (ea : W64) (kind : Kind) (peer : Bool) :
    Got.kept s (s.atHome d cl ctx ea n kind peer type) := by
  unfold State.atHome
  dsimp only
  split
  · trivial
  · split
    · trivial
    · have h := SlotsKept.translate s d (fld ea.toNat 0 52) ctx kind
      split
      · rename_i ht; rw [ht] at h; exact h
      · rename_i ht
        rw [ht] at h
        split
        · exact h
        · split
          · trivial
          · exact h.trans (.sample ..)

theorem State.regionHome_slots (s : State) (cl : Nat) (ctx : BitVec 16) (va : Nat) :
    (s.regionHome cl ctx va).1.cur = s.cur ∧ (s.regionHome cl ctx va).1.slots = s.slots := by
  unfold State.regionHome
  dsimp only
  repeat' split
  all_goals exact ⟨rfl, rfl⟩

theorem State.reach_slots (cl : Nat) (ctx : BitVec 16) (va : Nat) : ∀ (f : Nat) (s : State) (h : Nat),
    (s.reach cl ctx va f h).1.cur = s.cur ∧ (s.reach cl ctx va f h).1.slots = s.slots
  | 0, s, h => ⟨rfl, rfl⟩
  | f + 1, s, h => by
    unfold State.reach
    split
    · exact ⟨rfl, rfl⟩
    · split
      · exact ⟨rfl, rfl⟩
      · exact State.reach_slots cl ctx va f _ _

theorem SlotsKept.findHome (s : State) (cl : Nat) (ctx : BitVec 16) (ea : W64) : SlotsKept s (s.findHome cl ctx ea).1 := by
  unfold State.findHome
  dsimp only
  have h1 := State.regionHome_slots s cl ctx (fld ea.toNat 0 52)
  split
  · rename_i hr; rw [hr] at h1; exact .of_eq h1.1 h1.2
  · rename_i u x hr
    rw [hr] at h1
    have h2 := State.reach_slots cl ctx (fld ea.toNat 0 52) 64 u x
    split
    · rename_i hr'; rw [hr'] at h2; exact (SlotsKept.of_eq h1.1 h1.2).trans (.of_eq h2.1 h2.2)
    · rename_i hr'; rw [hr'] at h2; exact (SlotsKept.of_eq h1.1 h1.2).trans (.of_eq h2.1 h2.2)

theorem Got.kept_global (s : State) (cl n type : Nat) (ctx : BitVec 16) (ea : W64) (kind : Kind) :
    Got.kept s (s.global cl ctx ea n kind type) := by
  unfold State.global
  have h := SlotsKept.findHome s cl ctx ea
  split
  · rename_i hr; rw [hr] at h; exact h
  · rename_i u x hr
    rw [hr] at h
    have k := Got.kept_atHome u x cl n type ctx ea kind false
    revert k
    cases u.atHome x cl ctx ea n kind false type with
    | ok a => exact fun k => h.trans k
    | bad t f => exact fun k => h.trans k
    | wait ks => exact fun _ => trivial

/-- What a write that waits wants streamed is no slot's. -/
theorem SlotsKept.wantRanges (s : State) (rs : List Nat) : SlotsKept s (s.wantRanges rs) := by
  unfold State.wantRanges
  split
  · exact .refl s
  · exact .of_eq rfl rfl
theorem SlotsKept.ckWant (s : State) (ks : List Nat) : SlotsKept s (s.ckWant ks) := SlotsKept.wantRanges ..

/-! Packets -/

theorem SlotsKept.sysRead (s : State) (d va n : Nat) : SlotsKept s (s.sysRead d va n).1 := by
  unfold State.sysRead
  have k := Got.kept_global s (32 * d) n 0 0 (mkAddr 4 va) .read
  revert k
  cases s.global (32 * d) 0 (mkAddr 4 va) n .read 0 with
  | ok a => exact fun k => k
  | bad t f => exact fun k => k
  | wait ks => exact fun _ => SlotsKept.ckWant ..

theorem SlotsKept.sysWrite (s : State) (d va n v : Nat) (r : Bool) : SlotsKept s (s.sysWrite d va n v r).1 := by
  unfold State.sysWrite
  have k := Got.kept_global s (32 * d) n 1 0 (mkAddr 4 va) .write
  revert k
  cases s.global (32 * d) 0 (mkAddr 4 va) n .write 1 with
  | ok a => exact fun k => SlotsKept.trans k (SlotsKept.write ..)
  | bad t f => exact fun k => k
  | wait ks => exact fun _ => SlotsKept.ckWant ..

theorem SlotsKept.mirror (s : State) (g : Nat) (p : W256) : SlotsKept s (s.mirror g p) := by
  unfold State.mirror
  split
  · exact (SlotsKept.write ..).trans (.write ..)
  · exact .refl s

theorem SlotsKept.ringWrite (s : State) (d g : Nat) (p : W256) : SlotsKept s (s.ringWrite d g p).1 := by
  unfold State.ringWrite
  dsimp only
  have rd : ∀ (u t : State) (va n : Nat) (v : Option Nat), SlotsKept s u → u.sysRead d va n = (t, v) → SlotsKept s t := fun u t va n v hu h => by
    have k := hu.trans (SlotsKept.sysRead u d va n); rwa [h] at k
  have wr : ∀ (u t : State) (va n v : Nat) (r b : Bool), SlotsKept s u → u.sysWrite d va n v r = (t, b) → SlotsKept s t := fun u t va n v r b hu h => by
    have k := hu.trans (SlotsKept.sysWrite u d va n v r); rwa [h] at k
  split
  · exact .refl s
  split
  · exact SlotsKept.ckWant ..
  split
  · rename_i h1; exact rd _ _ _ _ _ (.refl s) h1
  rename_i h1
  have k1 := rd _ _ _ _ _ (.refl s) h1
  split
  · rename_i h2; exact rd _ _ _ _ _ k1 h2
  rename_i h2
  have k2 := rd _ _ _ _ _ k1 h2
  split
  · exact k2
  split
  · rename_i h3; exact wr _ _ _ _ _ _ _ k2 h3
  rename_i h3
  have k3 := wr _ _ _ _ _ _ _ k2 h3
  split
  · rename_i h4; exact wr _ _ _ _ _ _ _ k3 h4
  rename_i h4
  exact ((wr _ _ _ _ _ _ _ k3 h4).trans (.of_eq rfl rfl)).trans (.mirror ..)

/-- A packet that is kept changes no slot but for the packet that its own slot must keep. -/
theorem State.keepPacket_slot (s : State) (d g : Nat) (p : W256) (j : Nat) :
    (s.keepPacket d g p).slot j = { s.slot j with packet := ((s.keepPacket d g p).slot j).packet } := by
  unfold State.keepPacket
  split
  · rfl
  · by_cases hj : j = g
    · subst hj; simp
    · rw [State.slot_modSlot_other _ _ hj]
theorem State.keepPacket_cur (s : State) (d g : Nat) (p : W256) : (s.keepPacket d g p).cur = s.cur := by
  unfold State.keepPacket; split <;> rfl

/-- A packet on its way changes no slot that is not HELD, but for the packet that its own slot must keep. -/
theorem State.sendPacket_slot (s : State) (d g : Nat) (p : W256) {j : Nat} (h : (s.slot j).state ≠ .held) :
    (s.sendPacket d g p).slot j = { s.slot j with packet := ((s.sendPacket d g p).slot j).packet } := by
  unfold State.sendPacket
  have hk := SlotsKept.ringWrite s d g p
  split
  · split
    · rename_i hr; rw [hr] at hk; rw [hk.2 j h]
    · rename_i hr
      rw [hr] at hk
      rw [State.keepPacket_slot, hk.2 j h]
  · rw [State.keepPacket_slot]
theorem State.sendPacket_cur (s : State) (d g : Nat) (p : W256) : (s.sendPacket d g p).cur = s.cur := by
  unfold State.sendPacket
  have hk := SlotsKept.ringWrite s d g p
  split
  · split
    · rename_i hr; rw [hr] at hk; exact hk.1
    · rename_i hr; rw [hr] at hk; rw [State.keepPacket_cur]; exact hk.1
  · exact State.keepPacket_cur ..

/-- Taking a fault: what becomes of the slot. -/
theorem State.freeze_slot (s : State) (g : Nat) (f : FaultInfo) :
    (s.freeze g f).slot g = { s.slot g with
      state := .frozen, hold := .none, await := .none, mode := .none, lastCause := f.cause, faults := (s.slot g).faults + 1,
      stepping := false, stepDone := false, begun := false, stamped := false, prevBlock := none, inspect := f.cause == 0x11, busy := false,
      sig := if 0x0F ≤ f.cause.toNat ∧ f.cause.toNat ≤ 0x11 then (s.slot g).sig.filter fun r => r.left == 0 else none,
      preempting := false, cmdStatus := if (s.slot g).preempting then 4 else (s.slot g).cmdStatus, packet := ((s.freeze g f).slot g).packet } := by
  unfold State.freeze
  dsimp only
  rw [State.sendPacket_slot]
  · simp only [State.slot_modSlot_self, State.trace_slot]
    rcases Bool.eq_false_or_eq_true (s.slot g).preempting with hp | hp <;> simp [hp, Slot.status]
  · simp

theorem State.freeze_cur (s : State) (g : Nat) (f : FaultInfo) : (s.freeze g f).cur = s.cur := by
  unfold State.freeze; dsimp only; rw [State.sendPacket_cur]; rfl

/-! Commits -/

/-- A commit that finds nothing to wait for: the word goes on with its commit done (R92). -/
theorem State.commitThen_quiet (s : State) (k : State → Ans) (h1 : s.loading s.cur = false) (h2 : s.storing s.cur = false)
    (h3 : s.me.mode = .none) (h4 : s.me.buf = []) : s.commitThen k = k s.atWord := by
  simp [State.commitThen, h1, h2, h3, h4]

/-- The slot with the commit of its word done: restart point at the word, in a new segment, unless it was done (R92, R256). -/
def Slot.atWord (x : Slot) : Slot := if x.stamped then x else { x.committed.moved with sent := 0, stamped := true }

@[simp] theorem State.atWord_me (s : State) : s.atWord.me = s.me.atWord := by
  unfold State.atWord Slot.atWord
  split
  · rfl
  · rw [State.me_modMe]
    have : (s.commitDone s.cur).me = { s.me.committed.moved with sent := 0 } := State.slot_modSlot_self _ _ _
    rw [this]
@[simp] theorem State.atWord_cur (s : State) : s.atWord.cur = s.cur := by unfold State.atWord; split <;> rfl
@[simp] theorem State.atWord_mem (s : State) : s.atWord.mem = s.mem := by unfold State.atWord; split <;> rfl

end Sys2Proof.Machine
end

