-- ==== Sys2Proof/Laws/PerInstr.lean ====
section
/-! SUPPORT. The round trip of the encoding, one lemma an instruction: what the encoder makes of a well-formed instruction decodes to it. The
commands and events have no word (R16). -/
namespace Sys2Proof

/-! The fields of an encoded word (R17) -/

theorem encA_fields (maj f : Nat) (d a b : BitVec 5) :
    (encA maj d a b f).extractLsb' 26 6 = BitVec.ofNat 6 maj ∧
    fD (encA maj d a b f) = d ∧
    fA (encA maj d a b f) = a ∧
    fB (encA maj d a b f) = b ∧
    (encA maj d a b f).extractLsb' 0 11 = BitVec.ofNat 11 f := by
  unfold fD fA fB encA
  refine ⟨?_, ?_, ?_, ?_, ?_⟩ <;> ext i hi <;> simp only [← BitVec.getLsbD_eq_getElem, BitVec.getLsbD_extractLsb', BitVec.getLsbD_append] <;>
    (repeat' split) <;> first | (exfalso; omega) | (simp only [hi, decide_true, Bool.true_and]; done) | (simp only [hi, decide_true, Bool.true_and]; congr 1; omega)

theorem encI_fields (maj : Nat) (d a : BitVec 5) (imm : BitVec 16) :
    (encI maj d a imm).extractLsb' 26 6 = BitVec.ofNat 6 maj ∧
    fD (encI maj d a imm) = d ∧
    fA (encI maj d a imm) = a ∧
    fImm (encI maj d a imm) = imm ∧
    (encI maj d a imm).extractLsb' 6 2 = imm.extractLsb' 6 2 ∧
    (encI maj d a imm).extractLsb' 8 8 = imm.extractLsb' 8 8 ∧
    (encI maj d a imm).extractLsb' 0 6 = imm.extractLsb' 0 6 := by
  unfold fD fA fImm encI
  refine ⟨?_, ?_, ?_, ?_, ?_, ?_, ?_⟩ <;> ext i hi <;> simp only [← BitVec.getLsbD_eq_getElem, BitVec.getLsbD_extractLsb', BitVec.getLsbD_append] <;>
    (repeat' split) <;> first | (exfalso; omega) | (simp only [hi, decide_true, Bool.true_and]; done) | (simp only [hi, decide_true, Bool.true_and]; congr 1; omega)

theorem encB_fields (maj : Nat) (d a : BitVec 5) (imm : BitVec 16) :
    (encB maj d a imm).extractLsb' 26 6 = BitVec.ofNat 6 maj ∧
    fD (encB maj d a imm) = d ∧
    fA (encB maj d a imm) = a ∧
    fImm (encB maj d a imm) = imm := by
  unfold fD fA fImm encB
  refine ⟨?_, ?_, ?_, ?_⟩ <;> ext i hi <;> simp only [← BitVec.getLsbD_eq_getElem, BitVec.getLsbD_extractLsb', BitVec.getLsbD_append] <;>
    (repeat' split) <;> first | (exfalso; omega) | (simp only [hi, decide_true, Bool.true_and]; done) | (simp only [hi, decide_true, Bool.true_and]; congr 1; omega)

theorem encS_fields (maj f : Nat) (d a b : BitVec 5) (sc : Scope) (o : Order) (sz : BitVec 2) :
    (encS maj d a b sc o sz f).extractLsb' 26 6 = BitVec.ofNat 6 maj ∧
    fD (encS maj d a b sc o sz f) = d ∧
    fA (encS maj d a b sc o sz f) = a ∧
    fB (encS maj d a b sc o sz f) = b ∧
    (encS maj d a b sc o sz f).extractLsb' 8 3 = sc.code ∧
    (encS maj d a b sc o sz f).extractLsb' 6 2 = o.code ∧
    (encS maj d a b sc o sz f).extractLsb' 4 2 = sz ∧
    (encS maj d a b sc o sz f).extractLsb' 0 4 = BitVec.ofNat 4 f := by
  unfold fD fA fB encS
  refine ⟨?_, ?_, ?_, ?_, ?_, ?_, ?_, ?_⟩ <;> ext i hi <;> simp only [← BitVec.getLsbD_eq_getElem, BitVec.getLsbD_extractLsb', BitVec.getLsbD_append] <;>
    (repeat' split) <;> first | (exfalso; omega) | (simp only [hi, decide_true, Bool.true_and]; done) | (simp only [hi, decide_true, Bool.true_and]; congr 1; omega)

theorem encJ_fields (maj : Nat) (off : BitVec 26) :
    (encJ maj off).extractLsb' 26 6 = BitVec.ofNat 6 maj ∧
    (encJ maj off).extractLsb' 0 26 = off := by
  unfold encJ
  refine ⟨?_, ?_⟩ <;> ext i hi <;> simp only [← BitVec.getLsbD_eq_getElem, BitVec.getLsbD_extractLsb', BitVec.getLsbD_append] <;>
    (repeat' split) <;> first | (exfalso; omega) | (simp only [hi, decide_true, Bool.true_and]; done) | (simp only [hi, decide_true, Bool.true_and]; congr 1; omega)

theorem encC_fields (maj : Nat) (fsz : BitVec 3) (off : BitVec 23) :
    (encC maj fsz off).extractLsb' 26 6 = BitVec.ofNat 6 maj ∧
    (encC maj fsz off).extractLsb' 23 3 = fsz ∧
    (encC maj fsz off).extractLsb' 0 23 = off := by
  unfold encC
  refine ⟨?_, ?_, ?_⟩ <;> ext i hi <;> simp only [← BitVec.getLsbD_eq_getElem, BitVec.getLsbD_extractLsb', BitVec.getLsbD_append] <;>
    (repeat' split) <;> first | (exfalso; omega) | (simp only [hi, decide_true, Bool.true_and]; done) | (simp only [hi, decide_true, Bool.true_and]; congr 1; omega)

theorem encV_fields (maj : Nat) (d a b : BitVec 4) (tw : BitVec 12) (mk : BitVec 2) :
    (encV maj d a b tw mk).extractLsb' 26 6 = BitVec.ofNat 6 maj ∧
    vD (encV maj d a b tw mk) = d ∧
    vA (encV maj d a b tw mk) = a ∧
    vB (encV maj d a b tw mk) = b ∧
    vTw (encV maj d a b tw mk) = tw ∧
    vMk (encV maj d a b tw mk) = mk := by
  unfold vD vA vB vTw vMk encV
  refine ⟨?_, ?_, ?_, ?_, ?_, ?_⟩ <;> ext i hi <;> simp only [← BitVec.getLsbD_eq_getElem, BitVec.getLsbD_extractLsb', BitVec.getLsbD_append] <;>
    (repeat' split) <;> first | (exfalso; omega) | (simp only [hi, decide_true, Bool.true_and]; done) | (simp only [hi, decide_true, Bool.true_and]; congr 1; omega)

theorem encVX_fields (maj f : Nat) (d a b : BitVec 4) (et : BitVec 3) (mk : BitVec 2) :
    (encVX maj d a b et mk f).extractLsb' 26 6 = BitVec.ofNat 6 maj ∧
    vD (encVX maj d a b et mk f) = d ∧
    vA (encVX maj d a b et mk f) = a ∧
    vB (encVX maj d a b et mk f) = b ∧
    (encVX maj d a b et mk f).extractLsb' 11 3 = et ∧
    (encVX maj d a b et mk f).extractLsb' 9 2 = mk ∧
    (encVX maj d a b et mk f).extractLsb' 0 9 = BitVec.ofNat 9 f := by
  unfold vD vA vB encVX
  refine ⟨?_, ?_, ?_, ?_, ?_, ?_, ?_⟩ <;> ext i hi <;> simp only [← BitVec.getLsbD_eq_getElem, BitVec.getLsbD_extractLsb', BitVec.getLsbD_append] <;>
    (repeat' split) <;> first | (exfalso; omega) | (simp only [hi, decide_true, Bool.true_and]; done) | (simp only [hi, decide_true, Bool.true_and]; congr 1; omega)

theorem encQ_fields (maj : Nat) (vs : BitVec 4) (eng : BitVec 3) (n chk : BitVec 1) :
    (encQ maj vs eng n chk).extractLsb' 26 6 = BitVec.ofNat 6 maj ∧
    (encQ maj vs eng n chk).extractLsb' 22 4 = vs ∧
    (encQ maj vs eng n chk).extractLsb' 19 3 = eng ∧
    (encQ maj vs eng n chk).extractLsb' 18 1 = n ∧
    (encQ maj vs eng n chk).extractLsb' 17 1 = chk ∧
    (encQ maj vs eng n chk).extractLsb' 0 17 = 0 := by
  unfold encQ
  refine ⟨?_, ?_, ?_, ?_, ?_, ?_⟩ <;> ext i hi <;> simp only [← BitVec.getLsbD_eq_getElem, BitVec.getLsbD_extractLsb', BitVec.getLsbD_append] <;>
    (repeat' split) <;> first | (exfalso; omega) | (simp only [hi, decide_true, Bool.true_and]; done) | (simp only [hi, decide_true, Bool.true_and]; congr 1; omega)

theorem encQ_low (maj : Nat) (vs : BitVec 4) : (encQ maj vs 0 0 0).extractLsb' 0 22 = 0 := by
  unfold encQ
  ext i hi
  simp only [← BitVec.getLsbD_eq_getElem, BitVec.getLsbD_extractLsb', BitVec.getLsbD_append]
  (repeat' split) <;> first | (exfalso; omega) | simp

/-! Codes, and fields within fields -/

theorem Scope.ofCode_code (s : Scope) : Scope.ofCode s.code = some s := by cases s <;> rfl
theorem Order.ofCode_code (o : Order) : Order.ofCode o.code = o := by cases o <;> rfl
theorem Et.ofCode_code (e : Et) : Et.ofCode e.code = some e := by cases e <;> rfl
theorem Eng.ofCode_code (e : Eng) : Eng.ofCode e.code = some e := by cases e <;> rfl
theorem sub32_hi (x : BitVec 2) : ((0 : BitVec 3) ++ x).extractLsb' 2 3 = 0 := by revert x; decide
theorem sub32_lo (x : BitVec 2) : ((0 : BitVec 3) ++ x).extractLsb' 0 2 = x := by revert x; decide
theorem sub22_hi (x : BitVec 2) : ((0 : BitVec 2) ++ x).extractLsb' 2 2 = 0 := by revert x; decide
theorem sub22_lo (x : BitVec 2) : ((0 : BitVec 2) ++ x).extractLsb' 0 2 = x := by revert x; decide
theorem sub13_hi (x : BitVec 3) : ((0 : BitVec 1) ++ x).extractLsb' 3 1 = 0 := by revert x; decide
theorem sub13_lo (x : BitVec 3) : ((0 : BitVec 1) ++ x).extractLsb' 0 3 = x := by revert x; decide
theorem sub11_hi (x : BitVec 1) : ((0 : BitVec 1) ++ x).extractLsb' 1 1 = 0 := by revert x; decide
theorem sub11_lo (x : BitVec 1) : ((0 : BitVec 1) ++ x).extractLsb' 0 1 = x := by revert x; decide
theorem shi_sel (k : BitVec 2) (x : BitVec 6) : ((0 : BitVec 8) ++ k ++ x).extractLsb' 6 2 = k := by revert k x; decide
theorem shi_hi (k : BitVec 2) (x : BitVec 6) : ((0 : BitVec 8) ++ k ++ x).extractLsb' 8 8 = 0 := by revert k x; decide
theorem shi_lo (k : BitVec 2) (x : BitVec 6) : ((0 : BitVec 8) ++ k ++ x).extractLsb' 0 6 = x := by revert k x; decide
theorem li_imm (x : BitVec 21) : x.extractLsb' 16 5 ++ x.extractLsb' 0 16 = x := by
  ext i hi
  simp only [← BitVec.getLsbD_eq_getElem, BitVec.getLsbD_extractLsb', BitVec.getLsbD_append]
  split
  · simp; intro h; omega
  · simp only [show i - 16 < 5 by omega, decide_true, Bool.true_and]; congr 1; omega

set_option linter.unusedSimpArgs false
set_option linter.unnecessarySeqFocus false

namespace Laws.Coded

/-- The encoder's word of a well-formed instruction decodes to it. -/
def Statement (i : Instr) : Prop := ∀ w, encode i = some w → i.wfCheck = none → decode w = .ok i

theorem nop : Statement .nop := by
  intro w h hw
  cases h
  obtain ⟨h0, h1, h2, h3, h4⟩ := encA_fields 0 0 0 0 0
  generalize encA 0 0 0 0 0 = x at h0 h1 h2 h3 h4 ⊢
  simp only [decode, decodeFields, decA, decSys, h0, h1, h2, h3, h4, unusedZero, reservedZero] <;> simp [unusedZero, reservedZero, hw]
theorem trap (a : BitVec 5) : Statement (.trap a) := by
  intro w h hw
  cases h
  obtain ⟨h0, h1, h2, h3, h4⟩ := encA_fields 0 1 0 a 0
  generalize encA 0 0 a 0 1 = x at h0 h1 h2 h3 h4 ⊢
  simp only [decode, decodeFields, decA, decSys, h0, h1, h2, h3, h4, unusedZero, reservedZero] <;> simp [unusedZero, reservedZero, hw]
theorem brk : Statement .brk := by
  intro w h hw
  cases h
  obtain ⟨h0, h1, h2, h3, h4⟩ := encA_fields 0 2 0 0 0
  generalize encA 0 0 0 0 2 = x at h0 h1 h2 h3 h4 ⊢
  simp only [decode, decodeFields, decA, decSys, h0, h1, h2, h3, h4, unusedZero, reservedZero] <;> simp [unusedZero, reservedZero, hw]
theorem halt (a : BitVec 5) : Statement (.halt a) := by
  intro w h hw
  cases h
  obtain ⟨h0, h1, h2, h3, h4⟩ := encA_fields 0 3 0 a 0
  generalize encA 0 0 a 0 3 = x at h0 h1 h2 h3 h4 ⊢
  simp only [decode, decodeFields, decA, decSys, h0, h1, h2, h3, h4, unusedZero, reservedZero] <;> simp [unusedZero, reservedZero, hw]
theorem rdk (d : BitVec 5) (b : BitVec 5) : Statement (.rdk d b) := by
  intro w h hw
  cases h
  obtain ⟨h0, h1, h2, h3, h4⟩ := encA_fields 0 4 d 0 b
  generalize encA 0 d 0 b 4 = x at h0 h1 h2 h3 h4 ⊢
  simp only [decode, decodeFields, decA, decSys, h0, h1, h2, h3, h4, unusedZero, reservedZero] <;> simp [unusedZero, reservedZero, hw]
theorem wrk (a : BitVec 5) (b : BitVec 5) : Statement (.wrk a b) := by
  intro w h hw
  cases h
  obtain ⟨h0, h1, h2, h3, h4⟩ := encA_fields 0 5 0 a b
  generalize encA 0 0 a b 5 = x at h0 h1 h2 h3 h4 ⊢
  simp only [decode, decodeFields, decA, decSys, h0, h1, h2, h3, h4, unusedZero, reservedZero] <;> simp [unusedZero, reservedZero, hw]
theorem commit : Statement .commit := by
  intro w h hw
  cases h
  obtain ⟨h0, h1, h2, h3, h4⟩ := encA_fields 0 6 0 0 0
  generalize encA 0 0 0 0 6 = x at h0 h1 h2 h3 h4 ⊢
  simp only [decode, decodeFields, decA, decSys, h0, h1, h2, h3, h4, unusedZero, reservedZero] <;> simp [unusedZero, reservedZero, hw]
theorem yield : Statement .yield := by
  intro w h hw
  cases h
  obtain ⟨h0, h1, h2, h3, h4⟩ := encA_fields 0 7 0 0 0
  generalize encA 0 0 0 0 7 = x at h0 h1 h2 h3 h4 ⊢
  simp only [decode, decodeFields, decA, decSys, h0, h1, h2, h3, h4, unusedZero, reservedZero] <;> simp [unusedZero, reservedZero, hw]
theorem endTask : Statement .endTask := by
  intro w h hw
  cases h
  obtain ⟨h0, h1, h2, h3, h4⟩ := encA_fields 0 8 0 0 0
  generalize encA 0 0 0 0 8 = x at h0 h1 h2 h3 h4 ⊢
  simp only [decode, decodeFields, decA, decSys, h0, h1, h2, h3, h4, unusedZero, reservedZero] <;> simp [unusedZero, reservedZero, hw]
theorem icinv : Statement .icinv := by
  intro w h hw
  cases h
  obtain ⟨h0, h1, h2, h3, h4⟩ := encA_fields 0 9 0 0 0
  generalize encA 0 0 0 0 9 = x at h0 h1 h2 h3 h4 ⊢
  simp only [decode, decodeFields, decA, decSys, h0, h1, h2, h3, h4, unusedZero, reservedZero] <;> simp [unusedZero, reservedZero, hw]
theorem ksync (a : BitVec 5) : Statement (.ksync a) := by
  intro w h hw
  cases h
  obtain ⟨h0, h1, h2, h3, h4⟩ := encA_fields 0 10 0 a 0
  generalize encA 0 0 a 0 10 = x at h0 h1 h2 h3 h4 ⊢
  simp only [decode, decodeFields, decA, decSys, h0, h1, h2, h3, h4, unusedZero, reservedZero] <;> simp [unusedZero, reservedZero, hw]
theorem add (d : BitVec 5) (a : BitVec 5) (b : BitVec 5) : Statement (.add d a b) := by
  intro w h hw
  cases h
  obtain ⟨h0, h1, h2, h3, h4⟩ := encA_fields 1 0 d a b
  generalize encA 1 d a b 0 = x at h0 h1 h2 h3 h4 ⊢
  simp only [decode, decodeFields, decA, decAlu, h0, h1, h2, h3, h4, unusedZero, reservedZero] <;> simp [unusedZero, reservedZero, hw]
theorem sub (d : BitVec 5) (a : BitVec 5) (b : BitVec 5) : Statement (.sub d a b) := by
  intro w h hw
  cases h
  obtain ⟨h0, h1, h2, h3, h4⟩ := encA_fields 1 1 d a b
  generalize encA 1 d a b 1 = x at h0 h1 h2 h3 h4 ⊢
  simp only [decode, decodeFields, decA, decAlu, h0, h1, h2, h3, h4, unusedZero, reservedZero] <;> simp [unusedZero, reservedZero, hw]
theorem and (d : BitVec 5) (a : BitVec 5) (b : BitVec 5) : Statement (.and d a b) := by
  intro w h hw
  cases h
  obtain ⟨h0, h1, h2, h3, h4⟩ := encA_fields 1 2 d a b
  generalize encA 1 d a b 2 = x at h0 h1 h2 h3 h4 ⊢
  simp only [decode, decodeFields, decA, decAlu, h0, h1, h2, h3, h4, unusedZero, reservedZero] <;> simp [unusedZero, reservedZero, hw]
theorem or (d : BitVec 5) (a : BitVec 5) (b : BitVec 5) : Statement (.or d a b) := by
  intro w h hw
  cases h
  obtain ⟨h0, h1, h2, h3, h4⟩ := encA_fields 1 3 d a b
  generalize encA 1 d a b 3 = x at h0 h1 h2 h3 h4 ⊢
  simp only [decode, decodeFields, decA, decAlu, h0, h1, h2, h3, h4, unusedZero, reservedZero] <;> simp [unusedZero, reservedZero, hw]
theorem xor (d : BitVec 5) (a : BitVec 5) (b : BitVec 5) : Statement (.xor d a b) := by
  intro w h hw
  cases h
  obtain ⟨h0, h1, h2, h3, h4⟩ := encA_fields 1 4 d a b
  generalize encA 1 d a b 4 = x at h0 h1 h2 h3 h4 ⊢
  simp only [decode, decodeFields, decA, decAlu, h0, h1, h2, h3, h4, unusedZero, reservedZero] <;> simp [unusedZero, reservedZero, hw]
theorem andn (d : BitVec 5) (a : BitVec 5) (b : BitVec 5) : Statement (.andn d a b) := by
  intro w h hw
  cases h
  obtain ⟨h0, h1, h2, h3, h4⟩ := encA_fields 1 5 d a b
  generalize encA 1 d a b 5 = x at h0 h1 h2 h3 h4 ⊢
  simp only [decode, decodeFields, decA, decAlu, h0, h1, h2, h3, h4, unusedZero, reservedZero] <;> simp [unusedZero, reservedZero, hw]
theorem shl (d : BitVec 5) (a : BitVec 5) (b : BitVec 5) : Statement (.shl d a b) := by
  intro w h hw
  cases h
  obtain ⟨h0, h1, h2, h3, h4⟩ := encA_fields 1 6 d a b
  generalize encA 1 d a b 6 = x at h0 h1 h2 h3 h4 ⊢
  simp only [decode, decodeFields, decA, decAlu, h0, h1, h2, h3, h4, unusedZero, reservedZero] <;> simp [unusedZero, reservedZero, hw]
theorem shr (d : BitVec 5) (a : BitVec 5) (b : BitVec 5) : Statement (.shr d a b) := by
  intro w h hw
  cases h
  obtain ⟨h0, h1, h2, h3, h4⟩ := encA_fields 1 7 d a b
  generalize encA 1 d a b 7 = x at h0 h1 h2 h3 h4 ⊢
  simp only [decode, decodeFields, decA, decAlu, h0, h1, h2, h3, h4, unusedZero, reservedZero] <;> simp [unusedZero, reservedZero, hw]
theorem sra (d : BitVec 5) (a : BitVec 5) (b : BitVec 5) : Statement (.sra d a b) := by
  intro w h hw
  cases h
  obtain ⟨h0, h1, h2, h3, h4⟩ := encA_fields 1 8 d a b
  generalize encA 1 d a b 8 = x at h0 h1 h2 h3 h4 ⊢
  simp only [decode, decodeFields, decA, decAlu, h0, h1, h2, h3, h4, unusedZero, reservedZero] <;> simp [unusedZero, reservedZero, hw]
theorem rol (d : BitVec 5) (a : BitVec 5) (b : BitVec 5) : Statement (.rol d a b) := by
  intro w h hw
  cases h
  obtain ⟨h0, h1, h2, h3, h4⟩ := encA_fields 1 9 d a b
  generalize encA 1 d a b 9 = x at h0 h1 h2 h3 h4 ⊢
  simp only [decode, decodeFields, decA, decAlu, h0, h1, h2, h3, h4, unusedZero, reservedZero] <;> simp [unusedZero, reservedZero, hw]
theorem mul (d : BitVec 5) (a : BitVec 5) (b : BitVec 5) : Statement (.mul d a b) := by
  intro w h hw
  cases h
  obtain ⟨h0, h1, h2, h3, h4⟩ := encA_fields 1 10 d a b
  generalize encA 1 d a b 10 = x at h0 h1 h2 h3 h4 ⊢
  simp only [decode, decodeFields, decA, decAlu, h0, h1, h2, h3, h4, unusedZero, reservedZero] <;> simp [unusedZero, reservedZero, hw]
theorem mulh (d : BitVec 5) (a : BitVec 5) (b : BitVec 5) : Statement (.mulh d a b) := by
  intro w h hw
  cases h
  obtain ⟨h0, h1, h2, h3, h4⟩ := encA_fields 1 11 d a b
  generalize encA 1 d a b 11 = x at h0 h1 h2 h3 h4 ⊢
  simp only [decode, decodeFields, decA, decAlu, h0, h1, h2, h3, h4, unusedZero, reservedZero] <;> simp [unusedZero, reservedZero, hw]
theorem mulhu (d : BitVec 5) (a : BitVec 5) (b : BitVec 5) : Statement (.mulhu d a b) := by
  intro w h hw
  cases h
  obtain ⟨h0, h1, h2, h3, h4⟩ := encA_fields 1 12 d a b
  generalize encA 1 d a b 12 = x at h0 h1 h2 h3 h4 ⊢
  simp only [decode, decodeFields, decA, decAlu, h0, h1, h2, h3, h4, unusedZero, reservedZero] <;> simp [unusedZero, reservedZero, hw]
theorem div (d : BitVec 5) (a : BitVec 5) (b : BitVec 5) : Statement (.div d a b) := by
  intro w h hw
  cases h
  obtain ⟨h0, h1, h2, h3, h4⟩ := encA_fields 1 13 d a b
  generalize encA 1 d a b 13 = x at h0 h1 h2 h3 h4 ⊢
  simp only [decode, decodeFields, decA, decAlu, h0, h1, h2, h3, h4, unusedZero, reservedZero] <;> simp [unusedZero, reservedZero, hw]
theorem divu (d : BitVec 5) (a : BitVec 5) (b : BitVec 5) : Statement (.divu d a b) := by
  intro w h hw
  cases h
  obtain ⟨h0, h1, h2, h3, h4⟩ := encA_fields 1 14 d a b
  generalize encA 1 d a b 14 = x at h0 h1 h2 h3 h4 ⊢
  simp only [decode, decodeFields, decA, decAlu, h0, h1, h2, h3, h4, unusedZero, reservedZero] <;> simp [unusedZero, reservedZero, hw]
theorem rem (d : BitVec 5) (a : BitVec 5) (b : BitVec 5) : Statement (.rem d a b) := by
  intro w h hw
  cases h
  obtain ⟨h0, h1, h2, h3, h4⟩ := encA_fields 1 15 d a b
  generalize encA 1 d a b 15 = x at h0 h1 h2 h3 h4 ⊢
  simp only [decode, decodeFields, decA, decAlu, h0, h1, h2, h3, h4, unusedZero, reservedZero] <;> simp [unusedZero, reservedZero, hw]
theorem remu (d : BitVec 5) (a : BitVec 5) (b : BitVec 5) : Statement (.remu d a b) := by
  intro w h hw
  cases h
  obtain ⟨h0, h1, h2, h3, h4⟩ := encA_fields 1 16 d a b
  generalize encA 1 d a b 16 = x at h0 h1 h2 h3 h4 ⊢
  simp only [decode, decodeFields, decA, decAlu, h0, h1, h2, h3, h4, unusedZero, reservedZero] <;> simp [unusedZero, reservedZero, hw]
theorem min (d : BitVec 5) (a : BitVec 5) (b : BitVec 5) : Statement (.min d a b) := by
  intro w h hw
  cases h
  obtain ⟨h0, h1, h2, h3, h4⟩ := encA_fields 1 17 d a b
  generalize encA 1 d a b 17 = x at h0 h1 h2 h3 h4 ⊢
  simp only [decode, decodeFields, decA, decAlu, h0, h1, h2, h3, h4, unusedZero, reservedZero] <;> simp [unusedZero, reservedZero, hw]
theorem max (d : BitVec 5) (a : BitVec 5) (b : BitVec 5) : Statement (.max d a b) := by
  intro w h hw
  cases h
  obtain ⟨h0, h1, h2, h3, h4⟩ := encA_fields 1 18 d a b
  generalize encA 1 d a b 18 = x at h0 h1 h2 h3 h4 ⊢
  simp only [decode, decodeFields, decA, decAlu, h0, h1, h2, h3, h4, unusedZero, reservedZero] <;> simp [unusedZero, reservedZero, hw]
theorem minu (d : BitVec 5) (a : BitVec 5) (b : BitVec 5) : Statement (.minu d a b) := by
  intro w h hw
  cases h
  obtain ⟨h0, h1, h2, h3, h4⟩ := encA_fields 1 19 d a b
  generalize encA 1 d a b 19 = x at h0 h1 h2 h3 h4 ⊢
  simp only [decode, decodeFields, decA, decAlu, h0, h1, h2, h3, h4, unusedZero, reservedZero] <;> simp [unusedZero, reservedZero, hw]
theorem maxu (d : BitVec 5) (a : BitVec 5) (b : BitVec 5) : Statement (.maxu d a b) := by
  intro w h hw
  cases h
  obtain ⟨h0, h1, h2, h3, h4⟩ := encA_fields 1 20 d a b
  generalize encA 1 d a b 20 = x at h0 h1 h2 h3 h4 ⊢
  simp only [decode, decodeFields, decA, decAlu, h0, h1, h2, h3, h4, unusedZero, reservedZero] <;> simp [unusedZero, reservedZero, hw]
theorem slt (d : BitVec 5) (a : BitVec 5) (b : BitVec 5) : Statement (.slt d a b) := by
  intro w h hw
  cases h
  obtain ⟨h0, h1, h2, h3, h4⟩ := encA_fields 1 21 d a b
  generalize encA 1 d a b 21 = x at h0 h1 h2 h3 h4 ⊢
  simp only [decode, decodeFields, decA, decAlu, h0, h1, h2, h3, h4, unusedZero, reservedZero] <;> simp [unusedZero, reservedZero, hw]
theorem sltu (d : BitVec 5) (a : BitVec 5) (b : BitVec 5) : Statement (.sltu d a b) := by
  intro w h hw
  cases h
  obtain ⟨h0, h1, h2, h3, h4⟩ := encA_fields 1 22 d a b
  generalize encA 1 d a b 22 = x at h0 h1 h2 h3 h4 ⊢
  simp only [decode, decodeFields, decA, decAlu, h0, h1, h2, h3, h4, unusedZero, reservedZero] <;> simp [unusedZero, reservedZero, hw]
theorem seq (d : BitVec 5) (a : BitVec 5) (b : BitVec 5) : Statement (.seq d a b) := by
  intro w h hw
  cases h
  obtain ⟨h0, h1, h2, h3, h4⟩ := encA_fields 1 23 d a b
  generalize encA 1 d a b 23 = x at h0 h1 h2 h3 h4 ⊢
  simp only [decode, decodeFields, decA, decAlu, h0, h1, h2, h3, h4, unusedZero, reservedZero] <;> simp [unusedZero, reservedZero, hw]
theorem clz (d : BitVec 5) (a : BitVec 5) : Statement (.clz d a) := by
  intro w h hw
  cases h
  obtain ⟨h0, h1, h2, h3, h4⟩ := encA_fields 1 24 d a 0
  generalize encA 1 d a 0 24 = x at h0 h1 h2 h3 h4 ⊢
  simp only [decode, decodeFields, decA, decAlu, h0, h1, h2, h3, h4, unusedZero, reservedZero] <;> simp [unusedZero, reservedZero, hw]
theorem ctz (d : BitVec 5) (a : BitVec 5) : Statement (.ctz d a) := by
  intro w h hw
  cases h
  obtain ⟨h0, h1, h2, h3, h4⟩ := encA_fields 1 25 d a 0
  generalize encA 1 d a 0 25 = x at h0 h1 h2 h3 h4 ⊢
  simp only [decode, decodeFields, decA, decAlu, h0, h1, h2, h3, h4, unusedZero, reservedZero] <;> simp [unusedZero, reservedZero, hw]
theorem popc (d : BitVec 5) (a : BitVec 5) : Statement (.popc d a) := by
  intro w h hw
  cases h
  obtain ⟨h0, h1, h2, h3, h4⟩ := encA_fields 1 26 d a 0
  generalize encA 1 d a 0 26 = x at h0 h1 h2 h3 h4 ⊢
  simp only [decode, decodeFields, decA, decAlu, h0, h1, h2, h3, h4, unusedZero, reservedZero] <;> simp [unusedZero, reservedZero, hw]
theorem sextb (d : BitVec 5) (a : BitVec 5) : Statement (.sextb d a) := by
  intro w h hw
  cases h
  obtain ⟨h0, h1, h2, h3, h4⟩ := encA_fields 1 27 d a 0
  generalize encA 1 d a 0 27 = x at h0 h1 h2 h3 h4 ⊢
  simp only [decode, decodeFields, decA, decAlu, h0, h1, h2, h3, h4, unusedZero, reservedZero] <;> simp [unusedZero, reservedZero, hw]
theorem sexth (d : BitVec 5) (a : BitVec 5) : Statement (.sexth d a) := by
  intro w h hw
  cases h
  obtain ⟨h0, h1, h2, h3, h4⟩ := encA_fields 1 28 d a 0
  generalize encA 1 d a 0 28 = x at h0 h1 h2 h3 h4 ⊢
  simp only [decode, decodeFields, decA, decAlu, h0, h1, h2, h3, h4, unusedZero, reservedZero] <;> simp [unusedZero, reservedZero, hw]
theorem sextw (d : BitVec 5) (a : BitVec 5) : Statement (.sextw d a) := by
  intro w h hw
  cases h
  obtain ⟨h0, h1, h2, h3, h4⟩ := encA_fields 1 29 d a 0
  generalize encA 1 d a 0 29 = x at h0 h1 h2 h3 h4 ⊢
  simp only [decode, decodeFields, decA, decAlu, h0, h1, h2, h3, h4, unusedZero, reservedZero] <;> simp [unusedZero, reservedZero, hw]
theorem zextw (d : BitVec 5) (a : BitVec 5) : Statement (.zextw d a) := by
  intro w h hw
  cases h
  obtain ⟨h0, h1, h2, h3, h4⟩ := encA_fields 1 30 d a 0
  generalize encA 1 d a 0 30 = x at h0 h1 h2 h3 h4 ⊢
  simp only [decode, decodeFields, decA, decAlu, h0, h1, h2, h3, h4, unusedZero, reservedZero] <;> simp [unusedZero, reservedZero, hw]
theorem lea1 (d : BitVec 5) (a : BitVec 5) (b : BitVec 5) : Statement (.lea1 d a b) := by
  intro w h hw
  cases h
  obtain ⟨h0, h1, h2, h3, h4⟩ := encA_fields 1 31 d a b
  generalize encA 1 d a b 31 = x at h0 h1 h2 h3 h4 ⊢
  simp only [decode, decodeFields, decA, decAlu, h0, h1, h2, h3, h4, unusedZero, reservedZero] <;> simp [unusedZero, reservedZero, hw]
theorem lea2 (d : BitVec 5) (a : BitVec 5) (b : BitVec 5) : Statement (.lea2 d a b) := by
  intro w h hw
  cases h
  obtain ⟨h0, h1, h2, h3, h4⟩ := encA_fields 1 32 d a b
  generalize encA 1 d a b 32 = x at h0 h1 h2 h3 h4 ⊢
  simp only [decode, decodeFields, decA, decAlu, h0, h1, h2, h3, h4, unusedZero, reservedZero] <;> simp [unusedZero, reservedZero, hw]
theorem lea3 (d : BitVec 5) (a : BitVec 5) (b : BitVec 5) : Statement (.lea3 d a b) := by
  intro w h hw
  cases h
  obtain ⟨h0, h1, h2, h3, h4⟩ := encA_fields 1 33 d a b
  generalize encA 1 d a b 33 = x at h0 h1 h2 h3 h4 ⊢
  simp only [decode, decodeFields, decA, decAlu, h0, h1, h2, h3, h4, unusedZero, reservedZero] <;> simp [unusedZero, reservedZero, hw]
theorem addi (d : BitVec 5) (a : BitVec 5) (imm : BitVec 16) : Statement (.addi d a imm) := by
  intro w h hw
  cases h
  obtain ⟨h0, h1, h2, h3, h4, h5, h6⟩ := encI_fields 2 d a imm
  generalize encI 2 d a imm = x at h0 h1 h2 h3 h4 h5 h6 ⊢
  simp only [decode, decodeFields, h0, h1, h2, h3, h4, h5, h6, unusedZero, reservedZero] <;> simp [unusedZero, reservedZero, hw]
theorem andi (d : BitVec 5) (a : BitVec 5) (imm : BitVec 16) : Statement (.andi d a imm) := by
  intro w h hw
  cases h
  obtain ⟨h0, h1, h2, h3, h4, h5, h6⟩ := encI_fields 3 d a imm
  generalize encI 3 d a imm = x at h0 h1 h2 h3 h4 h5 h6 ⊢
  simp only [decode, decodeFields, h0, h1, h2, h3, h4, h5, h6, unusedZero, reservedZero] <;> simp [unusedZero, reservedZero, hw]
theorem ori (d : BitVec 5) (a : BitVec 5) (imm : BitVec 16) : Statement (.ori d a imm) := by
  intro w h hw
  cases h
  obtain ⟨h0, h1, h2, h3, h4, h5, h6⟩ := encI_fields 4 d a imm
  generalize encI 4 d a imm = x at h0 h1 h2 h3 h4 h5 h6 ⊢
  simp only [decode, decodeFields, h0, h1, h2, h3, h4, h5, h6, unusedZero, reservedZero] <;> simp [unusedZero, reservedZero, hw]
theorem xori (d : BitVec 5) (a : BitVec 5) (imm : BitVec 16) : Statement (.xori d a imm) := by
  intro w h hw
  cases h
  obtain ⟨h0, h1, h2, h3, h4, h5, h6⟩ := encI_fields 5 d a imm
  generalize encI 5 d a imm = x at h0 h1 h2 h3 h4 h5 h6 ⊢
  simp only [decode, decodeFields, h0, h1, h2, h3, h4, h5, h6, unusedZero, reservedZero] <;> simp [unusedZero, reservedZero, hw]
theorem slti (d : BitVec 5) (a : BitVec 5) (imm : BitVec 16) : Statement (.slti d a imm) := by
  intro w h hw
  cases h
  obtain ⟨h0, h1, h2, h3, h4, h5, h6⟩ := encI_fields 6 d a imm
  generalize encI 6 d a imm = x at h0 h1 h2 h3 h4 h5 h6 ⊢
  simp only [decode, decodeFields, h0, h1, h2, h3, h4, h5, h6, unusedZero, reservedZero] <;> simp [unusedZero, reservedZero, hw]
theorem sltiu (d : BitVec 5) (a : BitVec 5) (imm : BitVec 16) : Statement (.sltiu d a imm) := by
  intro w h hw
  cases h
  obtain ⟨h0, h1, h2, h3, h4, h5, h6⟩ := encI_fields 7 d a imm
  generalize encI 7 d a imm = x at h0 h1 h2 h3 h4 h5 h6 ⊢
  simp only [decode, decodeFields, h0, h1, h2, h3, h4, h5, h6, unusedZero, reservedZero] <;> simp [unusedZero, reservedZero, hw]
theorem shli (d : BitVec 5) (a : BitVec 5) (amt : BitVec 6) : Statement (.shli d a amt) := by
  intro w h hw
  cases h
  obtain ⟨h0, h1, h2, h3, h4, h5, h6⟩ := encI_fields 8 d a ((0 : BitVec 8) ++ (BitVec.ofNat 2 0) ++ amt)
  generalize encI 8 d a ((0 : BitVec 8) ++ (BitVec.ofNat 2 0) ++ amt) = x at h0 h1 h2 h3 h4 h5 h6 ⊢
  simp only [decode, decodeFields, decShi, h0, h1, h2, h3, h4, h5, h6, unusedZero, reservedZero, shi_sel, shi_hi, shi_lo] <;> simp [unusedZero, reservedZero, shi_sel, shi_hi, shi_lo, hw]
theorem shri (d : BitVec 5) (a : BitVec 5) (amt : BitVec 6) : Statement (.shri d a amt) := by
  intro w h hw
  cases h
  obtain ⟨h0, h1, h2, h3, h4, h5, h6⟩ := encI_fields 8 d a ((0 : BitVec 8) ++ (BitVec.ofNat 2 1) ++ amt)
  generalize encI 8 d a ((0 : BitVec 8) ++ (BitVec.ofNat 2 1) ++ amt) = x at h0 h1 h2 h3 h4 h5 h6 ⊢
  simp only [decode, decodeFields, decShi, h0, h1, h2, h3, h4, h5, h6, unusedZero, reservedZero, shi_sel, shi_hi, shi_lo] <;> simp [unusedZero, reservedZero, shi_sel, shi_hi, shi_lo, hw]
theorem srai (d : BitVec 5) (a : BitVec 5) (amt : BitVec 6) : Statement (.srai d a amt) := by
  intro w h hw
  cases h
  obtain ⟨h0, h1, h2, h3, h4, h5, h6⟩ := encI_fields 8 d a ((0 : BitVec 8) ++ (BitVec.ofNat 2 2) ++ amt)
  generalize encI 8 d a ((0 : BitVec 8) ++ (BitVec.ofNat 2 2) ++ amt) = x at h0 h1 h2 h3 h4 h5 h6 ⊢
  simp only [decode, decodeFields, decShi, h0, h1, h2, h3, h4, h5, h6, unusedZero, reservedZero, shi_sel, shi_hi, shi_lo] <;> simp [unusedZero, reservedZero, shi_sel, shi_hi, shi_lo, hw]
theorem lih (d : BitVec 5) (pos : BitVec 2) (imm : BitVec 16) : Statement (.lih d pos imm) := by
  intro w h hw
  cases h
  obtain ⟨h0, h1, h2, h3, h4, h5, h6⟩ := encI_fields 9 d ((0 : BitVec 3) ++ pos) imm
  generalize encI 9 d ((0 : BitVec 3) ++ pos) imm = x at h0 h1 h2 h3 h4 h5 h6 ⊢
  simp only [decode, decodeFields, h0, h1, h2, h3, h4, h5, h6, unusedZero, reservedZero, sub32_hi, sub32_lo] <;> simp [unusedZero, reservedZero, sub32_hi, sub32_lo, hw]
theorem li (d : BitVec 5) (imm : BitVec 21) : Statement (.li d imm) := by
  intro w h hw
  cases h
  obtain ⟨h0, h1, h2, h3, h4, h5, h6⟩ := encI_fields 10 d (imm.extractLsb' 16 5) (imm.extractLsb' 0 16)
  generalize encI 10 d (imm.extractLsb' 16 5) (imm.extractLsb' 0 16) = x at h0 h1 h2 h3 h4 h5 h6 ⊢
  simp only [decode, decodeFields, h0, h1, h2, h3, h4, h5, h6, unusedZero, reservedZero, li_imm] <;> simp [unusedZero, reservedZero, li_imm, hw]
theorem vaddt (d : BitVec 4) (a : BitVec 4) (b : BitVec 4) (et : Et) (mk : BitVec 2) : Statement (.vaddt d a b et mk) := by
  intro w h hw
  cases h
  obtain ⟨h0, h1, h2, h3, h4, h5, h6⟩ := encVX_fields 11 0 d a b et.code mk
  generalize encVX 11 d a b et.code mk 0 = x at h0 h1 h2 h3 h4 h5 h6 ⊢
  simp only [decode, decodeFields, decVX, decVxi, h0, h1, h2, h3, h4, h5, h6, Et.ofCode_code, unusedZero, reservedZero] <;> simp [Et.ofCode_code, unusedZero, reservedZero, hw]
theorem vsubt (d : BitVec 4) (a : BitVec 4) (b : BitVec 4) (et : Et) (mk : BitVec 2) : Statement (.vsubt d a b et mk) := by
  intro w h hw
  cases h
  obtain ⟨h0, h1, h2, h3, h4, h5, h6⟩ := encVX_fields 11 1 d a b et.code mk
  generalize encVX 11 d a b et.code mk 1 = x at h0 h1 h2 h3 h4 h5 h6 ⊢
  simp only [decode, decodeFields, decVX, decVxi, h0, h1, h2, h3, h4, h5, h6, Et.ofCode_code, unusedZero, reservedZero] <;> simp [Et.ofCode_code, unusedZero, reservedZero, hw]
theorem vmult (d : BitVec 4) (a : BitVec 4) (b : BitVec 4) (et : Et) (mk : BitVec 2) : Statement (.vmult d a b et mk) := by
  intro w h hw
  cases h
  obtain ⟨h0, h1, h2, h3, h4, h5, h6⟩ := encVX_fields 11 2 d a b et.code mk
  generalize encVX 11 d a b et.code mk 2 = x at h0 h1 h2 h3 h4 h5 h6 ⊢
  simp only [decode, decodeFields, decVX, decVxi, h0, h1, h2, h3, h4, h5, h6, Et.ofCode_code, unusedZero, reservedZero] <;> simp [Et.ofCode_code, unusedZero, reservedZero, hw]
theorem vmint (d : BitVec 4) (a : BitVec 4) (b : BitVec 4) (et : Et) (mk : BitVec 2) : Statement (.vmint d a b et mk) := by
  intro w h hw
  cases h
  obtain ⟨h0, h1, h2, h3, h4, h5, h6⟩ := encVX_fields 11 3 d a b et.code mk
  generalize encVX 11 d a b et.code mk 3 = x at h0 h1 h2 h3 h4 h5 h6 ⊢
  simp only [decode, decodeFields, decVX, decVxi, h0, h1, h2, h3, h4, h5, h6, Et.ofCode_code, unusedZero, reservedZero] <;> simp [Et.ofCode_code, unusedZero, reservedZero, hw]
theorem vmaxt (d : BitVec 4) (a : BitVec 4) (b : BitVec 4) (et : Et) (mk : BitVec 2) : Statement (.vmaxt d a b et mk) := by
  intro w h hw
  cases h
  obtain ⟨h0, h1, h2, h3, h4, h5, h6⟩ := encVX_fields 11 4 d a b et.code mk
  generalize encVX 11 d a b et.code mk 4 = x at h0 h1 h2 h3 h4 h5 h6 ⊢
  simp only [decode, decodeFields, decVX, decVxi, h0, h1, h2, h3, h4, h5, h6, Et.ofCode_code, unusedZero, reservedZero] <;> simp [Et.ofCode_code, unusedZero, reservedZero, hw]
theorem vabs (d : BitVec 4) (a : BitVec 4) (et : Et) (mk : BitVec 2) : Statement (.vabs d a et mk) := by
  intro w h hw
  cases h
  obtain ⟨h0, h1, h2, h3, h4, h5, h6⟩ := encVX_fields 11 5 d a 0 et.code mk
  generalize encVX 11 d a 0 et.code mk 5 = x at h0 h1 h2 h3 h4 h5 h6 ⊢
  simp only [decode, decodeFields, decVX, decVxi, h0, h1, h2, h3, h4, h5, h6, Et.ofCode_code, unusedZero, reservedZero] <;> simp [Et.ofCode_code, unusedZero, reservedZero, hw]
theorem vneg (d : BitVec 4) (a : BitVec 4) (et : Et) (mk : BitVec 2) : Statement (.vneg d a et mk) := by
  intro w h hw
  cases h
  obtain ⟨h0, h1, h2, h3, h4, h5, h6⟩ := encVX_fields 11 6 d a 0 et.code mk
  generalize encVX 11 d a 0 et.code mk 6 = x at h0 h1 h2 h3 h4 h5 h6 ⊢
  simp only [decode, decodeFields, decVX, decVxi, h0, h1, h2, h3, h4, h5, h6, Et.ofCode_code, unusedZero, reservedZero] <;> simp [Et.ofCode_code, unusedZero, reservedZero, hw]
theorem vshlt (d : BitVec 4) (a : BitVec 4) (b : BitVec 4) (et : Et) (mk : BitVec 2) : Statement (.vshlt d a b et mk) := by
  intro w h hw
  cases h
  obtain ⟨h0, h1, h2, h3, h4, h5, h6⟩ := encVX_fields 11 7 d a b et.code mk
  generalize encVX 11 d a b et.code mk 7 = x at h0 h1 h2 h3 h4 h5 h6 ⊢
  simp only [decode, decodeFields, decVX, decVxi, h0, h1, h2, h3, h4, h5, h6, Et.ofCode_code, unusedZero, reservedZero] <;> simp [Et.ofCode_code, unusedZero, reservedZero, hw]
theorem vshrt (d : BitVec 4) (a : BitVec 4) (b : BitVec 4) (et : Et) (mk : BitVec 2) : Statement (.vshrt d a b et mk) := by
  intro w h hw
  cases h
  obtain ⟨h0, h1, h2, h3, h4, h5, h6⟩ := encVX_fields 11 8 d a b et.code mk
  generalize encVX 11 d a b et.code mk 8 = x at h0 h1 h2 h3 h4 h5 h6 ⊢
  simp only [decode, decodeFields, decVX, decVxi, h0, h1, h2, h3, h4, h5, h6, Et.ofCode_code, unusedZero, reservedZero] <;> simp [Et.ofCode_code, unusedZero, reservedZero, hw]
theorem vsrat (d : BitVec 4) (a : BitVec 4) (b : BitVec 4) (et : Et) (mk : BitVec 2) : Statement (.vsrat d a b et mk) := by
  intro w h hw
  cases h
  obtain ⟨h0, h1, h2, h3, h4, h5, h6⟩ := encVX_fields 11 9 d a b et.code mk
  generalize encVX 11 d a b et.code mk 9 = x at h0 h1 h2 h3 h4 h5 h6 ⊢
  simp only [decode, decodeFields, decVX, decVxi, h0, h1, h2, h3, h4, h5, h6, Et.ofCode_code, unusedZero, reservedZero] <;> simp [Et.ofCode_code, unusedZero, reservedZero, hw]
theorem vadds (d : BitVec 4) (a : BitVec 4) (b : BitVec 4) (et : Et) (mk : BitVec 2) : Statement (.vadds d a b et mk) := by
  intro w h hw
  cases h
  obtain ⟨h0, h1, h2, h3, h4, h5, h6⟩ := encVX_fields 11 10 d a b et.code mk
  generalize encVX 11 d a b et.code mk 10 = x at h0 h1 h2 h3 h4 h5 h6 ⊢
  simp only [decode, decodeFields, decVX, decVxi, h0, h1, h2, h3, h4, h5, h6, Et.ofCode_code, unusedZero, reservedZero] <;> simp [Et.ofCode_code, unusedZero, reservedZero, hw]
theorem vsubs (d : BitVec 4) (a : BitVec 4) (b : BitVec 4) (et : Et) (mk : BitVec 2) : Statement (.vsubs d a b et mk) := by
  intro w h hw
  cases h
  obtain ⟨h0, h1, h2, h3, h4, h5, h6⟩ := encVX_fields 11 11 d a b et.code mk
  generalize encVX 11 d a b et.code mk 11 = x at h0 h1 h2 h3 h4 h5 h6 ⊢
  simp only [decode, decodeFields, decVX, decVxi, h0, h1, h2, h3, h4, h5, h6, Et.ofCode_code, unusedZero, reservedZero] <;> simp [Et.ofCode_code, unusedZero, reservedZero, hw]
theorem vfsub (d : BitVec 4) (a : BitVec 4) (b : BitVec 4) (et : Et) (mk : BitVec 2) : Statement (.vfsub d a b et mk) := by
  intro w h hw
  cases h
  obtain ⟨h0, h1, h2, h3, h4, h5, h6⟩ := encVX_fields 12 0 d a b et.code mk
  generalize encVX 12 d a b et.code mk 0 = x at h0 h1 h2 h3 h4 h5 h6 ⊢
  simp only [decode, decodeFields, decVX, decVxf, h0, h1, h2, h3, h4, h5, h6, Et.ofCode_code, unusedZero, reservedZero] <;> simp [Et.ofCode_code, unusedZero, reservedZero, hw]
theorem vfdiv (d : BitVec 4) (a : BitVec 4) (b : BitVec 4) (et : Et) (mk : BitVec 2) : Statement (.vfdiv d a b et mk) := by
  intro w h hw
  cases h
  obtain ⟨h0, h1, h2, h3, h4, h5, h6⟩ := encVX_fields 12 1 d a b et.code mk
  generalize encVX 12 d a b et.code mk 1 = x at h0 h1 h2 h3 h4 h5 h6 ⊢
  simp only [decode, decodeFields, decVX, decVxf, h0, h1, h2, h3, h4, h5, h6, Et.ofCode_code, unusedZero, reservedZero] <;> simp [Et.ofCode_code, unusedZero, reservedZero, hw]
theorem vfsqrt (d : BitVec 4) (a : BitVec 4) (et : Et) (mk : BitVec 2) : Statement (.vfsqrt d a et mk) := by
  intro w h hw
  cases h
  obtain ⟨h0, h1, h2, h3, h4, h5, h6⟩ := encVX_fields 12 2 d a 0 et.code mk
  generalize encVX 12 d a 0 et.code mk 2 = x at h0 h1 h2 h3 h4 h5 h6 ⊢
  simp only [decode, decodeFields, decVX, decVxf, h0, h1, h2, h3, h4, h5, h6, Et.ofCode_code, unusedZero, reservedZero] <;> simp [Et.ofCode_code, unusedZero, reservedZero, hw]
theorem vfrcp (d : BitVec 4) (a : BitVec 4) (et : Et) (mk : BitVec 2) : Statement (.vfrcp d a et mk) := by
  intro w h hw
  cases h
  obtain ⟨h0, h1, h2, h3, h4, h5, h6⟩ := encVX_fields 12 3 d a 0 et.code mk
  generalize encVX 12 d a 0 et.code mk 3 = x at h0 h1 h2 h3 h4 h5 h6 ⊢
  simp only [decode, decodeFields, decVX, decVxf, h0, h1, h2, h3, h4, h5, h6, Et.ofCode_code, unusedZero, reservedZero] <;> simp [Et.ofCode_code, unusedZero, reservedZero, hw]
theorem vfmint (d : BitVec 4) (a : BitVec 4) (b : BitVec 4) (et : Et) (mk : BitVec 2) : Statement (.vfmint d a b et mk) := by
  intro w h hw
  cases h
  obtain ⟨h0, h1, h2, h3, h4, h5, h6⟩ := encVX_fields 12 4 d a b et.code mk
  generalize encVX 12 d a b et.code mk 4 = x at h0 h1 h2 h3 h4 h5 h6 ⊢
  simp only [decode, decodeFields, decVX, decVxf, h0, h1, h2, h3, h4, h5, h6, Et.ofCode_code, unusedZero, reservedZero] <;> simp [Et.ofCode_code, unusedZero, reservedZero, hw]
theorem vfmaxt (d : BitVec 4) (a : BitVec 4) (b : BitVec 4) (et : Et) (mk : BitVec 2) : Statement (.vfmaxt d a b et mk) := by
  intro w h hw
  cases h
  obtain ⟨h0, h1, h2, h3, h4, h5, h6⟩ := encVX_fields 12 5 d a b et.code mk
  generalize encVX 12 d a b et.code mk 5 = x at h0 h1 h2 h3 h4 h5 h6 ⊢
  simp only [decode, decodeFields, decVX, decVxf, h0, h1, h2, h3, h4, h5, h6, Et.ofCode_code, unusedZero, reservedZero] <;> simp [Et.ofCode_code, unusedZero, reservedZero, hw]
theorem vfabs (d : BitVec 4) (a : BitVec 4) (et : Et) (mk : BitVec 2) : Statement (.vfabs d a et mk) := by
  intro w h hw
  cases h
  obtain ⟨h0, h1, h2, h3, h4, h5, h6⟩ := encVX_fields 12 6 d a 0 et.code mk
  generalize encVX 12 d a 0 et.code mk 6 = x at h0 h1 h2 h3 h4 h5 h6 ⊢
  simp only [decode, decodeFields, decVX, decVxf, h0, h1, h2, h3, h4, h5, h6, Et.ofCode_code, unusedZero, reservedZero] <;> simp [Et.ofCode_code, unusedZero, reservedZero, hw]
theorem vfneg (d : BitVec 4) (a : BitVec 4) (et : Et) (mk : BitVec 2) : Statement (.vfneg d a et mk) := by
  intro w h hw
  cases h
  obtain ⟨h0, h1, h2, h3, h4, h5, h6⟩ := encVX_fields 12 7 d a 0 et.code mk
  generalize encVX 12 d a 0 et.code mk 7 = x at h0 h1 h2 h3 h4 h5 h6 ⊢
  simp only [decode, decodeFields, decVX, decVxf, h0, h1, h2, h3, h4, h5, h6, Et.ofCode_code, unusedZero, reservedZero] <;> simp [Et.ofCode_code, unusedZero, reservedZero, hw]
theorem vfmat (d : BitVec 4) (a : BitVec 4) (b : BitVec 4) (et : Et) (mk : BitVec 2) : Statement (.vfmat d a b et mk) := by
  intro w h hw
  cases h
  obtain ⟨h0, h1, h2, h3, h4, h5, h6⟩ := encVX_fields 12 8 d a b et.code mk
  generalize encVX 12 d a b et.code mk 8 = x at h0 h1 h2 h3 h4 h5 h6 ⊢
  simp only [decode, decodeFields, decVX, decVxf, h0, h1, h2, h3, h4, h5, h6, Et.ofCode_code, unusedZero, reservedZero] <;> simp [Et.ofCode_code, unusedZero, reservedZero, hw]
theorem vcmp (d : BitVec 4) (a : BitVec 4) (cond : BitVec 4) (et : Et) (mk : BitVec 2) : Statement (.vcmp d a cond et mk) := by
  intro w h hw
  cases h
  obtain ⟨h0, h1, h2, h3, h4, h5, h6⟩ := encVX_fields 13 0 d a cond et.code mk
  generalize encVX 13 d a cond et.code mk 0 = x at h0 h1 h2 h3 h4 h5 h6 ⊢
  simp only [decode, decodeFields, decVX, decVxc, h0, h1, h2, h3, h4, h5, h6, Et.ofCode_code, unusedZero, reservedZero] <;> simp [Et.ofCode_code, unusedZero, reservedZero, hw]
theorem mand (md : BitVec 3) (ma : BitVec 3) (mb : BitVec 3) (et : Et) : Statement (.mand md ma mb et) := by
  intro w h hw
  cases h
  obtain ⟨h0, h1, h2, h3, h4, h5, h6⟩ := encVX_fields 13 1 ((0 : BitVec 1) ++ md) ((0 : BitVec 1) ++ ma) ((0 : BitVec 1) ++ mb) et.code 0
  generalize encVX 13 ((0 : BitVec 1) ++ md) ((0 : BitVec 1) ++ ma) ((0 : BitVec 1) ++ mb) et.code 0 1 = x at h0 h1 h2 h3 h4 h5 h6 ⊢
  simp only [decode, decodeFields, decVX, decVxc, h0, h1, h2, h3, h4, h5, h6, Et.ofCode_code, unusedZero, reservedZero, sub13_hi, sub13_lo, sub11_hi, sub11_lo] <;> simp [Et.ofCode_code, unusedZero, reservedZero, sub13_hi, sub13_lo, sub11_hi, sub11_lo, hw]
theorem mor (md : BitVec 3) (ma : BitVec 3) (mb : BitVec 3) (et : Et) : Statement (.mor md ma mb et) := by
  intro w h hw
  cases h
  obtain ⟨h0, h1, h2, h3, h4, h5, h6⟩ := encVX_fields 13 2 ((0 : BitVec 1) ++ md) ((0 : BitVec 1) ++ ma) ((0 : BitVec 1) ++ mb) et.code 0
  generalize encVX 13 ((0 : BitVec 1) ++ md) ((0 : BitVec 1) ++ ma) ((0 : BitVec 1) ++ mb) et.code 0 2 = x at h0 h1 h2 h3 h4 h5 h6 ⊢
  simp only [decode, decodeFields, decVX, decVxc, h0, h1, h2, h3, h4, h5, h6, Et.ofCode_code, unusedZero, reservedZero, sub13_hi, sub13_lo, sub11_hi, sub11_lo] <;> simp [Et.ofCode_code, unusedZero, reservedZero, sub13_hi, sub13_lo, sub11_hi, sub11_lo, hw]
theorem mxor (md : BitVec 3) (ma : BitVec 3) (mb : BitVec 3) (et : Et) : Statement (.mxor md ma mb et) := by
  intro w h hw
  cases h
  obtain ⟨h0, h1, h2, h3, h4, h5, h6⟩ := encVX_fields 13 3 ((0 : BitVec 1) ++ md) ((0 : BitVec 1) ++ ma) ((0 : BitVec 1) ++ mb) et.code 0
  generalize encVX 13 ((0 : BitVec 1) ++ md) ((0 : BitVec 1) ++ ma) ((0 : BitVec 1) ++ mb) et.code 0 3 = x at h0 h1 h2 h3 h4 h5 h6 ⊢
  simp only [decode, decodeFields, decVX, decVxc, h0, h1, h2, h3, h4, h5, h6, Et.ofCode_code, unusedZero, reservedZero, sub13_hi, sub13_lo, sub11_hi, sub11_lo] <;> simp [Et.ofCode_code, unusedZero, reservedZero, sub13_hi, sub13_lo, sub11_hi, sub11_lo, hw]
theorem mnot (md : BitVec 3) (ma : BitVec 3) (et : Et) : Statement (.mnot md ma et) := by
  intro w h hw
  cases h
  obtain ⟨h0, h1, h2, h3, h4, h5, h6⟩ := encVX_fields 13 4 ((0 : BitVec 1) ++ md) ((0 : BitVec 1) ++ ma) 0 et.code 0
  generalize encVX 13 ((0 : BitVec 1) ++ md) ((0 : BitVec 1) ++ ma) 0 et.code 0 4 = x at h0 h1 h2 h3 h4 h5 h6 ⊢
  simp only [decode, decodeFields, decVX, decVxc, h0, h1, h2, h3, h4, h5, h6, Et.ofCode_code, unusedZero, reservedZero, sub13_hi, sub13_lo, sub11_hi, sub11_lo] <;> simp [Et.ofCode_code, unusedZero, reservedZero, sub13_hi, sub13_lo, sub11_hi, sub11_lo, hw]
theorem mpopc (sd : BitVec 4) (ma : BitVec 3) (et : Et) : Statement (.mpopc sd ma et) := by
  intro w h hw
  cases h
  obtain ⟨h0, h1, h2, h3, h4, h5, h6⟩ := encVX_fields 13 5 sd ((0 : BitVec 1) ++ ma) 0 et.code 0
  generalize encVX 13 sd ((0 : BitVec 1) ++ ma) 0 et.code 0 5 = x at h0 h1 h2 h3 h4 h5 h6 ⊢
  simp only [decode, decodeFields, decVX, decVxc, h0, h1, h2, h3, h4, h5, h6, Et.ofCode_code, unusedZero, reservedZero, sub13_hi, sub13_lo, sub11_hi, sub11_lo] <;> simp [Et.ofCode_code, unusedZero, reservedZero, sub13_hi, sub13_lo, sub11_hi, sub11_lo, hw]
theorem mfirst (sd : BitVec 4) (ma : BitVec 3) (et : Et) : Statement (.mfirst sd ma et) := by
  intro w h hw
  cases h
  obtain ⟨h0, h1, h2, h3, h4, h5, h6⟩ := encVX_fields 13 6 sd ((0 : BitVec 1) ++ ma) 0 et.code 0
  generalize encVX 13 sd ((0 : BitVec 1) ++ ma) 0 et.code 0 6 = x at h0 h1 h2 h3 h4 h5 h6 ⊢
  simp only [decode, decodeFields, decVX, decVxc, h0, h1, h2, h3, h4, h5, h6, Et.ofCode_code, unusedZero, reservedZero, sub13_hi, sub13_lo, sub11_hi, sub11_lo] <;> simp [Et.ofCode_code, unusedZero, reservedZero, sub13_hi, sub13_lo, sub11_hi, sub11_lo, hw]
theorem vcvt (d : BitVec 4) (a : BitVec 4) (dt : Et) (et : Et) (rm : BitVec 2) : Statement (.vcvt d a dt et rm) := by
  intro w h hw
  cases h
  obtain ⟨h0, h1, h2, h3, h4, h5, h6⟩ := encVX_fields 0x0E 0 d a ((0 : BitVec 1) ++ dt.code) et.code rm
  generalize encVX 0x0E d a ((0 : BitVec 1) ++ dt.code) et.code rm 0 = x at h0 h1 h2 h3 h4 h5 h6 ⊢
  simp only [decode, decodeFields, decVX, decVxm, h0, h1, h2, h3, h4, h5, h6, Et.ofCode_code, unusedZero, reservedZero, sub13_hi, sub13_lo, sub11_hi, sub11_lo] <;> simp [Et.ofCode_code, unusedZero, reservedZero, sub13_hi, sub13_lo, sub11_hi, sub11_lo, hw]
theorem vsplat (d : BitVec 4) (sa : BitVec 4) (et : Et) (mk : BitVec 2) : Statement (.vsplat d sa et mk) := by
  intro w h hw
  cases h
  obtain ⟨h0, h1, h2, h3, h4, h5, h6⟩ := encVX_fields 14 1 d sa 0 et.code mk
  generalize encVX 14 d sa 0 et.code mk 1 = x at h0 h1 h2 h3 h4 h5 h6 ⊢
  simp only [decode, decodeFields, decVX, decVxm, h0, h1, h2, h3, h4, h5, h6, Et.ofCode_code, unusedZero, reservedZero] <;> simp [Et.ofCode_code, unusedZero, reservedZero, hw]
theorem vext (sd : BitVec 4) (a : BitVec 4) (sb : BitVec 4) (et : Et) : Statement (.vext sd a sb et) := by
  intro w h hw
  cases h
  obtain ⟨h0, h1, h2, h3, h4, h5, h6⟩ := encVX_fields 14 2 sd a sb et.code 0
  generalize encVX 14 sd a sb et.code 0 2 = x at h0 h1 h2 h3 h4 h5 h6 ⊢
  simp only [decode, decodeFields, decVX, decVxm, h0, h1, h2, h3, h4, h5, h6, Et.ofCode_code, unusedZero, reservedZero] <;> simp [Et.ofCode_code, unusedZero, reservedZero, hw]
theorem vins (d : BitVec 4) (sa : BitVec 4) (sb : BitVec 4) (et : Et) : Statement (.vins d sa sb et) := by
  intro w h hw
  cases h
  obtain ⟨h0, h1, h2, h3, h4, h5, h6⟩ := encVX_fields 14 3 d sa sb et.code 0
  generalize encVX 14 d sa sb et.code 0 3 = x at h0 h1 h2 h3 h4 h5 h6 ⊢
  simp only [decode, decodeFields, decVX, decVxm, h0, h1, h2, h3, h4, h5, h6, Et.ofCode_code, unusedZero, reservedZero] <;> simp [Et.ofCode_code, unusedZero, reservedZero, hw]
theorem vredadd (sd : BitVec 4) (a : BitVec 4) (et : Et) (mk : BitVec 2) : Statement (.vredadd sd a et mk) := by
  intro w h hw
  cases h
  obtain ⟨h0, h1, h2, h3, h4, h5, h6⟩ := encVX_fields 14 4 sd a 0 et.code mk
  generalize encVX 14 sd a 0 et.code mk 4 = x at h0 h1 h2 h3 h4 h5 h6 ⊢
  simp only [decode, decodeFields, decVX, decVxm, h0, h1, h2, h3, h4, h5, h6, Et.ofCode_code, unusedZero, reservedZero] <;> simp [Et.ofCode_code, unusedZero, reservedZero, hw]
theorem vredmin (sd : BitVec 4) (a : BitVec 4) (et : Et) (mk : BitVec 2) : Statement (.vredmin sd a et mk) := by
  intro w h hw
  cases h
  obtain ⟨h0, h1, h2, h3, h4, h5, h6⟩ := encVX_fields 14 5 sd a 0 et.code mk
  generalize encVX 14 sd a 0 et.code mk 5 = x at h0 h1 h2 h3 h4 h5 h6 ⊢
  simp only [decode, decodeFields, decVX, decVxm, h0, h1, h2, h3, h4, h5, h6, Et.ofCode_code, unusedZero, reservedZero] <;> simp [Et.ofCode_code, unusedZero, reservedZero, hw]
theorem vredmax (sd : BitVec 4) (a : BitVec 4) (et : Et) (mk : BitVec 2) : Statement (.vredmax sd a et mk) := by
  intro w h hw
  cases h
  obtain ⟨h0, h1, h2, h3, h4, h5, h6⟩ := encVX_fields 14 6 sd a 0 et.code mk
  generalize encVX 14 sd a 0 et.code mk 6 = x at h0 h1 h2 h3 h4 h5 h6 ⊢
  simp only [decode, decodeFields, decVX, decVxm, h0, h1, h2, h3, h4, h5, h6, Et.ofCode_code, unusedZero, reservedZero] <;> simp [Et.ofCode_code, unusedZero, reservedZero, hw]
theorem vscan (d : BitVec 4) (a : BitVec 4) (et : Et) (mk : BitVec 2) : Statement (.vscan d a et mk) := by
  intro w h hw
  cases h
  obtain ⟨h0, h1, h2, h3, h4, h5, h6⟩ := encVX_fields 14 7 d a 0 et.code mk
  generalize encVX 14 d a 0 et.code mk 7 = x at h0 h1 h2 h3 h4 h5 h6 ⊢
  simp only [decode, decodeFields, decVX, decVxm, h0, h1, h2, h3, h4, h5, h6, Et.ofCode_code, unusedZero, reservedZero] <;> simp [Et.ofCode_code, unusedZero, reservedZero, hw]
theorem vperm (d : BitVec 4) (a : BitVec 4) (b : BitVec 4) (et : Et) (mk : BitVec 2) : Statement (.vperm d a b et mk) := by
  intro w h hw
  cases h
  obtain ⟨h0, h1, h2, h3, h4, h5, h6⟩ := encVX_fields 14 8 d a b et.code mk
  generalize encVX 14 d a b et.code mk 8 = x at h0 h1 h2 h3 h4 h5 h6 ⊢
  simp only [decode, decodeFields, decVX, decVxm, h0, h1, h2, h3, h4, h5, h6, Et.ofCode_code, unusedZero, reservedZero] <;> simp [Et.ofCode_code, unusedZero, reservedZero, hw]
theorem vcompress (d : BitVec 4) (a : BitVec 4) (mb : BitVec 3) (et : Et) (mk : BitVec 2) : Statement (.vcompress d a mb et mk) := by
  intro w h hw
  cases h
  obtain ⟨h0, h1, h2, h3, h4, h5, h6⟩ := encVX_fields 14 9 d a ((0 : BitVec 1) ++ mb) et.code mk
  generalize encVX 14 d a ((0 : BitVec 1) ++ mb) et.code mk 9 = x at h0 h1 h2 h3 h4 h5 h6 ⊢
  simp only [decode, decodeFields, decVX, decVxm, h0, h1, h2, h3, h4, h5, h6, Et.ofCode_code, unusedZero, reservedZero, sub13_hi, sub13_lo, sub11_hi, sub11_lo] <;> simp [Et.ofCode_code, unusedZero, reservedZero, sub13_hi, sub13_lo, sub11_hi, sub11_lo, hw]
theorem vld (d : BitVec 4) (sa : BitVec 4) (et : Et) (mk : BitVec 2) : Statement (.vld d sa et mk) := by
  intro w h hw
  cases h
  obtain ⟨h0, h1, h2, h3, h4, h5, h6⟩ := encVX_fields 15 0 d sa 0 et.code mk
  generalize encVX 15 d sa 0 et.code mk 0 = x at h0 h1 h2 h3 h4 h5 h6 ⊢
  simp only [decode, decodeFields, decVX, decVxl, h0, h1, h2, h3, h4, h5, h6, Et.ofCode_code, unusedZero, reservedZero] <;> simp [Et.ofCode_code, unusedZero, reservedZero, hw]
theorem vst (d : BitVec 4) (sa : BitVec 4) (et : Et) (mk : BitVec 2) : Statement (.vst d sa et mk) := by
  intro w h hw
  cases h
  obtain ⟨h0, h1, h2, h3, h4, h5, h6⟩ := encVX_fields 15 1 d sa 0 et.code mk
  generalize encVX 15 d sa 0 et.code mk 1 = x at h0 h1 h2 h3 h4 h5 h6 ⊢
  simp only [decode, decodeFields, decVX, decVxl, h0, h1, h2, h3, h4, h5, h6, Et.ofCode_code, unusedZero, reservedZero] <;> simp [Et.ofCode_code, unusedZero, reservedZero, hw]
theorem vlds (d : BitVec 4) (sa : BitVec 4) (sb : BitVec 4) (et : Et) (mk : BitVec 2) : Statement (.vlds d sa sb et mk) := by
  intro w h hw
  cases h
  obtain ⟨h0, h1, h2, h3, h4, h5, h6⟩ := encVX_fields 15 2 d sa sb et.code mk
  generalize encVX 15 d sa sb et.code mk 2 = x at h0 h1 h2 h3 h4 h5 h6 ⊢
  simp only [decode, decodeFields, decVX, decVxl, h0, h1, h2, h3, h4, h5, h6, Et.ofCode_code, unusedZero, reservedZero] <;> simp [Et.ofCode_code, unusedZero, reservedZero, hw]
theorem vsts (d : BitVec 4) (sa : BitVec 4) (sb : BitVec 4) (et : Et) (mk : BitVec 2) : Statement (.vsts d sa sb et mk) := by
  intro w h hw
  cases h
  obtain ⟨h0, h1, h2, h3, h4, h5, h6⟩ := encVX_fields 15 3 d sa sb et.code mk
  generalize encVX 15 d sa sb et.code mk 3 = x at h0 h1 h2 h3 h4 h5 h6 ⊢
  simp only [decode, decodeFields, decVX, decVxl, h0, h1, h2, h3, h4, h5, h6, Et.ofCode_code, unusedZero, reservedZero] <;> simp [Et.ofCode_code, unusedZero, reservedZero, hw]
theorem vgath (d : BitVec 4) (sa : BitVec 4) (b : BitVec 4) (et : Et) (mk : BitVec 2) : Statement (.vgath d sa b et mk) := by
  intro w h hw
  cases h
  obtain ⟨h0, h1, h2, h3, h4, h5, h6⟩ := encVX_fields 15 4 d sa b et.code mk
  generalize encVX 15 d sa b et.code mk 4 = x at h0 h1 h2 h3 h4 h5 h6 ⊢
  simp only [decode, decodeFields, decVX, decVxl, h0, h1, h2, h3, h4, h5, h6, Et.ofCode_code, unusedZero, reservedZero] <;> simp [Et.ofCode_code, unusedZero, reservedZero, hw]
theorem vscat (d : BitVec 4) (sa : BitVec 4) (b : BitVec 4) (et : Et) (mk : BitVec 2) : Statement (.vscat d sa b et mk) := by
  intro w h hw
  cases h
  obtain ⟨h0, h1, h2, h3, h4, h5, h6⟩ := encVX_fields 15 5 d sa b et.code mk
  generalize encVX 15 d sa b et.code mk 5 = x at h0 h1 h2 h3 h4 h5 h6 ⊢
  simp only [decode, decodeFields, decVX, decVxl, h0, h1, h2, h3, h4, h5, h6, Et.ofCode_code, unusedZero, reservedZero] <;> simp [Et.ofCode_code, unusedZero, reservedZero, hw]
theorem vsread (d : BitVec 4) (q : BitVec 2) : Statement (.vsread d q) := by
  intro w h hw
  cases h
  obtain ⟨h0, h1, h2, h3, h4, h5, h6⟩ := encVX_fields 0x0F 6 d ((0 : BitVec 2) ++ q) 0 2 0
  generalize encVX 0x0F d ((0 : BitVec 2) ++ q) 0 2 0 6 = x at h0 h1 h2 h3 h4 h5 h6 ⊢
  simp only [decode, decodeFields, decVX, decVxl, h0, h1, h2, h3, h4, h5, h6, Et.ofCode_code, unusedZero, reservedZero, sub22_hi, sub22_lo, Et.ofCode] <;> simp [Et.ofCode_code, unusedZero, reservedZero, sub22_hi, sub22_lo, Et.ofCode, hw]
theorem ldb (d : BitVec 5) (a : BitVec 5) (imm : BitVec 16) : Statement (.ldb d a imm) := by
  intro w h hw
  cases h
  obtain ⟨h0, h1, h2, h3, h4, h5, h6⟩ := encI_fields 16 d a imm
  generalize encI 16 d a imm = x at h0 h1 h2 h3 h4 h5 h6 ⊢
  simp only [decode, decodeFields, h0, h1, h2, h3, h4, h5, h6, unusedZero, reservedZero] <;> simp [unusedZero, reservedZero, hw]
theorem ldbs (d : BitVec 5) (a : BitVec 5) (imm : BitVec 16) : Statement (.ldbs d a imm) := by
  intro w h hw
  cases h
  obtain ⟨h0, h1, h2, h3, h4, h5, h6⟩ := encI_fields 17 d a imm
  generalize encI 17 d a imm = x at h0 h1 h2 h3 h4 h5 h6 ⊢
  simp only [decode, decodeFields, h0, h1, h2, h3, h4, h5, h6, unusedZero, reservedZero] <;> simp [unusedZero, reservedZero, hw]
theorem ldh (d : BitVec 5) (a : BitVec 5) (imm : BitVec 16) : Statement (.ldh d a imm) := by
  intro w h hw
  cases h
  obtain ⟨h0, h1, h2, h3, h4, h5, h6⟩ := encI_fields 18 d a imm
  generalize encI 18 d a imm = x at h0 h1 h2 h3 h4 h5 h6 ⊢
  simp only [decode, decodeFields, h0, h1, h2, h3, h4, h5, h6, unusedZero, reservedZero] <;> simp [unusedZero, reservedZero, hw]
theorem ldhs (d : BitVec 5) (a : BitVec 5) (imm : BitVec 16) : Statement (.ldhs d a imm) := by
  intro w h hw
  cases h
  obtain ⟨h0, h1, h2, h3, h4, h5, h6⟩ := encI_fields 19 d a imm
  generalize encI 19 d a imm = x at h0 h1 h2 h3 h4 h5 h6 ⊢
  simp only [decode, decodeFields, h0, h1, h2, h3, h4, h5, h6, unusedZero, reservedZero] <;> simp [unusedZero, reservedZero, hw]
theorem ldw (d : BitVec 5) (a : BitVec 5) (imm : BitVec 16) : Statement (.ldw d a imm) := by
  intro w h hw
  cases h
  obtain ⟨h0, h1, h2, h3, h4, h5, h6⟩ := encI_fields 20 d a imm
  generalize encI 20 d a imm = x at h0 h1 h2 h3 h4 h5 h6 ⊢
  simp only [decode, decodeFields, h0, h1, h2, h3, h4, h5, h6, unusedZero, reservedZero] <;> simp [unusedZero, reservedZero, hw]
theorem ldws (d : BitVec 5) (a : BitVec 5) (imm : BitVec 16) : Statement (.ldws d a imm) := by
  intro w h hw
  cases h
  obtain ⟨h0, h1, h2, h3, h4, h5, h6⟩ := encI_fields 21 d a imm
  generalize encI 21 d a imm = x at h0 h1 h2 h3 h4 h5 h6 ⊢
  simp only [decode, decodeFields, h0, h1, h2, h3, h4, h5, h6, unusedZero, reservedZero] <;> simp [unusedZero, reservedZero, hw]
theorem ldd (d : BitVec 5) (a : BitVec 5) (imm : BitVec 16) : Statement (.ldd d a imm) := by
  intro w h hw
  cases h
  obtain ⟨h0, h1, h2, h3, h4, h5, h6⟩ := encI_fields 22 d a imm
  generalize encI 22 d a imm = x at h0 h1 h2 h3 h4 h5 h6 ⊢
  simp only [decode, decodeFields, h0, h1, h2, h3, h4, h5, h6, unusedZero, reservedZero] <;> simp [unusedZero, reservedZero, hw]
theorem stb (d : BitVec 5) (a : BitVec 5) (imm : BitVec 16) : Statement (.stb d a imm) := by
  intro w h hw
  cases h
  obtain ⟨h0, h1, h2, h3, h4, h5, h6⟩ := encI_fields 24 d a imm
  generalize encI 24 d a imm = x at h0 h1 h2 h3 h4 h5 h6 ⊢
  simp only [decode, decodeFields, h0, h1, h2, h3, h4, h5, h6, unusedZero, reservedZero] <;> simp [unusedZero, reservedZero, hw]
theorem sth (d : BitVec 5) (a : BitVec 5) (imm : BitVec 16) : Statement (.sth d a imm) := by
  intro w h hw
  cases h
  obtain ⟨h0, h1, h2, h3, h4, h5, h6⟩ := encI_fields 25 d a imm
  generalize encI 25 d a imm = x at h0 h1 h2 h3 h4 h5 h6 ⊢
  simp only [decode, decodeFields, h0, h1, h2, h3, h4, h5, h6, unusedZero, reservedZero] <;> simp [unusedZero, reservedZero, hw]
theorem stw (d : BitVec 5) (a : BitVec 5) (imm : BitVec 16) : Statement (.stw d a imm) := by
  intro w h hw
  cases h
  obtain ⟨h0, h1, h2, h3, h4, h5, h6⟩ := encI_fields 26 d a imm
  generalize encI 26 d a imm = x at h0 h1 h2 h3 h4 h5 h6 ⊢
  simp only [decode, decodeFields, h0, h1, h2, h3, h4, h5, h6, unusedZero, reservedZero] <;> simp [unusedZero, reservedZero, hw]
theorem std (d : BitVec 5) (a : BitVec 5) (imm : BitVec 16) : Statement (.std d a imm) := by
  intro w h hw
  cases h
  obtain ⟨h0, h1, h2, h3, h4, h5, h6⟩ := encI_fields 27 d a imm
  generalize encI 27 d a imm = x at h0 h1 h2 h3 h4 h5 h6 ⊢
  simp only [decode, decodeFields, h0, h1, h2, h3, h4, h5, h6, unusedZero, reservedZero] <;> simp [unusedZero, reservedZero, hw]
theorem lda (d : BitVec 5) (a : BitVec 5) (scope : Scope) (size : BitVec 2) : Statement (.lda d a scope size) := by
  intro w h hw
  cases h
  obtain ⟨h0, h1, h2, h3, h4, h5, h6, h7⟩ := encS_fields 28 0 d a 0 scope .acquire size
  generalize encS 28 d a 0 scope .acquire size 0 = x at h0 h1 h2 h3 h4 h5 h6 h7 ⊢
  simp only [decode, decodeFields, decS, decOrd, h0, h1, h2, h3, h4, h5, h6, h7, Scope.ofCode_code, Order.ofCode_code, inRange, unusedZero] <;> simp [Scope.ofCode_code, Order.ofCode_code, inRange, unusedZero, hw]
theorem stl (d : BitVec 5) (a : BitVec 5) (scope : Scope) (size : BitVec 2) : Statement (.stl d a scope size) := by
  intro w h hw
  cases h
  obtain ⟨h0, h1, h2, h3, h4, h5, h6, h7⟩ := encS_fields 28 1 d a 0 scope .release size
  generalize encS 28 d a 0 scope .release size 1 = x at h0 h1 h2 h3 h4 h5 h6 h7 ⊢
  simp only [decode, decodeFields, decS, decOrd, h0, h1, h2, h3, h4, h5, h6, h7, Scope.ofCode_code, Order.ofCode_code, inRange, unusedZero] <;> simp [Scope.ofCode_code, Order.ofCode_code, inRange, unusedZero, hw]
theorem fst (d : BitVec 5) (a : BitVec 5) (b : BitVec 5) (scope : Scope) (order : Order) (size : BitVec 2) : Statement (.fst d a b scope order size) := by
  intro w h hw
  cases h
  obtain ⟨h0, h1, h2, h3, h4, h5, h6, h7⟩ := encS_fields 28 2 d a b scope order size
  generalize encS 28 d a b scope order size 2 = x at h0 h1 h2 h3 h4 h5 h6 h7 ⊢
  simp only [decode, decodeFields, decS, decOrd, h0, h1, h2, h3, h4, h5, h6, h7, Scope.ofCode_code, Order.ofCode_code, inRange, unusedZero] <;> simp [Scope.ofCode_code, Order.ofCode_code, inRange, unusedZero, hw]
theorem fence (scope : Scope) (order : Order) : Statement (.fence scope order) := by
  intro w h hw
  cases h
  obtain ⟨h0, h1, h2, h3, h4, h5, h6, h7⟩ := encS_fields 28 3 0 0 0 scope order 0
  generalize encS 28 0 0 0 scope order 0 3 = x at h0 h1 h2 h3 h4 h5 h6 h7 ⊢
  simp only [decode, decodeFields, decS, decOrd, h0, h1, h2, h3, h4, h5, h6, h7, Scope.ofCode_code, Order.ofCode_code, inRange, unusedZero] <;> simp [Scope.ofCode_code, Order.ofCode_code, inRange, unusedZero, hw]
theorem amoadd (d : BitVec 5) (a : BitVec 5) (b : BitVec 5) (scope : Scope) (order : Order) (size : BitVec 2) : Statement (.amoadd d a b scope order size) := by
  intro w h hw
  cases h
  obtain ⟨h0, h1, h2, h3, h4, h5, h6, h7⟩ := encS_fields 29 0 d a b scope order size
  generalize encS 29 d a b scope order size 0 = x at h0 h1 h2 h3 h4 h5 h6 h7 ⊢
  simp only [decode, decodeFields, decS, decAmo, h0, h1, h2, h3, h4, h5, h6, h7, Scope.ofCode_code, Order.ofCode_code, inRange, unusedZero] <;> simp [Scope.ofCode_code, Order.ofCode_code, inRange, unusedZero, hw]
theorem amoand (d : BitVec 5) (a : BitVec 5) (b : BitVec 5) (scope : Scope) (order : Order) (size : BitVec 2) : Statement (.amoand d a b scope order size) := by
  intro w h hw
  cases h
  obtain ⟨h0, h1, h2, h3, h4, h5, h6, h7⟩ := encS_fields 29 1 d a b scope order size
  generalize encS 29 d a b scope order size 1 = x at h0 h1 h2 h3 h4 h5 h6 h7 ⊢
  simp only [decode, decodeFields, decS, decAmo, h0, h1, h2, h3, h4, h5, h6, h7, Scope.ofCode_code, Order.ofCode_code, inRange, unusedZero] <;> simp [Scope.ofCode_code, Order.ofCode_code, inRange, unusedZero, hw]
theorem amoor (d : BitVec 5) (a : BitVec 5) (b : BitVec 5) (scope : Scope) (order : Order) (size : BitVec 2) : Statement (.amoor d a b scope order size) := by
  intro w h hw
  cases h
  obtain ⟨h0, h1, h2, h3, h4, h5, h6, h7⟩ := encS_fields 29 2 d a b scope order size
  generalize encS 29 d a b scope order size 2 = x at h0 h1 h2 h3 h4 h5 h6 h7 ⊢
  simp only [decode, decodeFields, decS, decAmo, h0, h1, h2, h3, h4, h5, h6, h7, Scope.ofCode_code, Order.ofCode_code, inRange, unusedZero] <;> simp [Scope.ofCode_code, Order.ofCode_code, inRange, unusedZero, hw]
theorem amoxor (d : BitVec 5) (a : BitVec 5) (b : BitVec 5) (scope : Scope) (order : Order) (size : BitVec 2) : Statement (.amoxor d a b scope order size) := by
  intro w h hw
  cases h
  obtain ⟨h0, h1, h2, h3, h4, h5, h6, h7⟩ := encS_fields 29 3 d a b scope order size
  generalize encS 29 d a b scope order size 3 = x at h0 h1 h2 h3 h4 h5 h6 h7 ⊢
  simp only [decode, decodeFields, decS, decAmo, h0, h1, h2, h3, h4, h5, h6, h7, Scope.ofCode_code, Order.ofCode_code, inRange, unusedZero] <;> simp [Scope.ofCode_code, Order.ofCode_code, inRange, unusedZero, hw]
theorem amosmin (d : BitVec 5) (a : BitVec 5) (b : BitVec 5) (scope : Scope) (order : Order) (size : BitVec 2) : Statement (.amosmin d a b scope order size) := by
  intro w h hw
  cases h
  obtain ⟨h0, h1, h2, h3, h4, h5, h6, h7⟩ := encS_fields 29 4 d a b scope order size
  generalize encS 29 d a b scope order size 4 = x at h0 h1 h2 h3 h4 h5 h6 h7 ⊢
  simp only [decode, decodeFields, decS, decAmo, h0, h1, h2, h3, h4, h5, h6, h7, Scope.ofCode_code, Order.ofCode_code, inRange, unusedZero] <;> simp [Scope.ofCode_code, Order.ofCode_code, inRange, unusedZero, hw]
theorem amosmax (d : BitVec 5) (a : BitVec 5) (b : BitVec 5) (scope : Scope) (order : Order) (size : BitVec 2) : Statement (.amosmax d a b scope order size) := by
  intro w h hw
  cases h
  obtain ⟨h0, h1, h2, h3, h4, h5, h6, h7⟩ := encS_fields 29 5 d a b scope order size
  generalize encS 29 d a b scope order size 5 = x at h0 h1 h2 h3 h4 h5 h6 h7 ⊢
  simp only [decode, decodeFields, decS, decAmo, h0, h1, h2, h3, h4, h5, h6, h7, Scope.ofCode_code, Order.ofCode_code, inRange, unusedZero] <;> simp [Scope.ofCode_code, Order.ofCode_code, inRange, unusedZero, hw]
theorem amoumin (d : BitVec 5) (a : BitVec 5) (b : BitVec 5) (scope : Scope) (order : Order) (size : BitVec 2) : Statement (.amoumin d a b scope order size) := by
  intro w h hw
  cases h
  obtain ⟨h0, h1, h2, h3, h4, h5, h6, h7⟩ := encS_fields 29 6 d a b scope order size
  generalize encS 29 d a b scope order size 6 = x at h0 h1 h2 h3 h4 h5 h6 h7 ⊢
  simp only [decode, decodeFields, decS, decAmo, h0, h1, h2, h3, h4, h5, h6, h7, Scope.ofCode_code, Order.ofCode_code, inRange, unusedZero] <;> simp [Scope.ofCode_code, Order.ofCode_code, inRange, unusedZero, hw]
theorem amoumax (d : BitVec 5) (a : BitVec 5) (b : BitVec 5) (scope : Scope) (order : Order) (size : BitVec 2) : Statement (.amoumax d a b scope order size) := by
  intro w h hw
  cases h
  obtain ⟨h0, h1, h2, h3, h4, h5, h6, h7⟩ := encS_fields 29 7 d a b scope order size
  generalize encS 29 d a b scope order size 7 = x at h0 h1 h2 h3 h4 h5 h6 h7 ⊢
  simp only [decode, decodeFields, decS, decAmo, h0, h1, h2, h3, h4, h5, h6, h7, Scope.ofCode_code, Order.ofCode_code, inRange, unusedZero] <;> simp [Scope.ofCode_code, Order.ofCode_code, inRange, unusedZero, hw]
theorem amoswap (d : BitVec 5) (a : BitVec 5) (b : BitVec 5) (scope : Scope) (order : Order) (size : BitVec 2) : Statement (.amoswap d a b scope order size) := by
  intro w h hw
  cases h
  obtain ⟨h0, h1, h2, h3, h4, h5, h6, h7⟩ := encS_fields 29 8 d a b scope order size
  generalize encS 29 d a b scope order size 8 = x at h0 h1 h2 h3 h4 h5 h6 h7 ⊢
  simp only [decode, decodeFields, decS, decAmo, h0, h1, h2, h3, h4, h5, h6, h7, Scope.ofCode_code, Order.ofCode_code, inRange, unusedZero] <;> simp [Scope.ofCode_code, Order.ofCode_code, inRange, unusedZero, hw]
theorem amocas (d : BitVec 5) (a : BitVec 5) (b : BitVec 5) (scope : Scope) (order : Order) (size : BitVec 2) : Statement (.amocas d a b scope order size) := by
  intro w h hw
  cases h
  obtain ⟨h0, h1, h2, h3, h4, h5, h6, h7⟩ := encS_fields 29 9 d a b scope order size
  generalize encS 29 d a b scope order size 9 = x at h0 h1 h2 h3 h4 h5 h6 h7 ⊢
  simp only [decode, decodeFields, decS, decAmo, h0, h1, h2, h3, h4, h5, h6, h7, Scope.ofCode_code, Order.ofCode_code, inRange, unusedZero] <;> simp [Scope.ofCode_code, Order.ofCode_code, inRange, unusedZero, hw]
theorem amofadd (d : BitVec 5) (a : BitVec 5) (b : BitVec 5) (scope : Scope) (order : Order) : Statement (.amofadd d a b scope order) := by
  intro w h hw
  cases h
  obtain ⟨h0, h1, h2, h3, h4, h5, h6, h7⟩ := encS_fields 29 10 d a b scope order 2
  generalize encS 29 d a b scope order 2 10 = x at h0 h1 h2 h3 h4 h5 h6 h7 ⊢
  simp only [decode, decodeFields, decS, decAmo, h0, h1, h2, h3, h4, h5, h6, h7, Scope.ofCode_code, Order.ofCode_code, inRange, unusedZero] <;> simp [Scope.ofCode_code, Order.ofCode_code, inRange, unusedZero, hw]
theorem amocas128 (d : BitVec 5) (a : BitVec 5) (b : BitVec 5) (scope : Scope) (order : Order) : Statement (.amocas128 d a b scope order) := by
  intro w h hw
  cases h
  obtain ⟨h0, h1, h2, h3, h4, h5, h6, h7⟩ := encS_fields 29 11 d a b scope order 0
  generalize encS 29 d a b scope order 0 11 = x at h0 h1 h2 h3 h4 h5 h6 h7 ⊢
  simp only [decode, decodeFields, decS, decAmo, h0, h1, h2, h3, h4, h5, h6, h7, Scope.ofCode_code, Order.ofCode_code, inRange, unusedZero] <;> simp [Scope.ofCode_code, Order.ofCode_code, inRange, unusedZero, hw]
theorem nnew (d : BitVec 5) (a : BitVec 5) (b : BitVec 5) (scope : Scope) (order : Order) : Statement (.nnew d a b scope order) := by
  intro w h hw
  cases h
  obtain ⟨h0, h1, h2, h3, h4, h5, h6, h7⟩ := encS_fields 30 0 d a b scope order 0
  generalize encS 30 d a b scope order 0 0 = x at h0 h1 h2 h3 h4 h5 h6 h7 ⊢
  simp only [decode, decodeFields, decS, decName, h0, h1, h2, h3, h4, h5, h6, h7, Scope.ofCode_code, Order.ofCode_code, inRange, unusedZero] <;> simp [Scope.ofCode_code, Order.ofCode_code, inRange, unusedZero, hw]
theorem nkill (d : BitVec 5) (a : BitVec 5) (scope : Scope) (order : Order) (sync : BitVec 1) : Statement (.nkill d a scope order sync) := by
  intro w h hw
  cases h
  obtain ⟨h0, h1, h2, h3, h4, h5, h6, h7⟩ := encS_fields 30 1 d a 0 scope order ((0 : BitVec 1) ++ sync)
  generalize encS 30 d a 0 scope order ((0 : BitVec 1) ++ sync) 1 = x at h0 h1 h2 h3 h4 h5 h6 h7 ⊢
  simp only [decode, decodeFields, decS, decName, h0, h1, h2, h3, h4, h5, h6, h7, Scope.ofCode_code, Order.ofCode_code, inRange, unusedZero, sub13_hi, sub13_lo, sub11_hi, sub11_lo] <;> simp [Scope.ofCode_code, Order.ofCode_code, inRange, unusedZero, sub13_hi, sub13_lo, sub11_hi, sub11_lo, hw]
theorem nres (d : BitVec 5) (a : BitVec 5) (b : BitVec 5) (scope : Scope) (order : Order) : Statement (.nres d a b scope order) := by
  intro w h hw
  cases h
  obtain ⟨h0, h1, h2, h3, h4, h5, h6, h7⟩ := encS_fields 30 2 d a b scope order 0
  generalize encS 30 d a b scope order 0 2 = x at h0 h1 h2 h3 h4 h5 h6 h7 ⊢
  simp only [decode, decodeFields, decS, decName, h0, h1, h2, h3, h4, h5, h6, h7, Scope.ofCode_code, Order.ofCode_code, inRange, unusedZero] <;> simp [Scope.ofCode_code, Order.ofCode_code, inRange, unusedZero, hw]
theorem ncas (d : BitVec 5) (a : BitVec 5) (b : BitVec 5) (scope : Scope) (order : Order) (live : BitVec 1) : Statement (.ncas d a b scope order live) := by
  intro w h hw
  cases h
  obtain ⟨h0, h1, h2, h3, h4, h5, h6, h7⟩ := encS_fields 30 3 d a b scope order ((0 : BitVec 1) ++ live)
  generalize encS 30 d a b scope order ((0 : BitVec 1) ++ live) 3 = x at h0 h1 h2 h3 h4 h5 h6 h7 ⊢
  simp only [decode, decodeFields, decS, decName, h0, h1, h2, h3, h4, h5, h6, h7, Scope.ofCode_code, Order.ofCode_code, inRange, unusedZero, sub13_hi, sub13_lo, sub11_hi, sub11_lo] <;> simp [Scope.ofCode_code, Order.ofCode_code, inRange, unusedZero, sub13_hi, sub13_lo, sub11_hi, sub11_lo, hw]
theorem nwait (d : BitVec 5) (a : BitVec 5) (scope : Scope) : Statement (.nwait d a scope) := by
  intro w h hw
  cases h
  obtain ⟨h0, h1, h2, h3, h4, h5, h6, h7⟩ := encS_fields 30 4 d a 0 scope .acquire 0
  generalize encS 30 d a 0 scope .acquire 0 4 = x at h0 h1 h2 h3 h4 h5 h6 h7 ⊢
  simp only [decode, decodeFields, decS, decName, h0, h1, h2, h3, h4, h5, h6, h7, Scope.ofCode_code, Order.ofCode_code, inRange, unusedZero] <;> simp [Scope.ofCode_code, Order.ofCode_code, inRange, unusedZero, hw]
theorem waita (d : BitVec 5) (a : BitVec 5) (b : BitVec 5) (scope : Scope) : Statement (.waita d a b scope) := by
  intro w h hw
  cases h
  obtain ⟨h0, h1, h2, h3, h4, h5, h6, h7⟩ := encS_fields 31 0 d a b scope .acquire 3
  generalize encS 31 d a b scope .acquire 3 0 = x at h0 h1 h2 h3 h4 h5 h6 h7 ⊢
  simp only [decode, decodeFields, decS, decSync, h0, h1, h2, h3, h4, h5, h6, h7, Scope.ofCode_code, Order.ofCode_code, inRange, unusedZero] <;> simp [Scope.ofCode_code, Order.ofCode_code, inRange, unusedZero, hw]
theorem wake (d : BitVec 5) (a : BitVec 5) (b : BitVec 5) (scope : Scope) (order : Order) : Statement (.wake d a b scope order) := by
  intro w h hw
  cases h
  obtain ⟨h0, h1, h2, h3, h4, h5, h6, h7⟩ := encS_fields 31 1 d a b scope order 0
  generalize encS 31 d a b scope order 0 1 = x at h0 h1 h2 h3 h4 h5 h6 h7 ⊢
  simp only [decode, decodeFields, decS, decSync, h0, h1, h2, h3, h4, h5, h6, h7, Scope.ofCode_code, Order.ofCode_code, inRange, unusedZero] <;> simp [Scope.ofCode_code, Order.ofCode_code, inRange, unusedZero, hw]
theorem bara (d : BitVec 5) (a : BitVec 5) : Statement (.bara d a) := by
  intro w h hw
  cases h
  obtain ⟨h0, h1, h2, h3, h4, h5, h6, h7⟩ := encS_fields 31 2 d a 0 .none .relaxed 0
  generalize encS 31 d a 0 .none .relaxed 0 2 = x at h0 h1 h2 h3 h4 h5 h6 h7 ⊢
  simp only [decode, decodeFields, decS, decSync, h0, h1, h2, h3, h4, h5, h6, h7, Scope.ofCode_code, Order.ofCode_code, inRange, unusedZero] <;> simp [Scope.ofCode_code, Order.ofCode_code, inRange, unusedZero, hw]
theorem barw (d : BitVec 5) (a : BitVec 5) (b : BitVec 5) : Statement (.barw d a b) := by
  intro w h hw
  cases h
  obtain ⟨h0, h1, h2, h3, h4, h5, h6, h7⟩ := encS_fields 31 3 d a b .none .relaxed 0
  generalize encS 31 d a b .none .relaxed 0 3 = x at h0 h1 h2 h3 h4 h5 h6 h7 ⊢
  simp only [decode, decodeFields, decS, decSync, h0, h1, h2, h3, h4, h5, h6, h7, Scope.ofCode_code, Order.ofCode_code, inRange, unusedZero] <;> simp [Scope.ofCode_code, Order.ofCode_code, inRange, unusedZero, hw]
theorem beq (a : BitVec 5) (b : BitVec 5) (off : BitVec 16) : Statement (.beq a b off) := by
  intro w h hw
  cases h
  obtain ⟨h0, h1, h2, h3⟩ := encB_fields 32 a b off
  generalize encB 32 a b off = x at h0 h1 h2 h3 ⊢
  simp only [decode, decodeFields, h0, h1, h2, h3, unusedZero, reservedZero] <;> simp [unusedZero, reservedZero, hw]
theorem bne (a : BitVec 5) (b : BitVec 5) (off : BitVec 16) : Statement (.bne a b off) := by
  intro w h hw
  cases h
  obtain ⟨h0, h1, h2, h3⟩ := encB_fields 33 a b off
  generalize encB 33 a b off = x at h0 h1 h2 h3 ⊢
  simp only [decode, decodeFields, h0, h1, h2, h3, unusedZero, reservedZero] <;> simp [unusedZero, reservedZero, hw]
theorem blt (a : BitVec 5) (b : BitVec 5) (off : BitVec 16) : Statement (.blt a b off) := by
  intro w h hw
  cases h
  obtain ⟨h0, h1, h2, h3⟩ := encB_fields 34 a b off
  generalize encB 34 a b off = x at h0 h1 h2 h3 ⊢
  simp only [decode, decodeFields, h0, h1, h2, h3, unusedZero, reservedZero] <;> simp [unusedZero, reservedZero, hw]
theorem bge (a : BitVec 5) (b : BitVec 5) (off : BitVec 16) : Statement (.bge a b off) := by
  intro w h hw
  cases h
  obtain ⟨h0, h1, h2, h3⟩ := encB_fields 35 a b off
  generalize encB 35 a b off = x at h0 h1 h2 h3 ⊢
  simp only [decode, decodeFields, h0, h1, h2, h3, unusedZero, reservedZero] <;> simp [unusedZero, reservedZero, hw]
theorem bltu (a : BitVec 5) (b : BitVec 5) (off : BitVec 16) : Statement (.bltu a b off) := by
  intro w h hw
  cases h
  obtain ⟨h0, h1, h2, h3⟩ := encB_fields 36 a b off
  generalize encB 36 a b off = x at h0 h1 h2 h3 ⊢
  simp only [decode, decodeFields, h0, h1, h2, h3, unusedZero, reservedZero] <;> simp [unusedZero, reservedZero, hw]
theorem bgeu (a : BitVec 5) (b : BitVec 5) (off : BitVec 16) : Statement (.bgeu a b off) := by
  intro w h hw
  cases h
  obtain ⟨h0, h1, h2, h3⟩ := encB_fields 37 a b off
  generalize encB 37 a b off = x at h0 h1 h2 h3 ⊢
  simp only [decode, decodeFields, h0, h1, h2, h3, unusedZero, reservedZero] <;> simp [unusedZero, reservedZero, hw]
theorem jmp (off : BitVec 26) : Statement (.jmp off) := by
  intro w h hw
  cases h
  obtain ⟨h0, h1⟩ := encJ_fields 0x26 off
  generalize encJ 0x26 off = x at h0 h1 ⊢
  simp only [decode, decodeFields, h0, h1] <;> simp [hw]
theorem call (fsz : BitVec 3) (off : BitVec 23) : Statement (.call fsz off) := by
  intro w h hw
  cases h
  obtain ⟨h0, h1, h2⟩ := encC_fields 0x27 fsz off
  generalize encC 0x27 fsz off = x at h0 h1 h2 ⊢
  simp only [decode, decodeFields, h0, h1, h2, unusedZero, reservedZero]
  have hf : 2 ≤ fsz.toNat ∧ fsz.toNat ≤ 6 := by
    by_contra hc
    simp [Instr.wfCheck, firstFail, hc] at hw
  simp [reservedZero, hf, hw]
theorem jr (a : BitVec 5) : Statement (.jr a) := by
  intro w h hw
  cases h
  obtain ⟨h0, h1, h2, h3, h4⟩ := encA_fields 40 0 0 a 0
  generalize encA 40 0 a 0 0 = x at h0 h1 h2 h3 h4 ⊢
  simp only [decode, decodeFields, decA, decJr, h0, h1, h2, h3, h4, unusedZero, reservedZero] <;> simp [unusedZero, reservedZero, hw]
theorem jalr (a : BitVec 5) : Statement (.jalr a) := by
  intro w h hw
  cases h
  obtain ⟨h0, h1, h2, h3, h4⟩ := encA_fields 40 1 0 a 0
  generalize encA 40 0 a 0 1 = x at h0 h1 h2 h3 h4 ⊢
  simp only [decode, decodeFields, decA, decJr, h0, h1, h2, h3, h4, unusedZero, reservedZero] <;> simp [unusedZero, reservedZero, hw]
theorem ret : Statement .ret := by
  intro w h hw
  cases h
  obtain ⟨h0, h1, h2, h3, h4⟩ := encA_fields 40 2 0 0 0
  generalize encA 40 0 0 0 2 = x at h0 h1 h2 h3 h4 ⊢
  simp only [decode, decodeFields, decA, decJr, h0, h1, h2, h3, h4, unusedZero, reservedZero] <;> simp [unusedZero, reservedZero, hw]
theorem loop (a : BitVec 5) (off : BitVec 16) : Statement (.loop a off) := by
  intro w h hw
  cases h
  obtain ⟨h0, h1, h2, h3⟩ := encB_fields 0x29 a 0 off
  generalize encB 0x29 a 0 off = x at h0 h1 h2 h3 ⊢
  simp only [decode, decodeFields, h0, h1, h2, h3, unusedZero, reservedZero] <;> simp [unusedZero, reservedZero, hw]
theorem spawn (d : BitVec 5) (a : BitVec 5) (b : BitVec 5) : Statement (.spawn d a b) := by
  intro w h hw
  cases h
  obtain ⟨h0, h1, h2, h3, h4⟩ := encA_fields 42 0 d a b
  generalize encA 42 d a b 0 = x at h0 h1 h2 h3 h4 ⊢
  simp only [decode, decodeFields, decA, decTask, h0, h1, h2, h3, h4, unusedZero, reservedZero] <;> simp [unusedZero, reservedZero, hw]
theorem send (d : BitVec 5) (a : BitVec 5) (b : BitVec 5) : Statement (.send d a b) := by
  intro w h hw
  cases h
  obtain ⟨h0, h1, h2, h3, h4⟩ := encA_fields 42 1 d a b
  generalize encA 42 d a b 1 = x at h0 h1 h2 h3 h4 ⊢
  simp only [decode, decodeFields, decA, decTask, h0, h1, h2, h3, h4, unusedZero, reservedZero] <;> simp [unusedZero, reservedZero, hw]
theorem recv (d : BitVec 5) (a : BitVec 5) : Statement (.recv d a) := by
  intro w h hw
  cases h
  obtain ⟨h0, h1, h2, h3, h4⟩ := encA_fields 42 2 d a 0
  generalize encA 42 d a 0 2 = x at h0 h1 h2 h3 h4 ⊢
  simp only [decode, decodeFields, decA, decTask, h0, h1, h2, h3, h4, unusedZero, reservedZero] <;> simp [unusedZero, reservedZero, hw]
theorem setprio (d : BitVec 5) (a : BitVec 5) : Statement (.setprio d a) := by
  intro w h hw
  cases h
  obtain ⟨h0, h1, h2, h3, h4⟩ := encA_fields 42 3 d a 0
  generalize encA 42 d a 0 3 = x at h0 h1 h2 h3 h4 ⊢
  simp only [decode, decodeFields, decA, decTask, h0, h1, h2, h3, h4, unusedZero, reservedZero] <;> simp [unusedZero, reservedZero, hw]
theorem taskname (d : BitVec 5) (a : BitVec 5) : Statement (.taskname d a) := by
  intro w h hw
  cases h
  obtain ⟨h0, h1, h2, h3, h4⟩ := encA_fields 42 4 d a 0
  generalize encA 42 d a 0 4 = x at h0 h1 h2 h3 h4 ⊢
  simp only [decode, decodeFields, decA, decTask, h0, h1, h2, h3, h4, unusedZero, reservedZero] <;> simp [unusedZero, reservedZero, hw]
theorem sread (d : BitVec 5) (q : BitVec 2) : Statement (.sread d q) := by
  intro w h hw
  cases h
  obtain ⟨h0, h1, h2, h3, h4⟩ := encA_fields 0x2B 0 d ((0 : BitVec 3) ++ q) 0
  generalize encA 0x2B d ((0 : BitVec 3) ++ q) 0 0 = x at h0 h1 h2 h3 h4 ⊢
  simp only [decode, decodeFields, decA, decStrm, h0, h1, h2, h3, h4, unusedZero, reservedZero, sub32_hi, sub32_lo] <;> simp [unusedZero, reservedZero, sub32_hi, sub32_lo, hw]
theorem speek (d : BitVec 5) (q : BitVec 2) : Statement (.speek d q) := by
  intro w h hw
  cases h
  obtain ⟨h0, h1, h2, h3, h4⟩ := encA_fields 0x2B 1 d ((0 : BitVec 3) ++ q) 0
  generalize encA 0x2B d ((0 : BitVec 3) ++ q) 0 1 = x at h0 h1 h2 h3 h4 ⊢
  simp only [decode, decodeFields, decA, decStrm, h0, h1, h2, h3, h4, unusedZero, reservedZero, sub32_hi, sub32_lo] <;> simp [unusedZero, reservedZero, sub32_hi, sub32_lo, hw]
theorem sstat (d : BitVec 5) (q : BitVec 2) : Statement (.sstat d q) := by
  intro w h hw
  cases h
  obtain ⟨h0, h1, h2, h3, h4⟩ := encA_fields 0x2B 2 d ((0 : BitVec 3) ++ q) 0
  generalize encA 0x2B d ((0 : BitVec 3) ++ q) 0 2 = x at h0 h1 h2 h3 h4 ⊢
  simp only [decode, decodeFields, decA, decStrm, h0, h1, h2, h3, h4, unusedZero, reservedZero, sub32_hi, sub32_lo] <;> simp [unusedZero, reservedZero, sub32_hi, sub32_lo, hw]
theorem sdrop (q : BitVec 2) : Statement (.sdrop q) := by
  intro w h hw
  cases h
  obtain ⟨h0, h1, h2, h3, h4⟩ := encA_fields 0x2B 3 0 ((0 : BitVec 3) ++ q) 0
  generalize encA 0x2B 0 ((0 : BitVec 3) ++ q) 0 3 = x at h0 h1 h2 h3 h4 ⊢
  simp only [decode, decodeFields, decA, decStrm, h0, h1, h2, h3, h4, unusedZero, reservedZero, sub32_hi, sub32_lo] <;> simp [unusedZero, reservedZero, sub32_hi, sub32_lo, hw]
theorem chld (vs : BitVec 4) : Statement (.chld vs) := by
  intro w h hw
  cases h
  obtain ⟨h0, h1, h2, h3, h4, h5⟩ := encQ_fields 0x2C vs 0 0 0
  have hl := encQ_low 0x2C vs
  generalize encQ 0x2C vs 0 0 0 = x at h0 h1 h2 h3 h4 h5 hl ⊢
  simp only [decode, decodeFields, h0, h1, h2, h3, h4, h5, Eng.ofCode_code, reservedZero, hl] <;> simp [Eng.ofCode_code, reservedZero, hl, hw]
theorem cmdq (vs : BitVec 4) (eng : Eng) (n : BitVec 1) (chk : BitVec 1) : Statement (.cmdq vs eng n chk) := by
  intro w h hw
  cases h
  obtain ⟨h0, h1, h2, h3, h4, h5⟩ := encQ_fields 0x2D vs eng.code n chk
  generalize encQ 0x2D vs eng.code n chk = x at h0 h1 h2 h3 h4 h5 ⊢
  simp only [decode, decodeFields, h0, h1, h2, h3, h4, h5, Eng.ofCode_code, reservedZero] <;> simp [Eng.ofCode_code, reservedZero, hw]
theorem tokacq (d : BitVec 5) (a : BitVec 5) : Statement (.tokacq d a) := by
  intro w h hw
  cases h
  obtain ⟨h0, h1, h2, h3, h4, h5, h6, h7⟩ := encS_fields 46 0 d a 0 .system .acquire 0
  generalize encS 46 d a 0 .system .acquire 0 0 = x at h0 h1 h2 h3 h4 h5 h6 h7 ⊢
  simp only [decode, decodeFields, decS, decPeer, h0, h1, h2, h3, h4, h5, h6, h7, Scope.ofCode_code, Order.ofCode_code, inRange, unusedZero] <;> simp [Scope.ofCode_code, Order.ofCode_code, inRange, unusedZero, hw]
theorem tokrel (d : BitVec 5) (a : BitVec 5) : Statement (.tokrel d a) := by
  intro w h hw
  cases h
  obtain ⟨h0, h1, h2, h3, h4, h5, h6, h7⟩ := encS_fields 46 1 d a 0 .system .release 0
  generalize encS 46 d a 0 .system .release 0 1 = x at h0 h1 h2 h3 h4 h5 h6 h7 ⊢
  simp only [decode, decodeFields, decS, decPeer, h0, h1, h2, h3, h4, h5, h6, h7, Scope.ofCode_code, Order.ofCode_code, inRange, unusedZero] <;> simp [Scope.ofCode_code, Order.ofCode_code, inRange, unusedZero, hw]
theorem vadd (d : BitVec 4) (a : BitVec 4) (b : BitVec 4) (twist : BitVec 12) (mk : BitVec 2) : Statement (.vadd d a b twist mk) := by
  intro w h hw
  cases h
  obtain ⟨h0, h1, h2, h3, h4, h5⟩ := encV_fields 48 d a b twist mk
  generalize encV 48 d a b twist mk = x at h0 h1 h2 h3 h4 h5 ⊢
  simp only [decode, decodeFields, h0, h1, h2, h3, h4, h5, unusedZero, reservedZero] <;> simp [unusedZero, reservedZero, hw]
theorem vsub (d : BitVec 4) (a : BitVec 4) (b : BitVec 4) (twist : BitVec 12) (mk : BitVec 2) : Statement (.vsub d a b twist mk) := by
  intro w h hw
  cases h
  obtain ⟨h0, h1, h2, h3, h4, h5⟩ := encV_fields 49 d a b twist mk
  generalize encV 49 d a b twist mk = x at h0 h1 h2 h3 h4 h5 ⊢
  simp only [decode, decodeFields, h0, h1, h2, h3, h4, h5, unusedZero, reservedZero] <;> simp [unusedZero, reservedZero, hw]
theorem vmul (d : BitVec 4) (a : BitVec 4) (b : BitVec 4) (twist : BitVec 12) (mk : BitVec 2) : Statement (.vmul d a b twist mk) := by
  intro w h hw
  cases h
  obtain ⟨h0, h1, h2, h3, h4, h5⟩ := encV_fields 50 d a b twist mk
  generalize encV 50 d a b twist mk = x at h0 h1 h2 h3 h4 h5 ⊢
  simp only [decode, decodeFields, h0, h1, h2, h3, h4, h5, unusedZero, reservedZero] <;> simp [unusedZero, reservedZero, hw]
theorem vmac (d : BitVec 4) (a : BitVec 4) (b : BitVec 4) (twist : BitVec 12) (mk : BitVec 2) : Statement (.vmac d a b twist mk) := by
  intro w h hw
  cases h
  obtain ⟨h0, h1, h2, h3, h4, h5⟩ := encV_fields 51 d a b twist mk
  generalize encV 51 d a b twist mk = x at h0 h1 h2 h3 h4 h5 ⊢
  simp only [decode, decodeFields, h0, h1, h2, h3, h4, h5, unusedZero, reservedZero] <;> simp [unusedZero, reservedZero, hw]
theorem vand (d : BitVec 4) (a : BitVec 4) (b : BitVec 4) (twist : BitVec 12) (mk : BitVec 2) : Statement (.vand d a b twist mk) := by
  intro w h hw
  cases h
  obtain ⟨h0, h1, h2, h3, h4, h5⟩ := encV_fields 52 d a b twist mk
  generalize encV 52 d a b twist mk = x at h0 h1 h2 h3 h4 h5 ⊢
  simp only [decode, decodeFields, h0, h1, h2, h3, h4, h5, unusedZero, reservedZero] <;> simp [unusedZero, reservedZero, hw]
theorem vor (d : BitVec 4) (a : BitVec 4) (b : BitVec 4) (twist : BitVec 12) (mk : BitVec 2) : Statement (.vor d a b twist mk) := by
  intro w h hw
  cases h
  obtain ⟨h0, h1, h2, h3, h4, h5⟩ := encV_fields 53 d a b twist mk
  generalize encV 53 d a b twist mk = x at h0 h1 h2 h3 h4 h5 ⊢
  simp only [decode, decodeFields, h0, h1, h2, h3, h4, h5, unusedZero, reservedZero] <;> simp [unusedZero, reservedZero, hw]
theorem vxor (d : BitVec 4) (a : BitVec 4) (b : BitVec 4) (twist : BitVec 12) (mk : BitVec 2) : Statement (.vxor d a b twist mk) := by
  intro w h hw
  cases h
  obtain ⟨h0, h1, h2, h3, h4, h5⟩ := encV_fields 54 d a b twist mk
  generalize encV 54 d a b twist mk = x at h0 h1 h2 h3 h4 h5 ⊢
  simp only [decode, decodeFields, h0, h1, h2, h3, h4, h5, unusedZero, reservedZero] <;> simp [unusedZero, reservedZero, hw]
theorem vshl (d : BitVec 4) (a : BitVec 4) (b : BitVec 4) (twist : BitVec 12) (mk : BitVec 2) : Statement (.vshl d a b twist mk) := by
  intro w h hw
  cases h
  obtain ⟨h0, h1, h2, h3, h4, h5⟩ := encV_fields 55 d a b twist mk
  generalize encV 55 d a b twist mk = x at h0 h1 h2 h3 h4 h5 ⊢
  simp only [decode, decodeFields, h0, h1, h2, h3, h4, h5, unusedZero, reservedZero] <;> simp [unusedZero, reservedZero, hw]
theorem vshr (d : BitVec 4) (a : BitVec 4) (b : BitVec 4) (twist : BitVec 12) (mk : BitVec 2) : Statement (.vshr d a b twist mk) := by
  intro w h hw
  cases h
  obtain ⟨h0, h1, h2, h3, h4, h5⟩ := encV_fields 56 d a b twist mk
  generalize encV 56 d a b twist mk = x at h0 h1 h2 h3 h4 h5 ⊢
  simp only [decode, decodeFields, h0, h1, h2, h3, h4, h5, unusedZero, reservedZero] <;> simp [unusedZero, reservedZero, hw]
theorem vmin (d : BitVec 4) (a : BitVec 4) (b : BitVec 4) (twist : BitVec 12) (mk : BitVec 2) : Statement (.vmin d a b twist mk) := by
  intro w h hw
  cases h
  obtain ⟨h0, h1, h2, h3, h4, h5⟩ := encV_fields 57 d a b twist mk
  generalize encV 57 d a b twist mk = x at h0 h1 h2 h3 h4 h5 ⊢
  simp only [decode, decodeFields, h0, h1, h2, h3, h4, h5, unusedZero, reservedZero] <;> simp [unusedZero, reservedZero, hw]
theorem vmax (d : BitVec 4) (a : BitVec 4) (b : BitVec 4) (twist : BitVec 12) (mk : BitVec 2) : Statement (.vmax d a b twist mk) := by
  intro w h hw
  cases h
  obtain ⟨h0, h1, h2, h3, h4, h5⟩ := encV_fields 58 d a b twist mk
  generalize encV 58 d a b twist mk = x at h0 h1 h2 h3 h4 h5 ⊢
  simp only [decode, decodeFields, h0, h1, h2, h3, h4, h5, unusedZero, reservedZero] <;> simp [unusedZero, reservedZero, hw]
theorem vfadd (d : BitVec 4) (a : BitVec 4) (b : BitVec 4) (twist : BitVec 12) (mk : BitVec 2) : Statement (.vfadd d a b twist mk) := by
  intro w h hw
  cases h
  obtain ⟨h0, h1, h2, h3, h4, h5⟩ := encV_fields 59 d a b twist mk
  generalize encV 59 d a b twist mk = x at h0 h1 h2 h3 h4 h5 ⊢
  simp only [decode, decodeFields, h0, h1, h2, h3, h4, h5, unusedZero, reservedZero] <;> simp [unusedZero, reservedZero, hw]
theorem vfmul (d : BitVec 4) (a : BitVec 4) (b : BitVec 4) (twist : BitVec 12) (mk : BitVec 2) : Statement (.vfmul d a b twist mk) := by
  intro w h hw
  cases h
  obtain ⟨h0, h1, h2, h3, h4, h5⟩ := encV_fields 60 d a b twist mk
  generalize encV 60 d a b twist mk = x at h0 h1 h2 h3 h4 h5 ⊢
  simp only [decode, decodeFields, h0, h1, h2, h3, h4, h5, unusedZero, reservedZero] <;> simp [unusedZero, reservedZero, hw]
theorem vfma (d : BitVec 4) (a : BitVec 4) (b : BitVec 4) (twist : BitVec 12) (mk : BitVec 2) : Statement (.vfma d a b twist mk) := by
  intro w h hw
  cases h
  obtain ⟨h0, h1, h2, h3, h4, h5⟩ := encV_fields 61 d a b twist mk
  generalize encV 61 d a b twist mk = x at h0 h1 h2 h3 h4 h5 ⊢
  simp only [decode, decodeFields, h0, h1, h2, h3, h4, h5, unusedZero, reservedZero] <;> simp [unusedZero, reservedZero, hw]
theorem vsel (d : BitVec 4) (a : BitVec 4) (b : BitVec 4) (twist : BitVec 12) (mk : BitVec 2) : Statement (.vsel d a b twist mk) := by
  intro w h hw
  cases h
  obtain ⟨h0, h1, h2, h3, h4, h5⟩ := encV_fields 62 d a b twist mk
  generalize encV 62 d a b twist mk = x at h0 h1 h2 h3 h4 h5 ⊢
  simp only [decode, decodeFields, h0, h1, h2, h3, h4, h5, unusedZero, reservedZero] <;> simp [unusedZero, reservedZero, hw]
theorem vmov (d : BitVec 4) (b : BitVec 4) (twist : BitVec 12) (mk : BitVec 2) : Statement (.vmov d b twist mk) := by
  intro w h hw
  cases h
  obtain ⟨h0, h1, h2, h3, h4, h5⟩ := encV_fields 0x3F d 0 b twist mk
  generalize encV 0x3F d 0 b twist mk = x at h0 h1 h2 h3 h4 h5 ⊢
  simp only [decode, decodeFields, h0, h1, h2, h3, h4, h5, unusedZero, reservedZero] <;> simp [unusedZero, reservedZero, hw]
theorem cpy (c : Nat) : Statement (.cpy c) := fun _ h => nomatch h
theorem cpys (c : Nat) : Statement (.cpys c) := fun _ h => nomatch h
theorem pack (c : Nat) : Statement (.pack c) := fun _ h => nomatch h
theorem gath (c : Nat) : Statement (.gath c) := fun _ h => nomatch h
theorem scat (c : Nat) : Statement (.scat c) := fun _ h => nomatch h
theorem fill (c : Nat) : Statement (.fill c) := fun _ h => nomatch h
theorem wload (c : Nat) : Statement (.wload c) := fun _ h => nomatch h
theorem cseq (c : Nat) : Statement (.cseq c) := fun _ h => nomatch h
theorem copyCommandComplete (c : Nat) : Statement (.copyCommandComplete c) := fun _ h => nomatch h
theorem stageCopyBegin (c : Nat) : Statement (.stageCopyBegin c) := fun _ h => nomatch h
theorem cpysItem (c : Nat) : Statement (.cpysItem c) := fun _ h => nomatch h
theorem cperrClear (g : Nat) : Statement (.cperrClear g) := fun _ h => nomatch h
theorem mctx (c : Nat) : Statement (.mctx c) := fun _ h => nomatch h
theorem mstg (c : Nat) : Statement (.mstg c) := fun _ h => nomatch h
theorem mpass (c : Nat) : Statement (.mpass c) := fun _ h => nomatch h
theorem tnew (c : Nat) : Statement (.tnew c) := fun _ h => nomatch h
theorem tfwd (c : Nat) : Statement (.tfwd c) := fun _ h => nomatch h
theorem tread (c : Nat) : Statement (.tread c) := fun _ h => nomatch h
theorem tabandon (c : Nat) : Statement (.tabandon c) := fun _ h => nomatch h
theorem tstat (c : Nat) : Statement (.tstat c) := fun _ h => nomatch h
theorem arrayGrant (cl : Nat) (residueOk : Bool) : Statement (.arrayGrant cl residueOk) := fun _ h => nomatch h
theorem contributionArrival (n : Nat) : Statement (.contributionArrival n) := fun _ h => nomatch h
theorem tfwdStatusReturn (n : Nat) : Statement (.tfwdStatusReturn n) := fun _ h => nomatch h
theorem arrayIdle (cl : Nat) : Statement (.arrayIdle cl) := fun _ h => nomatch h
theorem startPermitGrant (die : Nat) : Statement (.startPermitGrant die) := fun _ h => nomatch h
theorem mpassReplay (c : Nat) : Statement (.mpassReplay c) := fun _ h => nomatch h
theorem mxerrClear (g : Nat) : Statement (.mxerrClear g) := fun _ h => nomatch h
theorem cmdqPush (c : Nat) (eng : Eng) : Statement (.cmdqPush c eng) := fun _ h => nomatch h
theorem weightStoreRequest (n : Nat) : Statement (.weightStoreRequest n) := fun _ h => nomatch h
theorem wsStateChange (die : Nat) : Statement (.wsStateChange die) := fun _ h => nomatch h
theorem preemptSave (g : Nat) : Statement (.preemptSave g) := fun _ h => nomatch h
theorem faultPacketRelease (die : Nat) : Statement (.faultPacketRelease die) := fun _ h => nomatch h
theorem completionRecordRelease (port : Nat) : Statement (.completionRecordRelease port) := fun _ h => nomatch h
theorem migrationCopyDone (die : Nat) (n : Nat) : Statement (.migrationCopyDone die n) := fun _ h => nomatch h
theorem tcinvDone (die : Nat) : Statement (.tcinvDone die) := fun _ h => nomatch h
theorem handOverComplete (die : Nat) : Statement (.handOverComplete die) := fun _ h => nomatch h
theorem retireComplete (die : Nat) : Statement (.retireComplete die) := fun _ h => nomatch h
theorem graphNodeSpawn (n : Nat) : Statement (.graphNodeSpawn n) := fun _ h => nomatch h
theorem tmwake (die : Nat) : Statement (.tmwake die) := fun _ h => nomatch h
theorem loadReturn (n : Nat) : Statement (.loadReturn n) := fun _ h => nomatch h
theorem homeRequest (n : Nat) (peer : BitVec 8) : Statement (.homeRequest n peer) := fun _ h => nomatch h
theorem homeCorrection (n : Nat) : Statement (.homeCorrection n) := fun _ h => nomatch h
theorem localMemoryRequest (n : Nat) : Statement (.localMemoryRequest n) := fun _ h => nomatch h
theorem guardNote (n : Nat) : Statement (.guardNote n) := fun _ h => nomatch h
theorem commitComplete (g : Nat) : Statement (.commitComplete g) := fun _ h => nomatch h
theorem commitRefusal (g : Nat) : Statement (.commitRefusal g) := fun _ h => nomatch h
theorem atomicAtNse (n : Nat) (peer : BitVec 8) : Statement (.atomicAtNse n peer) := fun _ h => nomatch h
theorem atomicReturn (g : Nat) : Statement (.atomicReturn g) := fun _ h => nomatch h
theorem tokenRecall (n : Nat) : Statement (.tokenRecall n) := fun _ h => nomatch h
theorem chainStep (n : Nat) (peer : BitVec 8) : Statement (.chainStep n peer) := fun _ h => nomatch h
theorem chainReturn (n : Nat) : Statement (.chainReturn n) := fun _ h => nomatch h
theorem nameOpAtSlice (n : Nat) : Statement (.nameOpAtSlice n) := fun _ h => nomatch h
theorem nameOpReturn (g : Nat) : Statement (.nameOpReturn g) := fun _ h => nomatch h
theorem shootDown (n : Nat) : Statement (.shootDown n) := fun _ h => nomatch h
theorem shootDownAck (n : Nat) : Statement (.shootDownAck n) := fun _ h => nomatch h
theorem serialBlockReserve (ok : Bool) : Statement (.serialBlockReserve ok) := fun _ h => nomatch h
theorem park (n : Nat) : Statement (.park n) := fun _ h => nomatch h
theorem spawnAppend (n : Nat) : Statement (.spawnAppend n) := fun _ h => nomatch h
theorem sendDelivery (n : Nat) : Statement (.sendDelivery n) := fun _ h => nomatch h
theorem sendStatus (g : Nat) : Statement (.sendStatus g) := fun _ h => nomatch h
theorem ksyncComplete (g : Nat) : Statement (.ksyncComplete g) := fun _ h => nomatch h
theorem icinvComplete (g : Nat) : Statement (.icinvComplete g) := fun _ h => nomatch h
theorem dispatch (g : Nat) : Statement (.dispatch g) := fun _ h => nomatch h
theorem holdLimit (g : Nat) : Statement (.holdLimit g) := fun _ h => nomatch h
theorem rxring (g : Nat) (w : Nat) (v : BitVec 64) : Statement (.rxring g w v) := fun _ h => nomatch h
theorem grreplay (g : Nat) (v : BitVec 64) : Statement (.grreplay g v) := fun _ h => nomatch h
theorem deadlockTrap : Statement .deadlockTrap := fun _ h => nomatch h
theorem tcinv (die : Nat) (v : BitVec 64) : Statement (.tcinv die v) := fun _ h => nomatch h
theorem rhreqHandOver (die : Nat) (v : BitVec 64) : Statement (.rhreqHandOver die v) := fun _ h => nomatch h
theorem rhreqRetire (die : Nat) (v : BitVec 64) : Statement (.rhreqRetire die v) := fun _ h => nomatch h
theorem migreq (die : Nat) (v : BitVec 64) : Statement (.migreq die v) := fun _ h => nomatch h
theorem smpctl (die : Nat) (v : BitVec 64) : Statement (.smpctl die v) := fun _ h => nomatch h
theorem systab (die : Nat) (v : BitVec 64) : Statement (.systab die v) := fun _ h => nomatch h
theorem wsrightsRead (die : Nat) (v : BitVec 64) : Statement (.wsrightsRead die v) := fun _ h => nomatch h
theorem wsrightsLoad (die : Nat) (v : BitVec 64) : Statement (.wsrightsLoad die v) := fun _ h => nomatch h
theorem wsRefreshStart (die : Nat) : Statement (.wsRefreshStart die) := fun _ h => nomatch h
theorem wsRefreshEnd (die : Nat) : Statement (.wsRefreshEnd die) := fun _ h => nomatch h
theorem resume (g : Nat) : Statement (.resume g) := fun _ h => nomatch h
theorem restart (g : Nat) : Statement (.restart g) := fun _ h => nomatch h
theorem kill (g : Nat) : Statement (.kill g) := fun _ h => nomatch h
theorem preEmpt (g : Nat) : Statement (.preEmpt g) := fun _ h => nomatch h
theorem step (g : Nat) : Statement (.step g) := fun _ h => nomatch h
theorem slotView (g : Nat) (off : Nat) (v : BitVec 64) (n : Nat) : Statement (.slotView g off v n) := fun _ h => nomatch h
theorem dhaltSet (die : Nat) : Statement (.dhaltSet die) := fun _ h => nomatch h
theorem dhaltClear (die : Nat) : Statement (.dhaltClear die) := fun _ h => nomatch h
theorem ctxkill (v : BitVec 64) : Statement (.ctxkill v) := fun _ h => nomatch h
theorem ctxkillComplete : Statement .ctxkillComplete := fun _ h => nomatch h
theorem trstatClear (c : Nat) : Statement (.trstatClear c) := fun _ h => nomatch h
theorem hckpt (port : Nat) (v : BitVec 64) : Statement (.hckpt port v) := fun _ h => nomatch h
theorem checkpointStart (die : Nat) : Statement (.checkpointStart die) := fun _ h => nomatch h
theorem checkpointMarker (die : Nat) (input : Nat) : Statement (.checkpointMarker die input) := fun _ h => nomatch h
theorem checkpointStreamDone (ok : Bool) : Statement (.checkpointStreamDone ok) := fun _ h => nomatch h
theorem recovery (round : Nat) : Statement (.recovery round) := fun _ h => nomatch h
theorem railMonitorWindow (die : Nat) : Statement (.railMonitorWindow die) := fun _ h => nomatch h
theorem rmfreeze (die : Nat) : Statement (.rmfreeze die) := fun _ h => nomatch h
theorem linkRetrain (l : Nat) (ok : Bool) : Statement (.linkRetrain l ok) := fun _ h => nomatch h
theorem linkFlit (l : Nat) (good : Bool) : Statement (.linkFlit l good) := fun _ h => nomatch h
theorem governorWindow (die : Nat) : Statement (.governorWindow die) := fun _ h => nomatch h
theorem throttleEntry (die : Nat) : Statement (.throttleEntry die) := fun _ h => nomatch h
theorem throttleExit (die : Nat) : Statement (.throttleExit die) := fun _ h => nomatch h
theorem gvexempt (die : Nat) (v : BitVec 64) : Statement (.gvexempt die v) := fun _ h => nomatch h
theorem registerWrite (addr : BitVec 64) (v : BitVec 64) : Statement (.registerWrite addr v) := fun _ h => nomatch h
theorem hostAperture (port : Nat) (off : Nat) (size : Nat) (wr : Bool) (v : BitVec 4096) : Statement (.hostAperture port off size wr v) := fun _ h => nomatch h
theorem hqpush (w : Nat) (off : Nat) (v : BitVec 64) : Statement (.hqpush w off v) := fun _ h => nomatch h
theorem hlcreq (port : Nat) (v : BitVec 64) : Statement (.hlcreq port v) := fun _ h => nomatch h
theorem hattest (port : Nat) (v : BitVec 64) : Statement (.hattest port v) := fun _ h => nomatch h
theorem hlcgo (port : Nat) (v : BitVec 64) : Statement (.hlcgo port v) := fun _ h => nomatch h
theorem loadImage (port : Nat) (ctx : BitVec 16) (img : BitVec 64) (len : Nat) : Statement (.loadImage port ctx img len) := fun _ h => nomatch h
theorem moduleReset : Statement .moduleReset := fun _ h => nomatch h
theorem linkLost (l : Nat) : Statement (.linkLost l) := fun _ h => nomatch h
theorem powerLoss : Statement .powerLoss := fun _ h => nomatch h
theorem checkpointRangeStreamed (r : Nat) : Statement (.checkpointRangeStreamed r) := fun _ h => nomatch h

end Laws.Coded
end Sys2Proof
end

