-- ==== Sys2Proof/Laws/Vector.lean ====
section
/-! SUPPORT. The laws of vector registers: an element of a packed register, what a governing mask leaves, and what a word does on a core
with its feature bits. -/
namespace Sys2Proof.Machine

theorem packN_lt (w : Nat) (f : Nat → Nat) : ∀ n, packN w f n < 2 ^ (w * n)
  | 0 => by simp [packN]
  | n + 1 => by
    have h1 := packN_lt w f n
    have h2 : f n % 2 ^ w < 2 ^ w := Nat.mod_lt _ (Nat.two_pow_pos w)
    have h3 : 2 ^ (w * (n + 1)) = 2 ^ w * 2 ^ (w * n) := by rw [Nat.mul_succ, Nat.pow_add, Nat.mul_comm]
    have h4 : (f n % 2 ^ w + 1) * 2 ^ (w * n) ≤ 2 ^ w * 2 ^ (w * n) := Nat.mul_le_mul_right _ h2
    rw [packN, h3]
    rw [Nat.add_mul, Nat.one_mul] at h4
    omega

theorem fld_packN (w : Nat) (f : Nat → Nat) {k : Nat} : ∀ n, k < n → fld (packN w f n) (w * k) w = f k % 2 ^ w
  | 0, h => by omega
  | n + 1, h => by
    rw [packN]
    by_cases hk : k = n
    · subst hk
      unfold fld
      rw [Nat.add_mul_div_right _ _ (Nat.two_pow_pos _), Nat.div_eq_of_lt (packN_lt w f k), Nat.zero_add, Nat.mod_mod]
    · have hlt : k < n := by omega
      have ih := fld_packN w f n hlt
      obtain ⟨j, rfl⟩ : ∃ j, n = k + 1 + j := ⟨n - k - 1, by omega⟩
      rw [← ih]
      unfold fld
      have e : 2 ^ (w * (k + 1 + j)) = 2 ^ (w * j) * 2 ^ w * 2 ^ (w * k) := by rw [← Nat.pow_add, ← Nat.pow_add]; congr 1; ring
      rw [e, ← Nat.mul_assoc, Nat.add_mul_div_right _ _ (Nat.two_pow_pos _), ← Nat.mul_assoc, Nat.add_mul_mod_self_right]

/-- An element of a packed register. -/
theorem elem_pack {w k : Nat} (f : Nat → Nat) (h : k < 256 / w) : elem (pack w f) w k = f k % 2 ^ w := by
  have hlt : packN w f (256 / w) < 2 ^ 256 := by
    refine Nat.lt_of_lt_of_le (packN_lt w f _) (Nat.pow_le_pow_right (by omega) ?_)
    exact Nat.mul_div_le 256 w
  unfold elem pack
  rw [BitVec.toNat_ofNat, Nat.mod_eq_of_lt hlt, fld_packN w f _ h]

theorem elem_lt (v : W256) (w k : Nat) : elem v w k < 2 ^ w := Nat.mod_lt _ (Nat.two_pow_pos w)

/-- An element under a governing mask (R21, R196). -/
theorem elem_govern {w k : Nat} (mask : W32) (old : W256) (f : Nat → Nat) (h : k < 256 / w) :
    elem (govern w mask old f) w k = if bit mask.toNat k then f k % 2 ^ w else elem old w k := by
  unfold govern
  rw [elem_pack _ h]
  split
  · rfl
  · exact Nat.mod_eq_of_lt (elem_lt old w k)

theorem elem_twisted (v : W256) (t : BitVec 12) {k : Nat} (h : k < 8) : elem (twisted v t) 32 k = elem v 32 (twistIdx t k) := by
  unfold twisted
  rw [elem_pack _ (by simpa using h), Nat.mod_eq_of_lt (elem_lt _ _ _)]

/-- A word whose feature bits its core has (R26). -/
theorem State.needs_has (s : State) (bits : Nat) (k : State → Ans) (h : maskHas (s.coreFeat (coreOf s.cur)) bits = true) : s.needs bits k = k s := by
  simp [State.needs, h]

theorem etWidth_cases (et : Et) : etWidth et = 8 ∨ etWidth et = 16 ∨ etWidth et = 32 := by cases et <;> simp [etWidth]

end Sys2Proof.Machine
end

