-- ==== Sys2Proof/Tests/Slice0.lean ====
section
/-! SUPPORT. Small tests: words written out from the spec's encodings, ill-formed words refused, single steps, and states that meet the
hypotheses of the statements. -/
namespace Sys2Proof.Tests
set_option Elab.async false
open Sys2Proof Sys2Proof.Machine

/-! Words of the spec, each family at least once -/

/-- SYS, ALU, immediates and LI (R180, R182, R188, R179). -/
theorem test_decode_integer : decode 0x052A5800 = .ok (.add 9 10 11) ∧ decode 0x0508400A = .ok (.mul 8 8 8) ∧ decode 0x09290004 = .ok (.addi 9 9 4) ∧
    decode 0x2A00000C = .ok (.li 16 12) ∧ decode 0x00000008 = .ok .endTask ∧ decode 0x01203804 = .ok (.rdk 9 7) ∧
    decode 0x00092805 = .ok (.wrk 9 5) ∧ decode 0 = .ok .nop := by decide
/-- Branches, calls, streams (R175, R176, R177, R184, R186). -/
theorem test_decode_control : decode 0xA520FFFE = .ok (.loop 9 0xFFFE) ∧ decode 0x9D000003 = .ok (.call 2 3) ∧ decode 0xA0000002 = .ok .ret ∧
    decode 0xA0090001 = .ok (.jalr 9) ∧ decode 0xAD200000 = .ok (.sread 9 0) ∧ decode 0xAC020003 = .ok (.sdrop 2) := by decide
/-- The V group and the VX groups (R197, R201, R202, R203, R204, R208, R211). -/
theorem test_decode_vector : decode 0xF448C000 = .ok (.vfma 1 2 3 0 0) ∧ decode 0xE4846010 = .ok (.vmin 2 1 1 0x804 0) ∧
    decode 0xF90C8000 = .ok (.vsel 4 3 2 0 0) ∧ decode 0x3048E401 = .ok (.vfdiv 1 2 3 .fp16 2) ∧ decode 0x35509A00 = .ok (.vcmp 5 4 2 .u32 1) ∧
    decode 0x34C41005 = .ok (.mpopc 3 1 .i32) ∧ decode 0x38857200 = .ok (.vcvt 2 1 .bf16 .fp32 1) ∧ decode 0x3C401800 = .ok (.vld 1 0 .u32 0) ∧
    decode 0x3CC41006 = .ok (.vsread 3 1) := by decide
/-- Loads, stores, releases, atomics (R88, R94, R98, R292). -/
theorem test_decode_memory : decode 0x592C0008 = .ok (.ldd 9 12 8) ∧ decode 0x6D2A0000 = .ok (.std 9 10 0) ∧
    decode 0x714902B1 = .ok (.stl 10 9 .cluster 3) ∧ decode 0x71680470 = .ok (.lda 11 8 .device 3) ∧
    decode 0x714D74B2 = .ok (.fst 10 13 14 .device .release 3) ∧ decode 0x752C6CF0 = .ok (.amoadd 9 12 13 .device .acqRel 3) := by decide
/-- Names, waits, barriers, tasks, commands, chains, peers (R101, R109, R262, R286, R294, R300, R27). -/
theorem test_decode_names : decode 0x792C6800 = .ok (.nnew 9 12 13 .none .relaxed) ∧ decode 0x792C0491 = .ok (.nkill 9 12 .device .release 1) ∧
    decode 0x790C0444 = .ok (.nwait 8 12 .device) ∧ decode 0x7D2C6C70 = .ok (.waita 9 12 13 .device) ∧
    decode 0x7D2C0002 = .ok (.bara 9 12) ∧ decode 0xA92A5800 = .ok (.spawn 9 10 11) ∧ decode 0xA92A0002 = .ok (.recv 9 10) ∧
    decode 0xB180_0000 = .ok (.chld 6) ∧ decode 0xB92C0540 = .ok (.tokacq 9 12) := by decide
/-- Words that no instruction has: a reserved twist, a scope without an order, a reserved major (R20, R24, R286). -/
theorem test_decode_refuses : (∃ e, decode 0xFFFFFFFF = .error e) ∧ (∃ e, decode 0x7B82E602 = .error e) ∧ ∃ e, decode 0x5C000000 = .error e :=
  ⟨⟨_, rfl⟩, ⟨_, rfl⟩, ⟨_, rfl⟩⟩

/-! An ill-formed term for each check -/

theorem test_wf_twist : (Instr.vadd 1 2 3 0xFFF 0).wfCheck = some .twist := by decide
theorem test_wf_fsz : (Instr.call 1 0).wfCheck = some .fsz := by decide
theorem test_wf_commandPair : (Instr.cmdq 15 .copy 1 0).wfCheck = some .commandPair := by decide
theorem test_wf_et : (Instr.vaddt 1 2 3 .fp32 0).wfCheck = some .et := by decide
theorem test_wf_cond : (Instr.vcmp 1 2 7 .i8 0).wfCheck = some .cond := by decide
theorem test_wf_scope : (Instr.lda 1 2 .none 3).wfCheck = some .scope := by decide
theorem test_wf_order : (Instr.fst 1 2 3 .device .acquire 3).wfCheck = some .order := by decide
theorem test_wf_status : (Instr.nnew 0 2 3 .none .relaxed).wfCheck = some .status := by decide
theorem test_wf_parkReg : (Instr.nwait 12 2 .device).wfCheck = some .parkReg := by decide

/-! Signatures (R57): the blocks B0, B1 and B2 of the procedure fill -/

theorem test_signature_folds : depItem 0x292A0040 = 0x0A09FFFF ∧ foldItem (foldItem (foldItem 0 0x80000000) 0x0A0AFFFF) 0x0A09FFFF = 0x4B56021E := by
  decide

/-! Steps -/

/-- The word placed where the next step fetches it. -/
def at_ (w : Nat) : State := State.reset.withFetchWord 32 w
/-- What slot 0 holds after one step. -/
def after (s : State) : Option Slot := match step s with | .next t => some (t.slot 0) | _ => none

theorem test_step_li : (after (at_ 0x2A00000C)).map (fun x => (x.s 16, x.pc)) = some (12, 4) := by decide +kernel
theorem test_step_addi_wraps : (after (at_ 0x0929FFFF)).map (fun x => x.s 9) = some 0xFFFFFFFFFFFFFFFF := by decide +kernel
theorem test_step_s0_discards : (after (at_ 0x08000004)).map (fun x => (x.s 0, x.pc)) = some (0, 4) := by decide +kernel
theorem test_step_illegal : (after (at_ 0xFFFFFFFF)).map (fun x => (x.state, x.lastCause, x.pc)) = some (.frozen, 1, 0) := by decide +kernel
theorem test_step_trap : (after (at_ 0x00090001)).map (fun x => (x.state, x.lastCause, x.pc, x.rstpc)) = some (.frozen, 0x0F, 0, 4) := by decide +kernel
theorem test_step_brk : (after (at_ 0x00000002)).map (fun x => (x.state, x.lastCause)) = some (.frozen, 0x10) := by decide +kernel
theorem test_step_loop_zero : (after (at_ 0xA520FFFE)).map (fun x => (x.s 9, x.pc)) = some (0xFFFFFFFFFFFFFFFF, 0xFFFFFFFFFFF8) := by decide +kernel
theorem test_step_divu_zero : (after (at_ 0x0529580E)).map (fun x => x.s 9) = some 0xFFFFFFFFFFFFFFFF := by decide +kernel
theorem test_step_qidle : (after (at_ 0xAD200000)).map (fun x => (x.state, x.lastCause)) = some (.frozen, 8) := by decide +kernel
theorem test_step_end : (after (at_ 8)).map (fun x => x.state) = some .empty := by decide +kernel


/-! States that meet the hypotheses of the statements, each clause at an edge of its range -/

open Sys2Proof.Claims

/-- What a result that is performed satisfies. -/
def okp {α : Type} (r : Got α) (p : α → Bool) : Bool := match r with
  | .ok a => p a
  | _ => false
theorem okp_ok {α : Type} {r : Got α} {p : α → Bool} (h : okp r p = true) : ∃ a, r = .ok a ∧ p a = true := by
  cases r <;> simp_all [okp]

def okm {α : Type} (r : Met α) (p : α → Bool) : Bool := match r with
  | .ok a => p a
  | _ => false
theorem okm_ok {α : Type} {r : Met α} {p : α → Bool} (h : okm r p = true) : ∃ a, r = .ok a ∧ p a = true := by
  cases r <;> simp_all [okm]

theorem okm_bad {α : Type} {r : Met α} (h : (match r with | .bad _ => true | _ => false) = true) : ∃ f, r = .bad f := by
  cases r <;> simp_all

/-- Slot 0 of the module after reset runs, with these scalar registers. -/
def here (l : List (BitVec 5 × W64)) : State := State.reset.modMe fun x => l.foldl (fun x p => x.setS p.1 p.2) { x with state := .running }
/-- The same with something of the slot changed. -/
def hereWith (l : List (BitVec 5 × W64)) (f : Slot → Slot) : State := (here l).modMe f

/-! Words and steps, integer words, control flow -/

theorem witness_encode : encode (.call 6 0x7FFFFF) = some 0x9F7FFFFF ∧ (Instr.call 6 0x7FFFFF).wfCheck = none ∧ decode 0x9F7FFFFF = .ok (.call 6 0x7FFFFF) := by
  decide

/-- A module whose next turn is slot 0's, with a word in the instruction cache, or begun. -/
def turning (w : Nat) (begun : Bool) : State := (at_ w).modMe fun x => { x with begun := begun, word := BitVec.ofNat 32 w }

theorem witness_freshWordRuns : ∃ u v, (turning 0 false).turn.1.act = .slot 0 ∧
    ({ (turning 0 false).onTurn with cur := 0 } : State).canIssue 0 = true ∧
    (({ (turning 0 false).onTurn with cur := 0 } : State).slot 0).state = .running ∧
    (({ (turning 0 false).onTurn with cur := 0 } : State).slot 0).restoring = false ∧
    (({ (turning 0 false).onTurn with cur := 0 } : State).slot 0).begun = false ∧
    ({ (turning 0 false).onTurn with cur := 0 } : State).fetch 0 = .ok (u, 0) ∧ u.beginWord 0 0 = .ok v ∧ v.cur = 0 ∧ decode 0 = .ok .nop ∧
    v.awaits 0 .nop = false := by
  have h : okp (({ (turning 0 false).onTurn with cur := 0 } : State).fetch 0) (fun p => p.2 == 0 &&
      okm (p.1.beginWord 0 0) fun v => v.cur == 0 && ! v.awaits 0 .nop) = true := by decide +kernel
  obtain ⟨⟨u, w⟩, h1, h2⟩ := okp_ok h
  simp only [Bool.and_eq_true, beq_iff_eq] at h2
  obtain ⟨rfl, h3⟩ := h2
  obtain ⟨v, h4, h5⟩ := okm_ok h3
  simp only [Bool.and_eq_true, beq_iff_eq, Bool.not_eq_true'] at h5
  exact ⟨u, v, by decide +kernel, by decide +kernel, by decide +kernel, by decide +kernel, by decide +kernel, h1, h4, h5.1, by decide, h5.2⟩

theorem witness_begunWordRuns : (turning 0 true).turn.1.act = .slot 0 ∧ ({ (turning 0 true).onTurn with cur := 0 } : State).canIssue 0 = true ∧
    (({ (turning 0 true).onTurn with cur := 0 } : State).slot 0).state = .running ∧
    (({ (turning 0 true).onTurn with cur := 0 } : State).slot 0).restoring = false ∧
    (({ (turning 0 true).onTurn with cur := 0 } : State).slot 0).begun = true ∧
    decode (({ (turning 0 true).onTurn with cur := 0 } : State).slot 0).word = .ok .nop ∧
    ({ (turning 0 true).onTurn with cur := 0 } : State).awaits 0 .nop = false := by decide +kernel

theorem witness_undecodable : (∃ e, decode 0x5C000000 = .error e) ∧ State.reset.cur < Config.slots := ⟨⟨_, rfl⟩, by decide⟩

theorem witness_jumpRegister : (((here [(9, 0xFFFFFFFFFFFC)]).me.s 9).toNat % 4 = 0 ∧ ((here [(9, 0xFFFFFFFFFFFC)]).me.s 9).toNat < 2 ^ 48) ∧
    ((here [(9, 1)]).me.s 9).toNat % 4 ≠ 0 ∧
    (((here [(9, 0x1000000000000)]).me.s 9).toNat % 4 = 0 ∧ 2 ^ 48 ≤ ((here [(9, 0x1000000000000)]).me.s 9).toNat) := by decide +kernel

theorem quiet_here : Quiet (here []) := by unfold Quiet; decide +kernel

/-- The window file as full as a call of 24 registers allows; a link of each size. -/
theorem witness_calls : Quiet (hereWith [] fun x => { x with res := 80 }) ∧ 2 ≤ (6 : BitVec 3).toNat ∧ (6 : BitVec 3).toNat ≤ 6 ∧
    (hereWith [] fun x => { x with res := 80 }).me.res.toNat + 4 * (6 : BitVec 3).toNat ≤ 104 ∧
    Quiet (here [(9, 0x2000000000004)]) ∧ (here [(9, 0x2000000000004)]).me.res.toNat + 4 * (2 : BitVec 3).toNat ≤ 104 ∧
    (here [(9, 0x2000000000004)]).me.s 9 = w64 ((4 : Pc).toNat + (2 : BitVec 3).toNat * 2 ^ 48) ∧ (4 : Pc).toNat % 4 = 0 := by
  unfold Quiet; decide +kernel

theorem witness_returns : Quiet (hereWith [(31, 0x6000000000008)] fun x => { x with res := 24 }) ∧
    4 * 6 ≤ (hereWith [(31, 0x6000000000008)] fun x => { x with res := 24 }).me.res.toNat ∧
    (hereWith [(31, 0x6000000000008)] fun x => { x with res := 24 }).me.s 31 = w64 ((8 : Pc).toNat + 6 * 2 ^ 48) ∧ (8 : Pc).toNat % 4 = 0 := by
  unfold Quiet; decide +kernel

/-- A call whose callee's window does not fit, with a frame stack; a return to a frame that has been spilled. -/
def deep (res fsp : Nat) (l : List (BitVec 5 × W64)) : State :=
  hereWith l fun x => { x with res := BitVec.ofNat 7 res, fsp := w64 fsp, fslim := 0x2000 }

theorem witness_spillingCalls : Quiet (deep 104 0x1000 []) ∧ (deep 104 0x1000 []).me.state = .running ∧
    (deep 104 0x1000 []).me.res.toNat + 4 * (6 : BitVec 3).toNat = 104 + 24 ∧
    (deep 104 0x1000 []).me.fsp ≠ 0 ∧ (deep 104 0x1000 []).me.fsp.toNat % 8 = 0 ∧
    (deep 104 0x1000 []).me.fsp.toNat + 8 * 24 ≤ (deep 104 0x1000 []).me.fslim.toNat ∧
    OwnBytes (deep 104 0x1000 []) (deep 104 0x1000 []).me.fsp (8 * 24) ∧ (deep 104 0x1000 []).streaming = false ∧
    CallOf (deep 104 0x1000 []) (.call 6 1) 6 ((deep 104 0x1000 []).me.pc + 4) := by
  refine ⟨?_, ?_, ?_, ?_, ?_, ?_, ?_, ?_, .inl ⟨1, rfl, by decide +kernel⟩⟩ <;> try unfold Quiet
  all_goals try unfold OwnBytes
  all_goals decide +kernel

theorem witness_fillingReturns : Quiet (deep 4 0x1000 [(31, 0x6000000000008)]) ∧
    (deep 4 0x1000 [(31, 0x6000000000008)]).me.s 31 = w64 ((8 : Pc).toNat + 6 * 2 ^ 48) ∧
    (deep 4 0x1000 [(31, 0x6000000000008)]).me.res.toNat + 20 = 4 * 6 ∧ (deep 4 0x1000 [(31, 0x6000000000008)]).me.fsp ≠ 0 ∧
    OwnBytes (deep 4 0x1000 [(31, 0x6000000000008)]) ((deep 4 0x1000 [(31, 0x6000000000008)]).me.fsp - w64 (8 * 20)) (8 * 20) ∧
    ∀ j, j < 20 → (deep 4 0x1000 [(31, 0x6000000000008)]).poisoned
      (ownKey (deep 4 0x1000 [(31, 0x6000000000008)]) ((deep 4 0x1000 [(31, 0x6000000000008)]).me.fsp - w64 (8 * 20)) + 8 * j) 8 = false := by
  unfold Quiet OwnBytes; decide +kernel

/-- No frame stack, a full one, a misaligned one; a link and a pointer that are not well formed, and misaligned ones. -/
theorem witness_frameFaults : Quiet (deep 104 0 []) ∧ (deep 104 0 []).me.fsp = 0 ∧
    (Quiet (deep 104 0x2000 []) ∧ (deep 104 0x2000 []).me.fslim.toNat < (deep 104 0x2000 []).me.fsp.toNat + 8 * 1) ∧
    (Quiet (deep 104 0x1004 []) ∧ (deep 104 0x1004 []).me.fsp.toNat + 8 * 24 ≤ (deep 104 0x1004 []).me.fslim.toNat ∧
      (deep 104 0x1004 []).me.fsp.toNat % 8 ≠ 0) ∧
    (Quiet (here [(31, 0x8000000000000)]) ∧ 2 ^ 51 ≤ ((here [(31, 0x8000000000000)]).me.s 31).toNat) ∧
    (Quiet (here [(9, 0x1FFFFFFFFFFFF)]) ∧ ((here [(9, 0x1FFFFFFFFFFFF)]).me.s 9).toNat / 2 ^ 48 < 2) ∧
    (Quiet (here [(31, 0x2000000000002)]) ∧ 2 ≤ ((here [(31, 0x2000000000002)]).me.s 31).toNat / 2 ^ 48 ∧
      ((here [(31, 0x2000000000002)]).me.s 31).toNat % 4 ≠ 0) ∧
    (Quiet (deep 4 0 [(31, 0x6000000000008)]) ∧ (deep 4 0 [(31, 0x6000000000008)]).me.res.toNat < 4 * 6 ∧
      (deep 4 0 [(31, 0x6000000000008)]).me.fsp = 0) ∧
    (Quiet (deep 4 0x1004 [(31, 0x6000000000008)]) ∧ (deep 4 0x1004 [(31, 0x6000000000008)]).me.fsp.toNat % 8 ≠ 0) := by
  unfold Quiet; decide +kernel

/-! The SYS group, faults and streams -/

theorem witness_controlWritten : (here [(9, 256)]).me.s 9 = 256 ∧ ((here [(9, 0x80000000)]).me.s 9).toNat ≤ 2 ^ 31 ∧
    ((here [(9, 0x4000000000000020)]).me.s 9).toNat % 32 = 0 ∧ ((here [(9, 0x4000000000000020)]).me.s 9).toNat / 2 ^ 60 ∈ [0, 1, 2, 4] ∧
    (here []).me.s 9 = 0 ∧ ¬ (256 ≤ ((here [(9, 255)]).me.s 9).toNat) ∧ ((here [(9, 0x3000000000000000)]).me.s 9).toNat / 2 ^ 60 ∉ [0, 1, 2, 4] ∧
    (10 : BitVec 5) ∉ ([5, 8, 9] : List (BitVec 5)) := by decide +kernel

/-- KSYNC of a block in own local memory, and of an address of the wrong tag. -/
theorem witness_invalidationsBegin : Quiet (here [(9, 0x40)]) ∧ ((here [(9, 0x40)]).me.s 9).toNat / 2 ^ 60 ∈ [0, 1, 2, 4] ∧
    addrOk (isSup (coreOf (here [(9, 0x40)]).cur)) ((here [(9, 0x40)]).me.s 9) = true ∧ ((here [(9, 0x40)]).me.s 9).toNat % 64 = 0 ∧
    Quiet (here [(9, 0x8000000000000000)]) ∧ ((here [(9, 0x8000000000000000)]).me.s 9).toNat / 2 ^ 60 ∉ [0, 1, 2, 4] := by
  unfold Quiet; decide +kernel

theorem witness_invalidationsComplete :
    (((here []).modCluster 0 fun k => { k with icFlush := [0] }).cluster (clusterOf (coreOf 0))).icFlush.contains 0 = true ∧
    ({ here [] with ksyncs := [(0, 0x40)] } : State).ksyncs.find? (fun k => k.1 == 0) = some (0, 0x40) := by decide +kernel

/-- A stream register with four items and the last to come, one that is empty and bound, one that is empty and free. -/
def streamed (src : Option StreamSrc) (l : List W64) : State := hereWith [] fun x => x.setSt 3 { src := src, items := l, last := false, fail := false, seg := 0 }

theorem witness_streams : ((streamed (some (.chain 1)) [1, 2, 3, 4]).me.st (3 : BitVec 2).toNat).items = 1 :: [2, 3, 4] ∧
    Has (streamed (some (.chain 1)) [1, 2, 3, 4]) 1 ∧ ((streamed (some (.chain 1)) [1, 2, 3, 4]).me.st 3).src ≠ none ∧
    4 ≤ ((streamed (some (.chain 1)) [1, 2, 3, 4]).me.st 3).items.length ∧
    (((streamed (some (.chain 1)) []).me.st 3).items = [] ∧ ((streamed (some (.chain 1)) []).me.st 3).src.isSome = true) ∧
    (((streamed none []).me.st 3).items = [] ∧ ((streamed none []).me.st 3).src = none) := by
  unfold Has; decide +kernel

/-! Vector words, loads and stores -/

/-- Memory and marks of slot 0's own local memory that a load finds. -/
def holding (l : List (BitVec 5 × W64)) (k n v : Nat) : State := (here l).write k n v []

theorem witness_vectorWords : Has (here []) 1 ∧ Has (here []) 2 ∧ Has (here []) 4 ∧ Has (here []) (4 + 8) ∧ Has (here []) (2 + 8) ∧ Has (here []) (2 ||| 4) ∧
    twistOk 0 = true ∧ twistOk 0x407 = true ∧ twistOk 0x984 = true ∧ twistOk 0x408 = false ∧ Et.isFloat .u32 = false ∧ Et.isFloat .bf16 = true ∧
    condOk 6 .fp32 = true ∧ condOk 5 .u32 = true := by
  unfold Has; decide +kernel

/-- The last byte and the last 8 bytes of the program area; a word of a window. -/
theorem witness_loadsAtOnce : Clear (here [(9, 0x23FFF)]) ∧ OwnBytes (here [(9, 0x23FFF)]) 0x23FFF 1 ∧
    (here [(9, 0x23FFF)]).me.s 9 + (0 : BitVec 16).signExtend 64 = 0x23FFF ∧ (here []).poisoned (ownKey (here []) 0x23FFF) 1 = false ∧
    OwnBytes (here [(9, 0x23FF8)]) 0x23FF8 8 ∧ (0x23FF8 : W64).toNat % 8 = 0 ∧ (here []).poisoned (ownKey (here []) 0x23FF8) 8 = false ∧
    addrOk (isSup (coreOf (here []).cur)) 0x3000000000000000 = true ∧ ((here []).windowRead (coreOf (here []).cur) 0x3000000000000000 8).isSome = true ∧
    (here []).windowHurt 0x3000000000000000 8 = false := by
  unfold Clear OwnBytes ownKey; decide +kernel

/-- A global word, and another core's local memory, with nothing under way. -/
theorem witness_loadsSent : (here [(9, 0x4000000000000038)]).me.buf = [] ∧ (here []).loadsFull (here []).cur = false ∧
    (∀ e : W64, e = 0x4000000000000038 ∨ e = 0x2000000000040000 → addrOk (isSup (coreOf (here []).cur)) e = true ∧ e.toNat / 2 ^ 60 ∉ [0, 3, 15] ∧ e.toNat % 8 = 0 ∧
      (here []).peerGate (here []).cur e 0 = none ∧ (here []).out.all (fun o => o.e.line != lineOf ((here []).canon (coreOf (here []).cur) e)) = true) ∧
    (((here []).modDie 0 fun d => { d with systab := 0x1000 }).peerGate 0 0x8001000000000000 0).isSome = true := by
  refine ⟨by decide +kernel, by decide +kernel, ?_, by decide +kernel⟩
  rintro e (rfl | rfl) <;> decide +kernel

/-- Eight 32-bit elements of a global line: the mask of register 0 after VREADs of all ones. -/
def masked (l : List (BitVec 5 × W64)) (v : W32) : State := hereWith l fun x => { x with m := x.m.set 0 0 v }

theorem witness_vectorLoadsSent : Has (masked [(17, 0x4000000000000020)] 0x81) 1 ∧
    ((List.range (32 / (etWidth .u32 / 8))).filter fun k => bit ((masked [(17, 0x4000000000000020)] 0x81).me.mr (0 : BitVec 2).toNat).toNat k) = [0, 7] ∧
    (masked [(17, 0x4000000000000020)] 0x81).elemsFault ([0, 7].map fun k => (k, (masked [(17, 0x4000000000000020)] 0x81).me.s (sHi 1) + w64 (k * 4))) 4 false = none ∧
    (∀ k ∈ [0, 7], tagOf ((masked [(17, 0x4000000000000020)] 0x81).me.s (sHi 1) + w64 (k * 4)) = 4) := by
  unfold Has; decide +kernel

/-- Stores at the end of the program area, with no store under way. -/
theorem witness_ownStores : Clear (here [(9, 0x23FFC)]) ∧ (here [(9, 0x23FFC)]).mayStore (here []).cur = true ∧ OwnBytes (here [(9, 0x23FFC)]) 0x23FFC 4 ∧
    (here [(9, 0x23FFC)]).ckHold (ownKey (here [(9, 0x23FFC)]) 0x23FFC) = false ∧
    (((here []).modDie 0 fun d => { d with ckstream := true }).ckHold (ownKey (here []) 0x23FFC)) = true := by
  unfold Clear OwnBytes ownKey; decide +kernel

/-- A global store with room in the buffer; a data word and its flag that end where the other begins; a vector store. -/
theorem witness_storesBuffered : (here []).me.through = false ∧ addrOk (isSup (coreOf (here []).cur)) 0x4000000000000038 = true ∧
    (bufAdd (here []).me.buf (storeEntry ((here []).canon (coreOf (here []).cur) 0x4000000000000038) 8 1 0)).isSome = true ∧
    ((here []).canon 0 0x4000000000000038).toNat + 8 ≤ ((here []).canon 0 0x4000000000000040).toNat ∧
    (bufAdd (here []).me.buf { storeEntry ((here []).canon 0 0x4000000000000038) 8 1 0 with kind := .fst 0x4000000000000040 false .device }).isSome = true ∧
    (here []).peerGate (here []).cur 0x4000000000000038 1 = none ∧ (here []).peerGate (here []).cur 0x4000000000000040 2 = none ∧
    (masked [(17, 0x4000000000000020)] 0x81).elemsFault ([0, 7].map fun k => (k, (masked [(17, 0x4000000000000020)] 0x81).me.s (sHi 1) + w64 (k * 4))) 4 true = none ∧
    (([0, 7].foldl (fun (o : Option (List Entry)) k => o.bind fun es => bufAdd es (storeEntry (0x4000000000000020 + w64 (k * 4)) 4 k 0)) (some [])).isSome = true) := by
  decide +kernel

theorem witness_releases : Quiet (here [(9, 0x40)]) ∧ (here [(9, 0x40)]).me.state = .running ∧ addrOk (isSup (coreOf (here []).cur)) 0x40 = true ∧
    OwnBytes (here [(9, 0x40)]) 0x40 8 ∧ (here [(9, 0x40)]).visible .system (coreOf (here [(9, 0x40)]).cur) (here [(9, 0x40)]).me.obs = true ∧
    (here [(9, 0x40)]).fenceOpen (here [(9, 0x40)]).cur = true ∧ (here [(9, 0x40)]).ckHold (ownKey (here [(9, 0x40)]) 0x40) = false ∧ (here []).loading (here []).cur = false := by
  unfold Quiet OwnBytes ownKey; decide +kernel

/-- Elements 0 and 7 of a vector at the end of the program area. -/
theorem witness_ownVectors : Has (masked [(17, 0x23FE0)] 0x81) 1 ∧ Clear (masked [(17, 0x23FE0)] 0x81) ∧ (masked [(17, 0x23FE0)] 0x81).mayStore 0 = true ∧
    ∀ k, k < 8 → bit ((masked [(17, 0x23FE0)] 0x81).me.mr (0 : BitVec 2).toNat).toNat k = true →
      OwnBytes (masked [(17, 0x23FE0)] 0x81) ((masked [(17, 0x23FE0)] 0x81).me.s (sHi 1) + w64 (k * 4)) 4 ∧
      ((masked [(17, 0x23FE0)] 0x81).me.s (sHi 1) + w64 (k * 4)).toNat % 4 = 0 ∧
      (masked [(17, 0x23FE0)] 0x81).ckHold (ownKey (masked [(17, 0x23FE0)] 0x81) ((masked [(17, 0x23FE0)] 0x81).me.s (sHi 1) + w64 (k * 4))) = false ∧
      (masked [(17, 0x23FE0)] 0x81).poisoned (ownKey (masked [(17, 0x23FE0)] 0x81) ((masked [(17, 0x23FE0)] 0x81).me.s (sHi 1) + w64 (k * 4))) 4 = false := by
  unfold Has Clear OwnBytes ownKey; decide +kernel

/-- A finite value of each sign, both zeros, the infinities and NaN of a floating type, and a mode of each kind. -/
theorem witness_floats : fmtOf .fp16 ∈ [fmtOf .fp32, fmtOf .fp16, fmtOf .bf16] ∧ flVal (.fin true 3 (-1)) = some (mkRat (-3) 2) ∧
    flVal (flDec (fmtOf .fp16) 0x8000) = some 0 ∧ flVal (flDec (fmtOf .fp16) 0x7C00) = none ∧ flDec (fmtOf .fp16) 0xFC00 = .inf true ∧
    flDec (fmtOf .fp16) 0x7E00 = .nan ∧ Below (.fin true 1 0) (.fin false 1 0) ∧ 0x7C00 < 2 ^ etWidth .fp16 ∧ 3 < 4 ∧
    (∃ z, flVal (flDec (fmtOf .fp16) 0x3C00) = some z ∧ 0 < z) := by
  refine ⟨by decide, by decide +kernel, by decide +kernel, by decide +kernel, by decide +kernel, by decide +kernel, ?_, by decide, by decide, ?_⟩
  · show (mkRat _ _ : Rat) < mkRat _ _
    decide +kernel
  · exact ⟨1, by decide +kernel, by decide +kernel⟩

/-- A VLD of 32 aligned bytes of core 1's local memory, which a descriptor of the context grants. -/
def granted : State := (masked [(17, 0x2000000000040020)] 0xFF).modMe fun x => { x with descs := x.descs.set 0 0 (BitVec.ofNat 128 (0x2000000000040000 + 0x1000 * 2 ^ 64 + 15 * 2 ^ 112)) }

theorem witness_wholeVectorSent : ([0, 7].map fun k => granted.elemFault (granted.me.s (sHi 1) + w64 (k * 4)) 4 false) = [none, none] ∧
    tagOf (granted.canon (coreOf granted.cur) (granted.me.s (sHi 1))) = 2 ∧ lCore (granted.canon (coreOf granted.cur) (granted.me.s (sHi 1))) ≠ coreOf granted.cur ∧
    (granted.canon (coreOf granted.cur) (granted.me.s (sHi 1))).toNat % 32 = 0 := by decide +kernel

/-- A segment buffer of 64 entries, which no store joins; a slot in write-through mode. -/
def brim : State := hereWith [(9, 0x4000000000001000)] fun x =>
  { x with buf := (List.range 64).map fun k => storeEntry (w64 (0x4000000000000000 + 64 * k)) 8 1 0 }

theorem witness_fullSegments : brim.me.through = false ∧ addrOk (isSup (coreOf brim.cur)) (brim.me.s 9) = true ∧ (brim.me.s 9).toNat / 2 ^ 60 ∉ [0, 5] ∧
    brim.peerGate brim.cur (brim.me.s 9) 1 = none ∧ brim.me.buf.length = 64 ∧
    bufAdd brim.me.buf (storeEntry (brim.canon (coreOf brim.cur) (brim.me.s 9)) 8 0 0) = none ∧
    (hereWith [(9, 0x4000000000001000)] fun x => { x with through := true }).me.through = true := by decide +kernel

/-- A FENCE with release of a slot that has an earlier, wider one. -/
theorem witness_fences : (hereWith [] fun x => { x with fence := [⟨[7], .device, 0⟩] }).loading 0 = false ∧
    Quiet (hereWith [] fun x => { x with fence := [⟨[7], .device, 0⟩] }) ∧ scopeCode .cluster < scopeCode .device := by
  unfold Quiet; decide +kernel

/-- The last byte of a name of local memory in each of its three forms, and the own module's and another's system address. -/
theorem witness_addressesRewritten : (0 : Nat) < Config.cores ∧ (0x27FFF : W64).toNat / 2 ^ 60 = 0 ∧ (0x10000000007FFFFF : W64).toNat % 2 ^ 60 < 2 ^ 23 ∧
    ((0x8000000000000040 : W64).toNat / 2 ^ 60 = 8 ∧ (0x8000000000000040 : W64).toNat % 2 ^ 60 / 2 ^ 44 = State.reset.durable.module.toNat) ∧
    (0x8001000000000040 : W64).toNat % 2 ^ 60 / 2 ^ 44 ≠ State.reset.durable.module.toNat := by decide +kernel

/-- The last word of the program area, the hole above it, a slot page: own and of another slot, to read and to write RXRING. -/
theorem witness_localRights : tagOf 0x2000000000023FF8 = 2 ∧ (here []).localOk 0 (here []).me.descs 1 0x2000000000023FF8 8 = true ∧
    (here []).localOk 0 (here []).me.descs 0 0x2000000000024000 8 = false ∧ (here []).localOk 0 (here []).me.descs 0 0x2000000000027000 8 = true ∧
    (here []).localOk 0 (here []).me.descs 1 0x2000000000027020 8 = true ∧ (here []).localOk 0 (here []).me.descs 1 0x2000000000027028 8 = false ∧
    (here []).localOk 0 (here []).me.descs 0 0x2000000000027400 8 = false ∧
    granted.localOk 0 granted.me.descs 0 0x2000000000040000 8 = true ∧ (here []).localOk 0 (here []).me.descs 0 0x2000000000040000 8 = false := by
  decide +kernel

/-- A protection table whose set 15 names context 7, and no other set. -/
def protecting : State := (here []).modCluster 0 fun k => { k with prot := k.prot.set 0 480 0x10007 }

theorem witness_descriptorsLoaded :
    (((protecting.cluster 0).prot.get 0 (32 * 15)).getLsbD 16 = true ∧ ((protecting.cluster 0).prot.get 0 (32 * 15)).toNat % 2 ^ 16 = 7) ∧
    (∀ j, j < 15 → ((protecting.cluster 0).prot.get 0 (32 * j)).getLsbD 16 = false) ∧
    ∀ k, k < 16 → ((here []).cluster 0).prot.get 0 (32 * k) = 0 := by decide +kernel

/-- A flag in a window, one misaligned, one that meets the data; a tag 0x5 store. -/
theorem witness_orderedChecks : addrOk (isSup (coreOf (here []).cur)) 0x4000000000000038 = true ∧ (0x4000000000000038 : W64).toNat / 2 ^ 60 ≠ 5 ∧
    (0x3000000000000000 : W64).toNat / 2 ^ 60 ∉ [0, 1, 2, 4, 8] ∧ (0x4000000000000041 : W64).toNat % 8 ≠ 0 ∧
    ((here []).canon 0 0x4000000000000038).toNat < ((here []).canon 0 0x4000000000000038).toNat + 8 ∧
    (addrOk (isSup (coreOf (here []).cur)) 0x5000000000000000 = true ∧ (0x5000000000000000 : W64).toNat / 2 ^ 60 = 5) := by decide +kernel

theorem witness_ownRights : Clear (here [(9, 0x24000)]) ∧ (here [(9, 0x24000)]).amos = [] ∧ addrOk (isSup (coreOf (here []).cur)) 0x24000 = true ∧
    (∀ k, k < 2 → (here [(9, 0x24000)]).localOk 0 (here [(9, 0x24000)]).me.descs k ((here [(9, 0x24000)]).canon 0 0x24000) 8 = false) := by
  unfold Clear; decide +kernel

/-- The lowest element of a vector access passes and element 7 fails each check. -/
theorem witness_vectorChecks : Has (masked [(17, 0x23FE4)] 0x81) 1 ∧ (masked [(17, 0x23FE4)] 0x81).elemFault 0x23FE4 4 true = none ∧
    (masked [(17, 0x23FE4)] 0x81).localOk 0 (masked [(17, 0x23FE4)] 0x81).me.descs 1 ((masked [(17, 0x23FE4)] 0x81).canon 0 0x24000) 4 = false ∧
    addrOk (isSup (coreOf (here []).cur)) 0x24000 = true ∧ addrOk (isSup (coreOf (here []).cur)) 0x28000 = false ∧ (0x23FE6 : W64).toNat % 4 ≠ 0 := by
  unfold Has; decide +kernel

/-- An address of no tag, and one that is not aligned. -/
theorem witness_addressChecks : addrOk (isSup (coreOf (here []).cur)) 0x6000000000000000 = false ∧ addrOk (isSup (coreOf (here []).cur)) 0x23FFD = true ∧
    (0x23FFD : W64).toNat % 2 ≠ 0 := by decide +kernel

/-! Requests at their targets and what comes back -/

theorem pair_ok {σ ε α : Type} {r : σ × Except ε α} {p : σ → α → Bool}
    (h : (match r with | (s, .ok a) => p s a | _ => false) = true) : ∃ s a, r = (s, .ok a) ∧ p s a = true := by
  rcases r with ⟨s, _ | a⟩
  · cases h
  · exact ⟨s, a, rfl, h⟩

/-- The first 2 MiB of global memory of context 0 have their home on die 0, which holds their translation. -/
def homed (s : State) : State :=
  (s.modDie 0 fun x => { x with tc := [⟨0, 0, 2 ^ 21, 2 ^ 21, true, true, true⟩] }).modCluster 0 fun k => { k with rhcache := [⟨0, 0, 0⟩] }

/-- A store of slot 0 in its queue; a load of 8 bytes of it. -/
def anOut (a : W64) : OutEntry := ⟨1, 0, 0, 0, 0, false, false, .none, [], [], false, [], none, storeEntry a 8 5 0⟩
def aLoad (a : W64) : LoadReq := ⟨1, 1, 0, 0, 0, a, 8, 0, 0, .scalar 9 false, 0, false, .none, 0, false, none⟩

def outs (a : W64) : State := { homed (here []) with out := [anOut a] }
def loads (a : W64) : State := { homed (here []) with loads := [aLoad a] }

theorem witness_homesPerform :
    (∃ s u : State, ∃ o k, s.out.find? (fun o => o.id == 1) = some o ∧ s.outReady o = true ∧ tagOf o.e.line = 4 ∧ o.e.kind = .store ∧
      s.route ⟨1, o.cluster, o.ctx, o.home, o.e.line⟩ o.forwarded = .here ∧ s.atHome o.home o.cluster o.ctx o.e.line 64 .write false 1 = .ok (u, k)) ∧
    ∃ s u : State, ∃ l k, s.out.find? (fun o => o.id == 1) = none ∧ s.loads.find? (fun l => l.id == 1 && l.reply.isNone) = some l ∧
      s.first ⟨1, l.cluster, l.ctx, l.home, l.addr⟩ = true ∧ tagOf l.addr = 4 ∧ s.route ⟨1, l.cluster, l.ctx, l.home, l.addr⟩ l.forwarded = .here ∧
      s.atHome l.home l.cluster l.ctx l.addr l.n .read false 0 = .ok (u, k) := by
  constructor
  · obtain ⟨⟨u, k⟩, h, -⟩ := okp_ok (p := fun _ => true) (r := (outs 0x40000000001FFFF8).atHome 0 0 0 0x40000000001FFFC0 64 .write false 1) (by decide +kernel)
    exact ⟨outs 0x40000000001FFFF8, u, anOut 0x40000000001FFFF8, k, by decide +kernel, by decide +kernel, by decide +kernel, by decide +kernel, by decide +kernel, h⟩
  · obtain ⟨⟨u, k⟩, h, -⟩ := okp_ok (p := fun _ => true) (r := (loads 0x40000000001FFFF8).atHome 0 0 0 0x40000000001FFFF8 8 .read false 0) (by decide +kernel)
    exact ⟨loads 0x40000000001FFFF8, u, aLoad 0x40000000001FFFF8, k, by decide +kernel, by decide +kernel, by decide +kernel, by decide +kernel, by decide +kernel, h⟩

/-- The last word of the program area of slot 0's core, and the first word behind it; a load there. -/
theorem witness_banksPerform : (outs 0x2000000000023FF8).outReady (anOut 0x2000000000023FF8) = true ∧
    (outs 0x2000000000023FF8).ckHold (lKey (anOut 0x2000000000023FF8).e.line) = false ∧ tagOf (anOut 0x2000000000023FF8).e.line = 2 ∧
    lOff (anOut 0x2000000000023FF8).e.line < 0x27000 ∧
    (∀ a ∈ (anOut 0x2000000000023FF8).e.accs, (outs 0x2000000000023FF8).localOk 0 (here []).me.descs 1 ((anOut 0x2000000000023FF8).e.line + w64 a.1) a.2 = true ∧
      (outs 0x2000000000023FF8).pageOk ((anOut 0x2000000000023FF8).e.line + w64 a.1) a.2 ((anOut 0x2000000000023FF8).e.part a) = true) ∧
    (anOut 0x2000000000024000).e.accs.find? (fun a => ! (outs 0x2000000000024000).localOk 0 (here []).me.descs 1 ((anOut 0x2000000000024000).e.line + w64 a.1) a.2)
      = some (0, 8) ∧ (outs 0x2000000000024000).outReady (anOut 0x2000000000024000) = true ∧
    (loads 0x2000000000023FF8).loads.find? (fun l => l.id == 1 && l.reply.isNone && tagOf l.addr == 2) = some (aLoad 0x2000000000023FF8) ∧
    (loads 0x2000000000023FF8).first ⟨1, 0, 0, 0, 0x2000000000023FF8⟩ = true := by decide +kernel

/-- The weight store for LOAD; for READ with a descriptor of all of it, in the first cycles and past them. -/
def weights (cycle : Nat) (rd : Bool) : State :=
  { (loads 0x5000000000000000).modDie 0 fun x => { x with wsRead := rd } with
    cycle := cycle, slots := [(0, { (here []).me with descs := [(0, 5 * 2 ^ 60 + 2 ^ 64 * 2 ^ 29 + 3 * 2 ^ 112)] })] }
theorem witness_weightStoreAnswers : (weights 0 false).loads.find? (fun l => l.id == 1 && l.reply.isNone && tagOf l.addr == 5) = some (aLoad 0x5000000000000000) ∧
    (weights 0 false).wsReadable 0 0 ((weights 0 false).slot 0).descs 0x5000000000000000 8 = false ∧
    (weights 0 true).wsReadable 0 0 ((weights 0 true).slot 0).descs 0x5000000000000000 8 = true ∧
    (weights 29999 true).refreshing 0 0 = true ∧ (weights 29999 true).wsFree 0 0 1 = false ∧ (weights 30000 true).wsFree 0 0 1 = true := by decide +kernel

/-- A scalar load of a byte whose slot waits for it; a vector load of elements 0 and 7 that are in. -/
theorem witness_loadReturns :
    ([{ aLoad 0x4000000000000000 with n := 1, reply := some (.data 0x80), dst := .scalar 9 true }].filter fun l : LoadReq => l.grp == 1) ≠ [] ∧
    (here []).me.await = .none ∧
    (∀ l ∈ ([0, 7].map fun k => ({ aLoad 0x4000000000000000 with id := k + 1, n := 4, reply := some (.data 0x80), dst := .vector 2 k 32 } : LoadReq)),
      l.grp = 1 ∧ l.g = 0 ∧ l.dst = .vector 2 (l.id - 1) (etWidth .i32) ∧ l.id - 1 < 256 / etWidth .i32 ∧ l.n = etWidth .i32 / 8 ∧ ∃ v, l.reply = some (.data v)) ∧
    ([0, 7] : List Nat).Nodup := by
  refine ⟨by decide, by decide +kernel, ?_, by decide⟩
  simp [aLoad]; decide

/-- A load of 32 bytes as one access, its elements governed by a mask. -/
theorem witness_wholeLoad : ([{ aLoad 0x2000000000040000 with n := 32, reply := some (.data 0x80), dst := .whole 2 (etWidth .i32) 0x81 }].filter
    fun l : LoadReq => l.grp == 1) = [{ aLoad 0x2000000000040000 with n := 32, reply := some (.data 0x80), dst := .whole 2 (etWidth .i32) 0x81 }] := by decide

/-- A note to a slot that is EMPTY, that has none, and that has 255. -/
def noted (s : State) (r : Option GuardRec) : State := { s.modMe fun x => { x with guard := r } with notes := [⟨1, 0, 0x2000000000000040, 1⟩] }
theorem witness_guardNotes : (noted State.reset none).notes.find? (fun k => k.id == 1) = some ⟨1, 0, 0x2000000000000040, 1⟩ ∧ 0 < Config.slots ∧
    ((noted State.reset none).slot 0).state = .empty ∧ ((noted (here []) none).slot 0).state ≠ .empty ∧ ((noted (here []) none).slot 0).guard = none ∧
    ((noted (here []) (some ⟨8, 1, 255⟩)).slot 0).guard = some ⟨8, 1, 255⟩ := by decide +kernel
/-- Two notes of one cluster's memories: the later one waits. -/
theorem witness_guardNotesInOrder : ∃ k m : Note, k = ⟨2, 0, 0x2000000000000080, 1⟩ ∧ m ∈ [(⟨1, 0, 0x2000000000040040, 1⟩ : Note), k] ∧ m.id < 2 ∧ m.g = k.g ∧
    clusterOf (lCore m.addr) = clusterOf (lCore k.addr) := ⟨⟨2, 0, 0x2000000000000080, 1⟩, ⟨1, 0, 0x2000000000040040, 1⟩, by decide⟩

theorem witness_commitsComplete : ∀ m : CommitMode, (hereWith [] fun x => { x with mode := m }).storing 0 = false ∧
    ((hereWith [] fun x => { x with mode := m }).slot 0).mode = m := by
  intro m; cases m <;> decide +kernel

/-- A store refused with PERM, in a segment and in write-through mode. -/
def refusing (w : Bool) : State :=
  { hereWith [] fun x => { x with through := w } with out := [{ anOut 0x4000000000000000 with refused := some ⟨2, 0x4000000000000000, 0x101⟩ }] }
theorem witness_refusals : ∀ w : Bool, (refusing w).out.find? (fun o => o.g == 0 && o.refused.isSome) =
      some { anOut 0x4000000000000000 with refused := some ⟨2, 0x4000000000000000, 0x101⟩ } ∧
    ((refusing w).slot 0).state ≠ .frozen ∧ ((refusing w).slot 0).through = w := by decide +kernel

/-- A correction for a load that its home has answered. -/
theorem witness_corrections : ((loads 0x4000000000000000).modCluster 0 fun k => { k with corrections := [(1, ⟨0, 0, 5⟩)] }).clusters.findSome?
      (fun e => (e.2.corrections.find? fun c => c.1 == 1).map fun c => (e.1, c.2)) = some (0, ⟨0, 0, 5⟩) ∧
    (∀ o ∈ (loads 0x4000000000000000).out, o.id = 1 → o.forwarded = false) ∧ (∀ l ∈ (loads 0x4000000000000000).loads, l.id = 1 → l.reply = none → l.forwarded = false) ∧
    ∀ a ∈ (loads 0x4000000000000000).amos, a.id = 1 → a.reply = none → a.forwarded = false := by decide +kernel

/-! Atomics and tokens -/

/-- The last doubleword of the program area, and a global one; operands; the mask of a block. -/
theorem witness_atomicWords : AmoAddress (here [(9, 0x23FF8)]) 0x23FF8 8 ∧ AmoAddress (here []) 0x4000000000000010 16 ∧ (here []).me.through = false ∧
    (bufAdd (here []).me.buf ⟨lineOf 0x4000000000000010, 0, BitVec.ofNat 64 ((2 ^ 16 - 1) * 2 ^ inLine 0x4000000000000010), [(inLine 0x4000000000000010, 16)],
      .amo 11 4 1 2 0x2000000000023FE0, 0⟩).isSome = true ∧
    Clear (here []) ∧ Quiet (here []) ∧ OwnBytes (here []) 0x23FE0 32 ∧ (0x23FE0 : W64).toNat % 32 = 0 ∧ (here []).poisoned (ownKey (here []) 0x23FE0) 32 = false := by
  unfold AmoAddress Clear Quiet OwnBytes ownKey; decide +kernel

/-- An atomic at local memory and at its home; a buffered one; the flag of a store. -/
def anAmo (a : W64) (r : Option AmoReply) : AmoReq :=
  ⟨1, 0, 0, 0, a, 9, 3, 5, 0, 9, 0x2000000000000100, false, .acqRel, .die, 0, false, 0, [], [], r⟩
def amos (a : W64) (r : Option AmoReply) : State := { homed (hereWith [] fun x => { x with await := .reply 1 }) with amos := [anAmo a r] }
def flagged (k : EntryKind) : State := { homed (here []) with out := [{ anOut 0x4000000000000038 with half := true, e := { (anOut 0x4000000000000038).e with kind := k } }] }

theorem witness_atomicsPerformed :
    ((amos 0x2000000000023FF8 none).amos.find? (fun a => a.id == 1 && a.reply.isNone) = some (anAmo 0x2000000000023FF8 none) ∧
      (amos 0x2000000000023FF8 none).first ⟨1, 0, 0, 0, 0x2000000000023FF8⟩ = true ∧ tagOf 0x2000000000023FF8 = 2 ∧
      (amos 0x2000000000023FF8 none).localOk 0 (here []).me.descs 2 0x2000000000023FF8 8 = true ∧
      (amos 0x2000000000023FF8 none).ckHold (lKey 0x2000000000023FF8) = false ∧ (amos 0x2000000000023FF8 none).poisoned (lKey 0x2000000000023FF8) 8 = false ∧ (amos 0x2000000000023FF8 none).settled [] = true) ∧
    (∃ u k, (amos 0x40000000001FFFF8 none).first ⟨1, 0, 0, 0, 0x40000000001FFFF8⟩ = true ∧ (amos 0x40000000001FFFF8 none).route ⟨1, 0, 0, 0, 0x40000000001FFFF8⟩ false = .here ∧
      (amos 0x40000000001FFFF8 none).atHome 0 0 0 0x40000000001FFFF8 (2 ^ 3) .rmw false 2 = .ok (u, k) ∧ u.poisoned k (2 ^ 3) = false) ∧
    ∀ kind, kind = EntryKind.amo 10 2 1 0 0 ∨ kind = .fst 0x4000000000000038 false .device → ∃ u k,
      (flagged kind).amos.find? (fun a => a.id == 1 && a.reply.isNone) = none ∧ (((flagged kind).out.find? (fun o => o.id == 1 && o.refused.isNone)).map fun o => o.half) = some true ∧
      (flagged kind).first ⟨1, 0, 0, 0, 0x4000000000000038⟩ = true ∧ (flagged kind).route ⟨1, 0, 0, 0, 0x4000000000000038⟩ false = .here ∧
      (flagged kind).atHome 0 0 0 0x4000000000000038 (2 ^ 3) .rmw false 2 = .ok (u, k) ∧ u.poisoned k (2 ^ 3) = false := by
  refine ⟨by decide +kernel, ?_, ?_⟩
  · obtain ⟨⟨u, k⟩, h, h'⟩ := okp_ok (p := fun p => ! p.1.poisoned p.2 (2 ^ 3)) (r := (amos 0x40000000001FFFF8 none).atHome 0 0 0 0x40000000001FFFF8 (2 ^ 3) .rmw false 2)
      (by decide +kernel)
    exact ⟨u, k, by decide +kernel, by decide +kernel, h, by simpa using h'⟩
  · have h1 := okp_ok (p := fun p => ! p.1.poisoned p.2 (2 ^ 3)) (r := (flagged (.amo 10 2 1 0 0)).atHome 0 0 0 0x4000000000000038 (2 ^ 3) .rmw false 2) (by decide +kernel)
    have h2 := okp_ok (p := fun p => ! p.1.poisoned p.2 (2 ^ 3)) (r := (flagged (.fst 0x4000000000000038 false .device)).atHome 0 0 0 0x4000000000000038 (2 ^ 3) .rmw false 2)
      (by decide +kernel)
    rintro kind (rfl | rfl)
    · obtain ⟨⟨u, k⟩, h, h'⟩ := h1
      exact ⟨u, k, by decide +kernel, by decide +kernel, by decide +kernel, by decide +kernel, h, by simpa using h'⟩
    · obtain ⟨⟨u, k⟩, h, h'⟩ := h2
      exact ⟨u, k, by decide +kernel, by decide +kernel, by decide +kernel, by decide +kernel, h, by simpa using h'⟩

/-- AMOCAS128, and NCAS with its check, at local memory, their visible releases; a buffered AMOCAS128 with its block in slot 0's core. -/
theorem witness_comparesPerformed : ((amos 0x2000000000023FE0 none).visible .die 0 [] = true) ∧
    (∀ f, f = 11 ∨ f = 12 → ({ amos 0x2000000000023FE0 none with amos := [{ anAmo 0x2000000000023FE0 none with f := f, size := 4, check := true, b := 3 }] } : State).amos.find?
      (fun a => a.id == 1 && a.reply.isNone) = some { anAmo 0x2000000000023FE0 none with f := f, size := 4, check := true, b := 3 }) ∧
    (amos 0x2000000000023FE0 none).localOk 0 (here []).me.descs 2 0x2000000000023FE0 16 = true ∧
    (amos 0x2000000000023FE0 none).poisoned (lKey 0x2000000000023FE0) 16 = false ∧
    (flagged (.amo 11 4 1 0 0x2000000000000100)).releasable { anOut 0x4000000000000038 with e := { (anOut 0x4000000000000038).e with kind := .amo 11 4 1 0 0x2000000000000100 } } = true ∧
    lOff 0x2000000000000100 < 0x27000 ∧ (flagged (.amo 11 4 1 0 0x2000000000000100)).ckHold (lKey 0x2000000000000100) = false := by
  refine ⟨by decide +kernel, ?_, by decide +kernel, by decide +kernel, by decide +kernel, by decide, by decide +kernel⟩
  rintro f (rfl | rfl) <;> decide +kernel

theorem witness_atomicsReturn : ((amos 0x4000000000000038 (some (.old 7 1))).amos.find? (fun a => a.g == 0 && a.reply.isSome)) =
      some (anAmo 0x4000000000000038 (some (.old 7 1))) ∧ ((amos 0x4000000000000038 none).slot 0).await = .reply (anAmo 0x4000000000000038 none).id ∧
    ((amos 0x4000000000000038 none).slot 0).state = .running ∧ lOff (anAmo 0 none).blk < 0x27000 ∧
    (amos 0x4000000000000038 none).ckHold (lKey (anAmo 0 none).blk) = false := by decide +kernel

/-- A peer, module 1, listed and reached from every die, its region bound or not; the token held, or lost. -/
def peered (l : List Binding) : State :=
  { here [(9, 0x8000100000000000)] with dies := (List.range 64).map fun d => (d, { Die.reset with modules := [1] })
                                        links := [(0, { Link.reset with up := true })], bindings := l }
theorem witness_tokens : Has (here []) 64 ∧ (0x8000100000000000 : W64).toNat / 2 ^ 60 = 8 ∧ fld 0x8000100000000000 44 16 = 1 ∧
    ¬ (fld 0x8000000000000000 44 16 ≠ (here []).durable.module.toNat) ∧ fld 0x8000100000000000 44 16 ≠ (peered []).durable.module.toNat ∧
    (∀ d, d < 64 → (peered []).reachable d (peered []).nextId 1 = true) ∧ (peered []).binding 0 1 0 = none ∧
    (∀ h, (peered [⟨0, 1, 0, h, [], []⟩]).binding 0 1 0 = some ⟨0, 1, 0, h, [], []⟩) ∧
    Quiet (peered []) ∧ (peered []).settled (peered []).me.obs = true ∧ (peered [⟨0, 1, 0, true, [], []⟩]).bindings[0]? = some ⟨0, 1, 0, true, [], []⟩ := by
  unfold Has Quiet; decide +kernel

/-! Names, waits and barriers -/

/-- A made name is well formed, and has its fields; its check code is a free value (log entry 1). -/
theorem name_fields (s : State) (cls cl : Nat) (h : s.durable.module = 0) (h1 : 1 ≤ cls) (h7 : cls ≤ 7) (hc : cl < 2048) :
    let nm := s.makeName cls 5 cl
    s.badName nm 0 = false ∧ s.badName nm cls = false ∧ nmSerial nm = 5 ∧ nmModule nm = 0 ∧ nmClass nm = cls ∧ nmCluster nm = cl := by
  intro nm
  let hi := cl % 2 ^ 11 + 5 * 2 ^ 18 + cls * 2 ^ 82 + s.durable.module.toNat * 2 ^ 88
  let c := (Config.checkCode s.durable.nameKey (BitVec.ofNat 104 hi)).toNat
  have hm : s.durable.module.toNat = 0 := by rw [h]; rfl
  have hb : c < 2 ^ 24 := (Config.checkCode s.durable.nameKey (BitVec.ofNat 104 hi)).isLt
  have hhi : hi = cl % 2 ^ 11 + 5 * 2 ^ 18 + cls * 2 ^ 82 := by simp only [hi, hm]; omega
  have hn : nm.toNat = hi * 2 ^ 24 + c := by
    show (BitVec.ofNat 128 (hi * 2 ^ 24 + c)).toNat = _
    rw [BitVec.toNat_ofNat]; apply Nat.mod_eq_of_lt; omega
  have hf : fld nm.toNat 24 104 = hi := by rw [hn]; unfold fld; omega
  have hl : fld nm.toNat 0 24 = c := by rw [hn]; unfold fld; omega
  have hcl : nmClass nm = cls := by unfold nmClass fld; omega
  have hz : fld nm.toNat 35 7 = 0 := by unfold fld; omega
  have hk : s.check hi = c := rfl
  refine ⟨?_, ?_, ?_, ?_, hcl, ?_⟩
  · simp only [State.badName, hf, hl, hk, hcl, hz]; simp; omega
  · simp only [State.badName, hf, hl, hk, hcl, hz]; simp; omega
  · unfold nmSerial fld; apply BitVec.eq_of_toNat_eq; simp [w64]; omega
  · unfold nmModule fld; omega
  · unfold nmCluster fld; omega

/-- The name of class `cls` and serial 5, of cluster 3. -/
def nm5 (cls : Nat) : W128 := State.reset.makeName cls 5 3
def base (cls : Nat) : State := (here [(9, 0x40)]).modCluster 0 fun k => { k with ncache := [⟨5, BitVec.ofNat 6 cls, 0, 3, 9⟩] }
/-- A state with a name table, memory, barriers and skeins. -/
def put (s : State) (l : List NameEntry) (m : Tab Byte) (bs : List Barrier) (ks : List Skein) : State :=
  { s with names := l, mem := m, barriers := bs, skeins := ks }
def names5 (cls : Nat) : List NameEntry := [⟨nm5 cls, BitVec.ofNat 6 cls, false, 0, 3, 9, 1⟩]
def mem5 (cls : Nat) : Tab Byte := memPut [] 0x40 16 (nm5 cls).toNat
def bar5 (cls n : Nat) : Barrier := ⟨nm5 cls, 0, 0x4000000000000040, rimKey 0x40, 2, 0, BitVec.ofNat 32 n, .device, [], []⟩
def skeins5 (cls : Nat) : List Skein := [⟨nm5 cls, 0, 0, 0, false, 3, 0, [], 0, 0, none, 0⟩]
/-- The name is live and stands in slot 0's local memory; it names a barrier of two arrivals of whom `n` have come, and a skein. -/
def named (cls n : Nat) : State := put (base cls) (names5 cls) (mem5 cls) [bar5 cls n] (skeins5 cls)

theorem put_badName (s : State) (l m bs ks) (nm : W128) (k : Nat) : (put s l m bs ks).badName nm k = s.badName nm k := rfl
theorem put_durable (s : State) (l m bs ks) : (put s l m bs ks).durable = s.durable := rfl
theorem put_mem (s : State) (l m bs ks) : (put s l m bs ks).mem = m := rfl
theorem put_names (s : State) (l m bs ks) : (put s l m bs ks).names = l := rfl
theorem put_quiet {s : State} {l m bs ks} (h : Quiet s) : Quiet (put s l m bs ks) := h

theorem nm5_fields (s : State) (cls : Nat) (hd : s.durable = State.reset.durable) (h1 : 1 ≤ cls) (h7 : cls ≤ 7) : s.badName (nm5 cls) 0 = false ∧
    s.badName (nm5 cls) cls = false ∧ nmSerial (nm5 cls) = 5 ∧ nmModule (nm5 cls) = 0 ∧ nmClass (nm5 cls) = cls ∧ nmCluster (nm5 cls) = 3 := by
  have e : nm5 cls = s.makeName cls 5 3 := by unfold nm5 State.makeName State.check; rw [hd]
  rw [e]
  exact name_fields s cls 3 (by rw [hd]; rfl) h1 h7 (by omega)

/-- The state after a word has committed and read `n` bytes of its own local memory at the canonical address `a`. -/
def seenAt (s : State) (a : W64) (n : Nat) : State :=
  let u := s.atWord.guarded s.cur a n 0
  u.modSlot s.cur fun x => x.saw (coreOf s.cur) .none (u.carried (lKey a) n) []

theorem atWord_frame (s : State) : s.atWord.durable = s.durable ∧ s.atWord.names = s.names ∧ s.atWord.miss = s.miss ∧ s.atWord.clusters = s.clusters ∧
    s.atWord.barriers = s.barriers ∧ s.atWord.cur = s.cur ∧ s.atWord.mem = s.mem ∧ s.atWord.poison = s.poison ∧ s.atWord.out = s.out := by
  unfold State.atWord; split <;> exact ⟨rfl, rfl, rfl, rfl, rfl, rfl, rfl, rfl, rfl⟩
theorem guarded_frame (s : State) (g : Nat) (a : W64) (n k : Nat) : let t := s.guarded g a n k
    t.durable = s.durable ∧ t.names = s.names ∧ t.miss = s.miss ∧ t.clusters = s.clusters ∧
    t.barriers = s.barriers ∧ t.cur = s.cur ∧ t.mem = s.mem ∧ t.poison = s.poison := by
  intro t; simp only [t]; unfold State.guarded; simp only []; split <;> exact ⟨rfl, rfl, rfl, rfl, rfl, rfl, rfl, rfl⟩
theorem seenAt_frame (s : State) (a : W64) (n : Nat) : (seenAt s a n).durable = s.durable ∧ (seenAt s a n).names = s.names ∧
    (seenAt s a n).miss = s.miss ∧ (seenAt s a n).clusters = s.clusters ∧ (seenAt s a n).barriers = s.barriers := by
  obtain ⟨a1, a2, a3, a4, a5, -⟩ := atWord_frame s
  obtain ⟨b1, b2, b3, b4, b5, -⟩ := guarded_frame s.atWord s.cur a n 0
  exact ⟨b1.trans a1, b2.trans a2, b3.trans a3, b4.trans a4, b5.trans a5⟩
theorem seenAt_rest (s : State) (a : W64) (n : Nat) : (seenAt s a n).skeins = s.skeins ∧ (seenAt s a n).parked = s.parked ∧ (seenAt s a n).dies = s.dies := by
  have e : ∀ s : State, s.atWord.skeins = s.skeins ∧ s.atWord.parked = s.parked ∧ s.atWord.dies = s.dies := by
    intro s; unfold State.atWord; split <;> exact ⟨rfl, rfl, rfl⟩
  have f : ∀ (s : State) g, (s.guarded g a n 0).skeins = s.skeins ∧ (s.guarded g a n 0).parked = s.parked ∧ (s.guarded g a n 0).dies = s.dies := by
    intro s g; unfold State.guarded; simp only []; split <;> exact ⟨rfl, rfl, rfl⟩
  obtain ⟨a1, a2, a3⟩ := e s
  obtain ⟨b1, b2, b3⟩ := f s.atWord s.cur
  exact ⟨b1.trans a1, b2.trans a2, b3.trans a3⟩
theorem nat_of_mem {s t : State} (h : s.mem = t.mem) (k n : Nat) : s.nat k n = t.nat k n := by unfold State.nat; rw [h]

/-- What a word reads of its own local memory. -/
theorem reads_own {s : State} {ea : W64} {n v : Nat} (hq : Quiet s) (hn : n ≤ 64) (ho : s.out = [])
    (h1 : addrOk (isSup (coreOf s.cur)) ea = true) (h2 : tagOf (s.canon (coreOf s.cur) ea) = 2)
    (h3 : s.atWord.localOk s.cur (s.atWord.slot s.cur).descs 0 (s.canon (coreOf s.cur) ea) n = true) (h4 : s.poison = [])
    (hm : s.nat (lKey (s.canon (coreOf s.cur) ea)) n = v) : Reads s (seenAt s (s.canon (coreOf s.cur) ea) n) ea n v := by
  obtain ⟨-, -, -, -, -, -, a6, a7, a8⟩ := atWord_frame s
  obtain ⟨-, -, -, -, -, -, b6, b7⟩ := guarded_frame s.atWord s.cur (s.canon (coreOf s.cur) ea) n 0
  refine ⟨hq, ?_⟩
  have hl : s.atWord.look (some s.cur) (clusterOf (coreOf s.cur)) (s.atWord.slot s.cur).ctx (s.atWord.canon (coreOf s.cur) ea) n = none := by
    have : s.atWord.queued (some s.cur) (clusterOf (coreOf s.cur)) (s.atWord.slot s.cur).ctx (s.atWord.canon (coreOf s.cur) ea) n = (0, 0, [], []) := by
      unfold State.queued; rw [a8, ho]; split <;> rfl
    unfold State.look; rw [this]
    have : n = 0 ∨ (0 : Nat) ≠ 2 ^ n - 1 := by
      rcases Nat.eq_zero_or_pos n with h | h
      · exact .inl h
      · have := Nat.one_lt_two_pow (by omega : n ≠ 0); exact .inr (by omega)
    simp only []
    rw [if_neg (by rintro ⟨p, q⟩; exact this.elim p (fun r => r q))]
  have hc : s.atWord.canon (coreOf s.cur) ea = s.canon (coreOf s.cur) ea := by unfold State.atWord; split <;> rfl
  have ha : s.atWord.access s.cur (s.atWord.slot s.cur).ctx (s.atWord.slot s.cur).descs ea n .read 0 =
        .ok (s.atWord, lKey (s.canon (coreOf s.cur) ea)) := by
    unfold State.access
    rw [if_neg (by rw [h1]; simp)]
    simp only [hc]
    rw [h2]
    simp only [h3]
    rfl
  have hp : (s.atWord.guarded s.cur (s.canon (coreOf s.cur) ea) n 0).poisoned (lKey (s.canon (coreOf s.cur) ea)) n = false := by
    unfold State.poisoned; rw [b7, a7, h4]; simp; exact fun _ _ => by decide
  unfold State.readAt
  rw [if_pos hn, State.readLine]
  rw [hc] at hl
  simp only [ha, hc, hl, h2, if_true, hp]
  rw [nat_of_mem (b6.trans a6), hm]
  rfl

/-- A word of a state without free values reads its block where the read is performed. -/
theorem reads_here {s : State} {ea : W64} {n : Nat} {p : State × Nat → Bool} (hq : Quiet s) (h : okp (s.atWord.readAt s.cur ea n) p = true) :
    ∃ u v, Reads s u ea n v ∧ p (u, v) = true := by
  obtain ⟨⟨u, v⟩, h, h'⟩ := okp_ok h
  exact ⟨u, v, ⟨hq, h⟩, h'⟩

/-- The machine before: slot 0 runs, s9 points at the name, the cluster has the name cached. -/
theorem base_facts : ∀ cls ∈ [2, 3, 4], let s := base cls
    (s.loading s.cur = false ∧ s.storing s.cur = false ∧ s.me.mode = .none ∧ s.me.buf = []) ∧ s.me.s 9 = 0x40 ∧ s.operandFault 0x40 false 16 16 0 0 = none ∧
    s.noted = false ∧ s.me.ctx = 0 ∧ s.cur = 0 ∧ s.miss = false ∧ (s.cluster 0).ncache = [⟨5, BitVec.ofNat 6 cls, 0, 3, 9⟩] ∧
    (addrOk (isSup (coreOf s.cur)) 0x40 = true ∧ tagOf (s.canon (coreOf s.cur) 0x40) = 2 ∧
      s.atWord.localOk s.cur (s.atWord.slot s.cur).descs 0 (s.canon (coreOf s.cur) 0x40) 16 = true) ∧
    lKey (s.canon (coreOf s.cur) 0x40) = 0x40 ∧ s.out = [] ∧ s.poison = [] ∧ s.chainsOf 0 = 0 ∧
    s.me.fsp = 0 ∧ s.me.named = false ∧ s.me.state = .running ∧ s.canon (coreOf s.cur) 0x40 = 0x2000000000000040 := by decide +kernel

/-- The state after the commit and the read of a word of `named`. -/
def after_ (cls n : Nat) : State := seenAt (named cls n) 0x2000000000000040 16

theorem put_reads {s : State} {ea : W64} {n v : Nat} {l m bs ks} (hq : Quiet s) (hn : n ≤ 64) (ho : s.out = [])
    (h1 : addrOk (isSup (coreOf s.cur)) ea = true) (h2 : tagOf (s.canon (coreOf s.cur) ea) = 2)
    (h3 : s.atWord.localOk s.cur (s.atWord.slot s.cur).descs 0 (s.canon (coreOf s.cur) ea) n = true) (h4 : s.poison = [])
    (hm : memNat m (lKey (s.canon (coreOf s.cur) ea)) n = v) : Reads (put s l m bs ks) (seenAt (put s l m bs ks) (s.canon (coreOf s.cur) ea) n) ea n v := by
  have hw : (put s l m bs ks).atWord = put s.atWord l m bs ks := by
    unfold State.atWord
    show (if s.me.stamped = true then _ else _) = _
    split <;> rfl
  exact reads_own (s := put s l m bs ks) hq hn ho h1 h2 (by rw [hw]; exact h3) h4 hm

theorem named_reads {cls : Nat} (hc : cls ∈ [2, 3, 4]) (n : Nat) : Reads (named cls n) (after_ cls n) 0x40 16 (nm5 cls).toNat := by
  obtain ⟨h1, -, -, -, -, -, -, -, ⟨h2, h3, h4⟩, h5, h6, h7, -, -, -, -, h8⟩ := base_facts cls hc
  have := put_reads (l := names5 cls) (m := mem5 cls) (bs := [bar5 cls n]) (ks := skeins5 cls) (v := (nm5 cls).toNat) h1 (by omega) h6 h2 h3 h4 h7
    (by rw [h5, mem5, memNat_memPut]; exact Nat.mod_eq_of_lt (nm5 cls).isLt)
  rw [h8] at this
  exact this

theorem live_entry {t : State} {nm : W128} {k : BitVec 6} (hn : t.names = [⟨nm, k, false, 0, 3, 9, 1⟩]) :
    t.entry (nmSerial nm) = some ⟨nm, k, false, 0, 3, 9, 1⟩ := by
  unfold State.entry; rw [hn]; simp

theorem live_status {t : State} {nm : W128} {k : BitVec 6} (hn : t.names = [⟨nm, k, false, 0, 3, 9, 1⟩]) (hmod : t.durable.module.toNat = 0)
    (hb : t.badName nm 0 = false) (hm : nmModule nm = 0) : t.liveStatus 0 nm = 0 := by
  simp [State.liveStatus, hb, hm, hmod, live_entry hn, stOK]

theorem live_resolve {t : State} {nm : W128} {need cl h : Nat} {k : BitVec 6} (hn : t.names = [⟨nm, k, false, 0, h, 9, 1⟩])
    (hmod : t.durable.module.toNat = 0) (hb : t.badName nm need = false) (hm : nmModule nm = 0) (h5 : nmSerial nm = 5)
    (hc : (t.cluster cl).ncache = [⟨5, k, 0, h, 9⟩]) (hs : t.miss = false) : t.resolve cl 0 nm need = (t, 0, some ⟨5, k, 0, h, 9⟩) := by
  unfold State.resolve
  simp only [hb, hm, hmod, hc, hs, h5, List.find?_cons, BEq.rfl]
  simp [stOK]
  intro _
  rw [hn]; simp

theorem base_durable (cls : Nat) : (base cls).durable = State.reset.durable := by
  have g1 : ∀ (s : State) f, (s.modCluster 0 f).durable = s.durable := fun _ _ => rfl
  have g2 : ∀ (s : State) f, (s.modMe f).durable = s.durable := fun _ _ => rfl
  exact (g1 (here [(9, 0x40)]) _).trans (g2 State.reset _)

theorem put_rest (s : State) (l m bs ks) : let u := put s l m bs ks
    u.durable = s.durable ∧ u.names = l ∧ u.miss = s.miss ∧ u.clusters = s.clusters ∧ u.barriers = bs := ⟨rfl, rfl, rfl, rfl, rfl⟩
theorem cluster_of {s t : State} (h : s.clusters = t.clusters) (k : Nat) : s.cluster k = t.cluster k := by unfold State.cluster; rw [h]
theorem after_facts {cls : Nat} (hc : cls ∈ [2, 3, 4]) (n : Nat) : (after_ cls n).durable = State.reset.durable ∧
    (after_ cls n).names = names5 cls ∧ (after_ cls n).miss = false ∧
    ((after_ cls n).cluster 0).ncache = [⟨5, BitVec.ofNat 6 cls, 0, 3, 9⟩] ∧ (after_ cls n).barriers = [bar5 cls n] := by
  have h := base_facts cls hc
  obtain ⟨a, b, c, d, e⟩ := seenAt_frame (named cls n) 0x2000000000000040 16
  obtain ⟨a', b', c', d', e'⟩ := put_rest (base cls) (names5 cls) (mem5 cls) [bar5 cls n] (skeins5 cls)
  refine ⟨a.trans (a'.trans (base_durable cls)), b.trans b', c.trans (c'.trans h.2.2.2.2.2.2.1), ?_, e.trans e'⟩
  rw [cluster_of (s := after_ cls n) (t := base cls) (d.trans d')]
  exact h.2.2.2.2.2.2.2.1

theorem reset_module : State.reset.durable.module.toNat = 0 := rfl

/-- The name, live, resolves, and its barrier is found; bytes of zero are no name. -/
theorem named_resolves (n : Nat) (need : Nat) (h : need = 0 ∨ need = 2) :
    (after_ 2 n).resolve 0 0 (nm5 2) need = (after_ 2 n, 0, some ⟨5, 2, 0, 3, 9⟩) ∧ (after_ 2 n).liveStatus 0 (nm5 2) = 0 := by
  obtain ⟨hd, hn, hs, hc, -⟩ := after_facts (cls := 2) (by decide) n
  obtain ⟨hb, hb', h5, hm, -⟩ := nm5_fields (after_ 2 n) 2 hd (by omega) (by omega)
  have hmod : (after_ 2 n).durable.module.toNat = 0 := by rw [hd]; exact reset_module
  exact ⟨live_resolve hn hmod (by rcases h with rfl | rfl <;> assumption) hm h5 hc hs, live_status hn hmod hb hm⟩

theorem zero_badName (s : State) (need : Nat) : s.badName 0 need = true := by
  have : nmClass 0#128 = 0 := by decide
  simp [State.badName, this]

theorem zero_resolve (s : State) (cl : Nat) (ctx : BitVec 16) (need : Nat) :
    s.resolve cl ctx 0 need = (s.modDie (cl / 32) fun x => { x with badname := x.badname + 1 }, 9, none) := by
  rw [State.resolve, if_pos (zero_badName s need)]; rfl

/-- NNEW, NKILL, NRES and NCAS of slot 0, their blocks in its local memory. -/
theorem witness_namesSent : let s := here [(9, 0x80), (10, 0x23FE0)]
    s.operandFault 0x80 false 128 128 0 0 = none ∧ s.operandFault 0x23FE0 true 16 16 1 1 = none ∧ s.operandFault 0x80 false 16 16 0 0 = none ∧
    s.operandFault 0x23FE0 true 32 32 1 1 = none ∧ s.operandFault 0x80 false 16 16 0 2 = none ∧
    s.localOk s.cur s.me.descs 2 (s.canon (coreOf s.cur) 0x80) 16 = true ∧
    (∃ u v, Reads s u 0x80 128 v) ∧ (∃ u v, Reads s u 0x80 16 v) ∧ ∃ u v, Reads s u 0x23FE0 32 v := by
  intro s
  have hq : Quiet s := by unfold Quiet; decide +kernel
  obtain ⟨u1, v1, h1, -⟩ := reads_here (n := 128) (p := fun _ => true) (ea := 0x80) hq (by decide +kernel)
  obtain ⟨u2, v2, h2, -⟩ := reads_here (n := 16) (p := fun _ => true) (ea := 0x80) hq (by decide +kernel)
  obtain ⟨u3, v3, h3, -⟩ := reads_here (n := 32) (p := fun _ => true) (ea := 0x23FE0) hq (by decide +kernel)
  exact ⟨by decide +kernel, by decide +kernel, by decide +kernel, by decide +kernel, by decide +kernel, by decide +kernel,
    ⟨u1, v1, h1⟩, ⟨u2, v2, h2⟩, ⟨u3, v3, h3⟩⟩

/-- NWAIT of bytes that are no name, and of a live name: its task has no chain, no window to save and no guard record. -/
theorem witness_nameWaits : (∃ s u w : State, ∃ v st, s.operandFault (s.me.s 9) false 16 16 0 0 = none ∧ s.noted = false ∧ Reads s u (s.me.s 9) 16 v ∧
      u.resolve (clusterOf (coreOf u.cur)) u.me.ctx (BitVec.ofNat 128 v) 0 = (w, st, none) ∧ st ≠ 0) ∧
    ∃ u : State, ∃ v e, Reads (named 4 0) u 0x40 16 v ∧ u.resolve 0 0 (BitVec.ofNat 128 v) 0 = (u, 0, some e) ∧
      u.entry (nmSerial (BitVec.ofNat 128 v)) ≠ none := by
  constructor
  · obtain ⟨u, v, h, hv⟩ := reads_here (s := here [(9, 0x40)]) (n := 16) (p := fun p => p.2 == 0) (ea := 0x40) (by unfold Quiet; decide +kernel) (by decide +kernel)
    obtain rfl : v = 0 := by simpa using hv
    exact ⟨here [(9, 0x40)], u, _, 0, 9, by decide +kernel, by decide +kernel, h, zero_resolve u _ _ 0, by decide⟩
  · refine ⟨after_ 4 0, (nm5 4).toNat, ⟨5, 4, 0, 3, 9⟩, named_reads (by decide) 0, ?_⟩
    rw [BitVec.ofNat_toNat, BitVec.setWidth_eq]
    obtain ⟨hd, hn, hs, hc, -⟩ := after_facts (cls := 4) (by decide) 0
    obtain ⟨hb, -, h5, hm, -⟩ := nm5_fields (after_ 4 0) 4 hd (by omega) (by omega)
    exact ⟨live_resolve hn (by rw [hd]; exact reset_module) hb hm h5 hc hs, by rw [live_entry hn]; simp⟩

/-- An operation on a name at its slice, of slot 0, and its answer. -/
def anOp (fn : NameFn) (nm : W128) (st : Option W64) : NameOp := ⟨1, 0, 0, 0, 0, fn, nm, 0x2000000000023FE0, 9, .acqRel, .die, false, [], [], [], st⟩
/-- A block of class 7 with value 5, and one of class 1, which the rules refuse. -/
def valueBlock : BitVec 1024 := 7 + 5 * 2 ^ 64

/-- A class 2 block of two arrivals at DEVICE scope, with a line of its own and without; a class 3 block. -/
def barrierBlock (line : Nat) : BitVec 1024 := BitVec.ofNat 1024 (2 + line * 2 ^ 64 + (2 + 3 * 2 ^ 32) * 2 ^ 512)
def skeinBlock : BitVec 1024 := BitVec.ofNat 1024 (3 + 2 ^ 8 * 2 ^ 512)

theorem slice_open (s : State) (h : s.streaming = false) : (∀ d, s.nseHold d = false) ∧ ∀ k, s.ckHold k = false := by
  have e : ∀ r, s.rangeHeld r = false := by intro r; unfold State.rangeHeld; rw [h]; rfl
  refine ⟨fun d => ?_, fun k => ?_⟩
  · unfold State.nseHold; simp [e]
  · unfold State.ckHold; split
    · exact e _
    · rfl

/-- At slices: a live name resolves, bytes that are no name and a name of no entry do not; an operation that is due. -/
theorem witness_namesAtSlices :
    (∃ s : State, ∃ e x, s.badName (nm5 4) 0 = false ∧ nmModule (nm5 4) = s.durable.module.toNat ∧ nmClass (nm5 4) ≠ 5 ∧
      s.resolve 0 0 (nm5 4) 0 = (s, 0, some x) ∧ s.entry (nmSerial (nm5 4)) = some e ∧ e.ctx = 0) ∧
    (∃ s w : State, s.resolve 0 0 0 0 = (w, 9, none) ∧ nmClass 0 ≠ 5) ∧ (∃ s : State, s.badName (nm5 4) 0 = false ∧ s.entry (nmSerial (nm5 4)) = none) ∧
    ∀ fn nm, let s : State := { here [] with nameOps := [anOp fn nm none] }
      s.nameOps.find? (fun o => o.id == 1 && o.status.isNone) = some (anOp fn nm none) ∧ NameDue s (anOp fn nm none) ∧ lOff (anOp fn nm none).sb < 0x27000 ∧
      (anOp fn nm none).g < Config.slots := by
  refine ⟨⟨after_ 4 0, ?_⟩, ⟨State.reset, _, zero_resolve _ 0 0 0, by decide⟩, ⟨State.reset, ?_⟩, ?_⟩
  · obtain ⟨hd, hn, hs, hc, -⟩ := after_facts (cls := 4) (by decide) 0
    obtain ⟨hb, -, h5, hm, hcl, -⟩ := nm5_fields (after_ 4 0) 4 hd (by omega) (by omega)
    exact ⟨_, _, hb, by rw [hm, hd]; rfl, by rw [hcl]; decide, live_resolve hn (by rw [hd]; exact reset_module) hb hm h5 hc hs, live_entry hn, rfl⟩
  · exact ⟨(nm5_fields State.reset 4 rfl (by omega) (by omega)).1, rfl⟩
  · intro fn nm s
    obtain ⟨h1, h2⟩ := slice_open s (by decide +kernel : (here []).streaming = false)
    exact ⟨rfl, ⟨fun _ => rfl, fun _ => h2 _, h1 _⟩, (by decide : lOff 0x2000000000023FE0 < 0x27000), (by decide : 0 < Config.slots)⟩

/-- Blocks of each class that NNEW takes, and one that it refuses; a die with serials, room for the entry and for the object, and without. -/
theorem witness_namesCreated : nnewOk 1 = false ∧ nnewOk valueBlock = true ∧ valueBlock.toNat % 64 = 7 ∧ nnewOk (barrierBlock 0) = true ∧
    nnewOk (barrierBlock 0x4000000000000040) = true ∧ nnewOk skeinBlock = true ∧
    ((here []).overflowRoom 0 64 = false ∧ (here []).nseRoom 0 = true ∧ ((here []).modDie 0 fun x => { x with ovfsize := 1 }).overflowRoom 0 64 = true) ∧
    (∃ f, ({ here [] with serialFail := true } : State).issue 0 = .bad f) ∧
    (∃ u ser, ((here []).modDie 0 fun x => { x with serials := (5, 6) }).issue 0 = .ok (u, ser) ∧ u.sliceRoom (w64 ser) = true ∧ u.nseHold (Config.sliceOf (w64 ser)).val = false) ∧
    ∃ s u : State, ∃ k, s.findHome 0 0 0x4000000000000040 = (s, .ok 0) ∧ s.atHome 0 0 0 0x4000000000000040 64 .write false 1 = .ok (u, k) := by
  refine ⟨by decide +kernel, by decide +kernel, by decide +kernel, by decide +kernel, by decide +kernel, by decide +kernel, by decide +kernel, okm_bad (by decide +kernel), ?_, ?_⟩
  · obtain ⟨⟨u, n⟩, h, h'⟩ := okm_ok (p := fun p => p.1.sliceRoom (w64 p.2) && ! p.1.streaming) (r := ((here []).modDie 0 fun x => { x with serials := (5, 6) }).issue 0) (by decide +kernel)
    simp only [Bool.and_eq_true, Bool.not_eq_true'] at h'
    exact ⟨u, n, h, h'.1, (slice_open u h'.2).1 _⟩
  · obtain ⟨⟨u, k⟩, h, -⟩ := okp_ok (p := fun _ => true) (r := (homed (here [])).atHome 0 0 0 0x4000000000000040 64 .write false 1) (by decide +kernel)
    exact ⟨homed (here []), u, k, by decide +kernel, h⟩

/-- An answer that waits for no acknowledgement; a shoot-down on its way and on its way back; the last block of serials. -/
theorem witness_nameTraffic : ({ here [] with nameOps := [anOp .nres 0 (some 9)] } : State).nameOps.find? (fun o => o.g == 0 && o.status.isSome && o.acks.isEmpty) =
      some (anOp .nres 0 (some 9)) ∧
    ({ here [] with shoots := [⟨2, 5, 9, some 1, false⟩] } : State).shoots.find? (fun h => h.id == 2 && ! h.ack) = some ⟨2, 5, 9, some 1, false⟩ ∧
    ({ here [] with shoots := [⟨2, 5, 9, some 1, true⟩] } : State).shoots.any (fun h => h.id == 2 && h.ack) = true ∧
    State.reset.serialEnd ≤ State.reset.serialNext ∧
    ({ State.reset with durable := { Durable.reset with serialCounter := 2 ^ 64 - 2 ^ 40 - 1 } } : State).durable.serialCounter + 2 ^ 40 < 2 ^ 64 := by decide +kernel

/-- WAITA and WAKE of the last word of the program area, and of a global word; the waiters of a word. -/
theorem witness_waits :
    (∃ u k, WordAt (here [(9, 0x23FF8), (10, 0)]) u 0x23FF8 k ∧ u.poisoned k 8 = false ∧ (u.slot u.cur).state ≠ .held) ∧
    (here []).visible .system (coreOf (here []).cur) (here []).me.obs = true ∧
    ∃ u k, let s := homed (here [(9, 0x40000000001FFFF8)])
      WordAt s u 0x40000000001FFFF8 k ∧ s.noted = false ∧ u.poisoned k 8 = false := by
  refine ⟨?_, by decide +kernel, ?_⟩
  · obtain ⟨⟨u, k⟩, h, h'⟩ := okp_ok (p := fun p => ! p.1.poisoned p.2 8 && (p.1.slot p.1.cur).state != .held)
      (r := (here [(9, 0x23FF8), (10, 0)]).atWord.access 0 0 [] 0x23FF8 8 .read 0) (by decide +kernel)
    simp only [Bool.and_eq_true, Bool.not_eq_true', bne_iff_ne, ne_eq] at h'
    exact ⟨u, k, ⟨by decide +kernel, by decide +kernel, by unfold Quiet; decide +kernel, h⟩, h'⟩
  · obtain ⟨⟨u, k⟩, h, h'⟩ := okp_ok (p := fun p => ! p.1.poisoned p.2 8)
      (r := (homed (here [(9, 0x40000000001FFFF8)])).atWord.access 0 0 [] 0x40000000001FFFF8 8 .read 0) (by decide +kernel)
    exact ⟨u, k, ⟨by decide +kernel, by decide +kernel, by unfold Quiet; decide +kernel, h⟩, by decide +kernel, by simpa using h'⟩

/-- A park on a word whose value is the threshold, or one short of it; with room at the NSE, and without. -/
def aPark (thr : W64) : Parked := ⟨1, 0, .word 0x40 thr, 0, 9, .device, 0, 0, 0x2000000000000040, [], [], []⟩
def parking (thr : W64) (items : Nat) : State :=
  { here [] with parks := [aPark thr], skeins := [⟨0, 0, 0, 0, false, 0, 0, List.replicate items ⟨0, [], [], 0, none⟩, 0, 0, none, 0⟩] }
theorem room_of {s : State} {k : Skein} (h1 : s.parked = []) (h4 : s.skeins = [k]) (h5 : k.cluster / 32 = 0)
    (h6 : (s.die 0).ovfsize = 0) : s.nseRoom 0 = decide (64 * k.items.length + 64 ≤ 2 ^ 23) := by
  have hb : s.stitchBytes 0 = 64 * k.items.length := by
    unfold State.stitchBytes; rw [h1, h4]
    simp only [List.filter_nil, List.length_nil, List.filter_cons, h5, BEq.rfl, if_true, List.foldl_cons, List.foldl_nil]; omega
  have ho : s.overflowRoom 0 64 = false := by
    unfold State.overflowRoom; rw [h6]; exact decide_eq_false (by rw [show BitVec.toNat (0 : W64) = 0 from rfl]; omega)
  rw [State.nseRoom, ho, hb, Bool.or_false]
theorem parking_room (n : Nat) : (parking 1 n).nseRoom 0 = decide (64 * n + 64 ≤ 2 ^ 23) := by
  rw [room_of rfl rfl (by show 0 / 32 = 0; rfl) rfl, List.length_replicate]
theorem witness_parks : (∀ thr n, (parking thr n).parks.find? (fun p => p.id == 1) = some (aPark thr) ∧ ((parking thr n).slot 0).stepping = false) ∧
    (parking 0 0).parkTest (aPark 0) = some (0, []) ∧ (parking 1 0).parkTest (aPark 1) = none ∧
    (parking 1 131071).nseRoom 0 = true ∧ (parking 1 131072).nseRoom 0 = false ∧
    (parking 1 0).parkHurt (aPark 1) = false ∧ ((parking 1 0).mark 0x40).parkHurt (aPark 1) = true ∧ (parking 1 0).nseHold 0 = false := by
  refine ⟨fun thr n => ⟨rfl, (by decide +kernel : ((here []).slot 0).stepping = false)⟩, by decide +kernel, by decide +kernel,
    by rw [parking_room]; decide, by rw [parking_room]; decide, by decide +kernel, by decide +kernel, (slice_open _ (by decide +kernel : (here []).streaming = false)).1 0⟩

theorem slot_quiet (s : State) (h1 : s.slots = []) (h2 : s.cores = []) (h3 : s.clusters = []) (h4 : s.skeins = []) (c : Nat) : s.quiet c = true := by
  simp [State.quiet, State.bindable, State.offers, State.dueEntries, State.slot, State.core, h1, h2, h3, h4, Slot.reset, Core.reset]
theorem anyFrom_false (p : Nat → Bool) (h : ∀ c, p c = false) : ∀ n i, anyFrom p n i = false := by
  intro n; induction n with
  | zero => intro i; rfl
  | succ n ih => intro i; rw [anyFrom, h, ih]; rfl

/-- One stitch waits, nothing else moves; a timer that is due. -/
theorem witness_trapsAndTimers : (∀ d, d < 64 → (State.reset.die d).fqctl.getLsbD 0 = false) ∧
    ({ State.reset with parked := [aPark 1] } : State).deadlocked = true ∧
    let s := { State.reset with cycle := 5 }.modDie 63 fun x => { x with tmwake := 5 }
    63 < 64 ∧ (s.die 63).tmwake ≠ 0 ∧ (s.die 63).tmwake.toNat ≤ s.cycle := by
  refine ⟨fun d _ => ?_, ?_, by decide, by decide +kernel, by decide +kernel⟩
  · rw [State.die, show State.reset.dies = [] from rfl, Tab.get_nil]; decide
  unfold State.deadlocked
  rw [anyFrom_false _ fun c => by rw [slot_quiet _ rfl rfl rfl rfl]; rfl]
  decide +kernel

/-- BARA as the first and as the last of two arrivals, BARW in the phase it names, and a name that does not resolve. -/
theorem witness_barriers : (∀ n, n = 0 ∨ n = 1 → ∃ u v b, Reads (named 2 n) u 0x40 16 v ∧ u.barrierOf (BitVec.ofNat 128 v) = (u, .ok b) ∧
      b.count = 2 ∧ b.arrived = BitVec.ofNat 32 n ∧ b.phase = 0 ∧ u.me.state = .running ∧ u.visible b.scope (coreOf u.cur) u.me.obs = true ∧ u.barrierHeld b = false ∧ (named 2 n).noted = false) ∧
    ∃ s u : State, ∃ v e, Reads s u 0x40 16 v ∧ (u.barrierOf (BitVec.ofNat 128 v)).2 = .error e := by
  constructor
  · intro n hn
    obtain ⟨-, hnm, -, -, hb⟩ := after_facts (cls := 2) (by decide) n
    refine ⟨after_ 2 n, (nm5 2).toNat, bar5 2 n, named_reads (by decide) n, ?_, rfl, rfl, rfl, by rcases hn with rfl | rfl <;> decide +kernel, by rcases hn with rfl | rfl <;> decide +kernel,
      by rcases hn with rfl | rfl <;> decide +kernel, by rcases hn with rfl | rfl <;> decide +kernel⟩
    rw [BitVec.ofNat_toNat, BitVec.setWidth_eq, State.barrierOf]
    have hc : clusterOf (coreOf (after_ 2 n).cur) = 0 ∧ (after_ 2 n).me.ctx = 0 := by rcases hn with rfl | rfl <;> decide +kernel
    rw [hc.1, hc.2, (named_resolves n 2 (.inr rfl)).1]
    simp [stOK, State.barrier, hb, bar5]
  · obtain ⟨u, v, h, hv⟩ := reads_here (s := here [(9, 0x40)]) (n := 16) (p := fun p => p.2 == 0) (ea := 0x40) (by unfold Quiet; decide +kernel) (by decide +kernel)
    obtain rfl : v = 0 := by simpa using hv
    refine ⟨here [(9, 0x40)], u, 0, w64 (2 ^ 63 + 9), h, ?_⟩
    rw [show BitVec.ofNat 128 0 = 0 from rfl, State.barrierOf, State.resolve, if_pos (zero_badName _ 2)]
    rfl

/-! Tasks and chained loads -/

/-- What something that is there satisfies. -/
def opp {α : Type} (r : Option α) (p : α → Bool) : Bool := match r with
  | some a => p a
  | none => false
theorem opp_ok {α : Type} {r : Option α} {p : α → Bool} (h : opp r p = true) : ∃ a, r = some a ∧ p a = true := by
  cases r <;> simp_all [opp]
/-- What a result without an error satisfies. -/
def xp {ε α : Type} (r : Except ε α) (p : α → Bool) : Bool := match r with
  | .ok a => p a
  | .error _ => false
theorem xp_ok {ε α : Type} {r : Except ε α} {p : α → Bool} (h : xp r p = true) : ∃ a, r = .ok a ∧ p a = true := by
  cases r <;> simp_all [xp]

/-- YIELD and END of a task without a name, and of a named one with a frame in its local memory. -/
theorem witness_tasksLeave : (∃ v, Suspends (here []) v ∧ (v.slot 0).named = false) ∧
    ∃ s v, Suspends s v ∧ (v.slot 0).named = true := by
  have k1 : okm (((here []).atWord.modMe Slot.endCpys).saveWindow 0).2 (fun _ => true) = true := by decide +kernel
  have k2 : okm (((hereWith [] fun x => { x with named := true, name := 5, fsp := 0x2000000000010000 }).atWord.modMe Slot.endCpys).saveWindow 0).2
      (fun _ => true) = true := by decide +kernel
  obtain ⟨_, k1, -⟩ := okm_ok k1
  obtain ⟨_, k2, -⟩ := okm_ok k2
  exact ⟨⟨_, ⟨by decide +kernel, by unfold Quiet; decide +kernel, by decide +kernel, by decide +kernel, Prod.ext rfl k1⟩, by decide +kernel⟩,
    _, _, ⟨by decide +kernel, by unfold Quiet; decide +kernel, by decide +kernel, by decide +kernel, Prod.ext rfl k2⟩, by decide +kernel⟩

/-- SPAWN of a name that is live and is no skein's, and of one that no byte of memory names. -/
theorem witness_spawnsSent : (here [(9, 0x80), (10, 0x40)]).operandFault 0x80 false 64 64 0 0 = none ∧ (here [(9, 0x80), (10, 0x40)]).operandFault 0x40 false 16 16 0 0 = none ∧
    (∃ u v w, Reads (here [(9, 0x80), (10, 0x40)]) u 0x80 64 v ∧ u.readAt u.cur 0x40 16 = .ok (w, 0) ∧ (w.resolve 0 0 0 3).2.1 = 9) ∧
    ∃ t : State, ∃ e, t.resolve 0 0 (nm5 3) 3 = (t, 0, some e) := by
  refine ⟨by decide +kernel, by decide +kernel, ?_, after_ 3 0, ⟨5, 3, 0, 3, 9⟩, ?_⟩
  · obtain ⟨u, v, hr, hp⟩ := reads_here (s := here [(9, 0x80), (10, 0x40)]) (ea := 0x80) (n := 64)
      (p := fun p => okp (p.1.readAt p.1.cur 0x40 16) fun p => p.2 == 0) (by unfold Quiet; decide +kernel) (by decide +kernel)
    obtain ⟨⟨w, v'⟩, h, h'⟩ := okp_ok hp
    obtain rfl : v' = 0 := by simpa using h'
    exact ⟨u, v, w, hr, h, by rw [State.resolve, if_pos (zero_badName _ 3)]; rfl⟩
  · obtain ⟨hd, hn, hs, hc, -⟩ := after_facts (cls := 3) (by decide) 0
    obtain ⟨-, hb, h5, hm, -⟩ := nm5_fields (after_ 3 0) 3 hd (by omega) (by omega)
    exact live_resolve hn (by rw [hd]; exact reset_module) hb hm h5 hc hs

/-- The ring of slot 0 at 0x8000 with 2 places, holding `n` messages; the block of a word at the end of the program area. -/
def ringed (n : Nat) : State := ((here [(9, 0x3FFFF), (10, 0x23FE0)]).put (pageKey 0 0x20) 8 (0x8000 + 2 ^ 18 + 2 ^ 19)).put (pageKey 0 0x28) 4 n
theorem witness_messages : Quiet (ringed 2) ∧ (ringed 2).me.state = .running ∧ OwnBytes (ringed 2) 0x23FE0 32 ∧ (0x23FE0 : W64).toNat % 32 = 0 ∧
    (ringed 2).poisoned (ownKey (ringed 2) 0x23FE0) 32 = false ∧ (ringed 2).nat (pageKey 0 0x20) 8 / 2 ^ 18 % 2 = 1 ∧
    (ringed 2).nat (pageKey 0 0x28) 4 = 2 ∧ (ringed 2).nat (pageKey 0 0x2C) 4 = 0 ∧ (ringed 2).nat (pageKey 0 0x20) 8 / 2 ^ 19 % 16 = 1 ∧
    (ringed 2).nat (pageKey 0 0x20) 8 / 2 ^ 32 % 2 ^ 16 = 0 ∧ (ringed 2).poisoned (localKey 0 0x8000) 64 = false ∧
    (0x3FFFF : W64).toNat < 2 ^ 18 ∧ ¬ (0x40000 : W64).toNat < 2 ^ 18 ∧
    (∀ st, let r : SendReq := ⟨1, 0, 9, 0, 0, 5, 0, [], [], st⟩
      ({ ringed 2 with sends := [r] } : State).sends.find? (fun r => r.g == 0 && r.status == st) = some r ∧ (ringed 2).visible .cluster 0 r.obs = true) ∧
    (ringed 2).ckHold (ownKey (ringed 2) 0x23FE0) = false ∧ (ringed 2).ckHold (pageKey 0 0x2C) = false ∧ (ringed 2).ckHold (pageKey 0 0x28) = false ∧
    (ringed 2).ckHold (localKey 0 0x8000) = false ∧
    scopeWide (narrowest 0 0) = false ∧ ringOk (0x8000 + 2 ^ 18 + 2 ^ 19) = true ∧ ringOk (0x23FC0 + 2 ^ 18) = true ∧ ringOk (0x23FE0 + 2 ^ 18) = false := by
  have h : Quiet (ringed 2) ∧ OwnBytes (ringed 2) 0x23FE0 32 ∧ (ringed 2).poisoned (ownKey (ringed 2) 0x23FE0) 32 = false := by
    unfold Quiet OwnBytes ownKey; decide +kernel
  have h2 : ∀ st, let r : SendReq := ⟨1, 0, 9, 0, 0, 5, 0, [], [], st⟩
      ({ ringed 2 with sends := [r] } : State).sends.find? (fun r => r.g == 0 && r.status == st) = some r ∧ (ringed 2).visible .cluster 0 r.obs = true := by
    intro st; exact ⟨by simp, (by decide +kernel : (ringed 2).visible .cluster 0 [] = true)⟩
  exact ⟨h.1, by decide +kernel, h.2.1, by decide, h.2.2, by decide +kernel, by decide +kernel, by decide +kernel, by decide +kernel, by decide +kernel,
    by decide +kernel, by decide, by decide, h2, by unfold ownKey; decide +kernel, by decide +kernel, by decide +kernel, by decide +kernel, by decide, by decide, by decide, by decide⟩

/-- SETPRIO at the cluster's cap, above it, and past 15; TASKNAME with a name, without a frame, and with one where serials are at hand or all used. -/
theorem witness_prioritiesAndNames : ((here []).cluster 0).cap = 15 ∧ (((here []).modCluster 0 fun k => { k with cap := 14 }).cluster 0).cap = 14 ∧
    Clear (here [(9, 0x23FF0)]) ∧ (here [(9, 0x23FF0)]).mayStore 0 = true ∧ OwnBytes (here [(9, 0x23FF0)]) 0x23FF0 16 ∧ (0x23FF0 : W64).toNat % 16 = 0 ∧
    (here [(9, 0x23FF0)]).ckHold (ownKey (here [(9, 0x23FF0)]) 0x23FF0) = false ∧
    (here []).me.named = false ∧ (here []).me.fsp = 0 ∧ (hereWith [] fun x => { x with fsp := 32 }).me.fsp ≠ 0 ∧
    (∃ u n, let s := (here []).modDie 0 fun x => { x with serials := (5, 6) }
      s.issue 0 = .ok (u, n) ∧ u.sliceRoom (w64 n) = true ∧ u.nseHold (Config.sliceOf (w64 n)).val = false) ∧
    ∃ u, let s : State := { here [] with durable := { Durable.reset with serialCounter := 2 ^ 64 - 2 ^ 40 } }
      s.newName 0 5 0 0 0 0 = .ok (u, none) := by
  have k : okm (((here []).modDie 0 fun x => { x with serials := (5, 6) }).issue 0) (fun p => p.1.sliceRoom (w64 p.2) && ! p.1.streaming) = true := by decide +kernel
  have k' : okm (({ here [] with durable := { Durable.reset with serialCounter := 2 ^ 64 - 2 ^ 40 } } : State).newName 0 5 0 0 0 0) (fun p => p.2 == none) = true := by
    decide +kernel
  obtain ⟨⟨u, n⟩, h, h'⟩ := okm_ok k
  obtain ⟨⟨w, r⟩, h2, h2'⟩ := okm_ok k'
  simp only [beq_iff_eq] at h2'
  subst h2'
  simp only [Bool.and_eq_true, Bool.not_eq_true'] at h'
  exact ⟨by decide +kernel, by decide +kernel, by unfold Clear; decide +kernel, by decide +kernel, by unfold OwnBytes; decide +kernel, by decide, by unfold ownKey; decide +kernel, by decide +kernel,
    by decide +kernel, by decide +kernel, ⟨u, n, h, h'.1, (slice_open u h'.2).1 _⟩, w, h2⟩

theorem pick {α : Type} {c d : Prop} [Decidable c] [Decidable d] {x y z : α} {p : α → Prop} (hc : ¬ c) (hd : ¬ d) (h : p z) :
    p (if c then x else if d then y else z) := by rw [if_neg hc, if_neg hd]; exact h
/-- A stitch of zeros that joins a live skein of zeros, of cluster 3. -/
theorem live_append {s : State} {nm : W128} (rep : Option (BitVec 16 × W64 × Nat)) (hk : s.skeins = [⟨nm, 0, 0, 0, false, 3, 0, [], 0, 0, none, 0⟩])
    (hp : s.placeable 0 3 96 0 0 = true) (hr : s.nseRoom 0 = true) : ∃ u, s.append nm 0 0 0 [] [] rep = (u, 0, 1) := by
  unfold State.append
  simp only [hk, List.find?_cons, BEq.rfl]
  have hp' : ∀ a b f m, a = 0 → b = 96 → f = 0 → m = 0 → s.placeable a 3 b f m = true := by rintro _ _ _ _ rfl rfl rfl rfl; exact hp
  rw [if_neg (show ¬ stitchBad 0 = true by decide +kernel)]
  refine pick (p := fun r => ∃ u, r = (u, 0, 1)) (not_not.mpr (hp' _ _ _ _ ?_ ?_ ?_ ?_)) (not_not.mpr hr) ⟨_, rfl⟩ <;> decide +kernel

theorem named_skeins (n : Nat) : (after_ 3 n).skeins = skeins5 3 ∧ (after_ 3 n).parked = [] ∧ ((after_ 3 n).die 0).ovfsize = 0 := by
  have e : ∀ (s : State) l m bs ks, (put s l m bs ks).skeins = ks ∧ (put s l m bs ks).parked = s.parked ∧ (put s l m bs ks).dies = s.dies :=
    fun _ _ _ _ _ => ⟨rfl, rfl, rfl⟩
  obtain ⟨a, b, c⟩ := e (base 3) (names5 3) (mem5 3) [bar5 3 n] (skeins5 3)
  obtain ⟨a', b', c'⟩ := seenAt_rest (named 3 n) 0x2000000000000040 16
  have hb : (base 3).parked = [] ∧ (base 3).dies = [] := ⟨rfl, rfl⟩
  refine ⟨a'.trans a, b'.trans (b.trans hb.1), ?_⟩
  have hd : (after_ 3 n).dies = [] := c'.trans (c.trans hb.2)
  rw [State.die, hd, Tab.get_nil]; decide
theorem named_room (n : Nat) : (after_ 3 n).nseRoom 0 = true := by
  obtain ⟨a, b, c⟩ := named_skeins n
  rw [room_of b a (by show 3 / 32 = 0; rfl) c]; decide
theorem named_append : ∃ u, (after_ 3 0).append (nm5 3) 0 0 0 [] [] none = (u, 0, 1) :=
  live_append none (named_skeins 0).1 (by decide +kernel) (named_room 0)

/-- A spawn on its way, the first to its skein. -/
def spawning (s : State) : State := { s with spawns := [⟨1, 0, 9, 0, 0, 0, 0, 0, [], [], none⟩] }
theorem witness_spawnsAppend : (spawning (here [])).spawns.find? (fun r => r.id == 1) = some ⟨1, 0, 9, 0, 0, 0, 0, 0, [], [], none⟩ ∧ 0 < Config.slots ∧
    (spawning (here [])).spawns.all (fun o => ! (decide (o.id < 1) && o.cluster == 0 && o.nm == 0)) = true ∧
    (spawning (here [])).nseHold (nmCluster 0 / 32) = false ∧ (∃ u n, (spawning (here [])).append 0 0 0 0 [] [] none = (u, 8, n)) ∧ ∃ (s u : State) (nm : W128), s.append nm 0 0 0 [] [] none = (u, 0, 1) := by
  obtain ⟨u, h⟩ := named_append
  exact ⟨rfl, by decide, by decide +kernel, (slice_open _ (by decide +kernel : (here []).streaming = false)).1 _, ⟨_, _, rfl⟩, _, u, _, h⟩

theorem grSpawn_of {s u : State} {nm : W128} {st : W512} {r : NcEntry} {n : Nat} (h1 : s.resolve 0 0 nm 3 = (s, 0, some r))
    {rep : Option (BitVec 16 × W64 × Nat)}
    (h2 : s.append nm 0 0 st s.grSeen [] rep = (u, 0, n)) : s.grSpawn 0 0 nm st rep = (u, 0) := by
  unfold State.grSpawn
  simp only [show coreOf 0 = 0 from rfl, show clusterOf 0 = 0 from rfl, h1, h2]
  rfl
/-- No graph node waits. -/
def ungraphed (s : State) : State := { s with graph := [], grSeen := [] }
/-- A graph of one node in the first page of global memory: its block, its record, its template, its parameters; it waits for a flag. -/
def graphed : State :=
  let s := homed (here [])
  let k := rimKey (2 ^ 21)
  let s := s.put k 32 (1 + 0x4000000000000100 * 2 ^ 64 + 0x4000000000000200 * 2 ^ 128 + 0x4000000000000300 * 2 ^ 192)
  s.put (k + 0x100) 64 (0x4000000000000140 * 2 ^ 128 + 0x4000000000000180 * 2 ^ 192 + 8 * 2 ^ 256 + 0x4000000000000380 * 2 ^ 320 + 2 ^ 384)
theorem witness_replays :
    (∃ s1 desc s2 old s3 nodes size s4 s5 t, ({ graphed with grSeen := [] } : State).grRead 0 0 2 0x4000000000000000 64 = .ok (s1, desc) ∧ s1.grRead 0 0 2 (w64 (fld desc 192 64)) 8 = .ok (s2, old) ∧
      fld desc 32 32 = 0 ∧ fld desc 256 256 = 0 ∧ fld desc 0 32 = 1 ∧ fld desc 64 6 = 0 ∧ fld desc 128 64 % 64 = 0 ∧ fld old 0 32 = 0 ∧
      s2.grNodes 0 0 (w64 (fld desc 64 64)) 0 0 1 = .ok (s3, nodes, size) ∧ s3.grWaiting (0, w64 (fld desc 192 64), 2 ^ 32 - 1) = false ∧
      s3.grCopy 0 0 (w64 (fld desc 128 64 + size)) nodes = .ok s4 ∧ s4.grRun 0 0 (w64 (fld desc 192 64)) (w64 (fld desc 128 64 + size)) 1 nodes 0 = .ok (s5, 0) ∧
      s5.grWrite 0 0 2 (w64 (fld desc 192 64)) 8 1 = .ok t) ∧
    ∃ s u : State, ∃ x : GraphNode, s.graph.find? (fun x => x.id == 1 && x.due) = some x ∧
      s.settled (union x.obs (preOf (s.carried x.key 8))) = true ∧
      ({ s with graph := s.graph.filter fun y => y.id != 1, grSeen := union x.obs (preOf (s.carried x.key 8)) } : State).grSpawn x.g x.ctx x.nm x.st x.rep = (u, 0) := by
  constructor
  · have h : xp (({ graphed with grSeen := [] } : State).grRead 0 0 2 0x4000000000000000 64) (fun p => xp (p.1.grRead 0 0 2 (w64 (fld p.2 192 64)) 8) fun q =>
        decide (fld p.2 32 32 = 0 ∧ fld p.2 256 256 = 0 ∧ fld p.2 0 32 = 1 ∧ fld p.2 64 6 = 0 ∧ fld p.2 128 64 % 64 = 0 ∧ fld q.2 0 32 = 0) &&
        xp (q.1.grNodes 0 0 (w64 (fld p.2 64 64)) 0 0 1) fun r => ! r.1.grWaiting (0, w64 (fld p.2 192 64), 2 ^ 32 - 1) &&
        xp (r.1.grCopy 0 0 (w64 (fld p.2 128 64 + r.2.2)) r.2.1) fun v =>
        okm (v.grRun 0 0 (w64 (fld p.2 192 64)) (w64 (fld p.2 128 64 + r.2.2)) 1 r.2.1 0) fun w => decide (w.2 = 0) &&
        xp (w.1.grWrite 0 0 2 (w64 (fld p.2 192 64)) 8 1) fun _ => true) = true := by
      decide +kernel
    obtain ⟨⟨s1, desc⟩, h1, h⟩ := xp_ok h
    obtain ⟨⟨s2, old⟩, h2, h⟩ := xp_ok h
    rw [Bool.and_eq_true, decide_eq_true_eq] at h
    obtain ⟨⟨a, b, c, d, e, f⟩, h⟩ := h
    obtain ⟨⟨s3, nodes, size⟩, h3, h⟩ := xp_ok h
    rw [Bool.and_eq_true, Bool.not_eq_true'] at h
    obtain ⟨v, h4, h'⟩ := xp_ok h.2
    obtain ⟨⟨w, z⟩, h5, h'⟩ := okm_ok h'
    rw [Bool.and_eq_true, decide_eq_true_eq] at h'
    obtain ⟨rfl, h'⟩ := h'
    obtain ⟨t, h6, -⟩ := xp_ok h'
    exact ⟨s1, desc, s2, old, s3, nodes, size, v, w, t, h1, h2, a, b, c, d, e, f, h3, h.1, h4, h5, h6⟩
  · obtain ⟨hd, hn, hs, hc, hbar⟩ := after_facts (cls := 3) (by decide) 0
    let x : GraphNode := ⟨1, 0, [], 0, nm5 3, 0, 0, 0, 0, true, none⟩
    let s := ungraphed (after_ 3 0)
    have gen : ∀ s : State, (ungraphed s).names = s.names ∧ (ungraphed s).durable = s.durable ∧ (ungraphed s).miss = s.miss ∧ (ungraphed s).cluster 0 = s.cluster 0 ∧
        (ungraphed s).barriers = s.barriers ∧ (ungraphed s).skeins = s.skeins ∧ (ungraphed s).parked = s.parked := fun _ => ⟨rfl, rfl, rfl, rfl, rfl, rfl, rfl⟩
    obtain ⟨g1, g2, g3, g4, g5, g6, g7⟩ := gen (after_ 3 0)
    obtain ⟨-, hb, h5, hm, -⟩ := nm5_fields s 3 (g2.trans hd) (by omega) (by omega)
    have hr := live_resolve (cl := 0) (g1.trans hn) (by rw [g2, hd]; exact reset_module) hb hm h5 ((congrArg Cluster.ncache g4).trans hc) (g3.trans hs)
    obtain ⟨e1, e2, e3⟩ := named_skeins 0
    have g8 : ∀ s : State, (ungraphed s).die 0 = s.die 0 := fun _ => rfl
    obtain ⟨u, ha⟩ := live_append (s := s) none (g6.trans e1) (by decide +kernel)
      (by rw [room_of (g7.trans e2) (g6.trans e1) (by show 3 / 32 = 0; rfl) (by rw [g8]; exact e3)]; decide)
    have h : s.grSpawn 0 0 (nm5 3) 0 none = (u, 0) := grSpawn_of hr ha
    have fin : ∀ s : State, ({ ({ s with graph := [x] } : State) with
        graph := ({ s with graph := [x] } : State).graph.filter fun y => y.id != 1, grSeen := [] } : State) = ungraphed s := fun _ => rfl
    have seen : preOf (({ after_ 3 0 with graph := [x] } : State).carried 0 8) = [] := by decide +kernel
    refine ⟨{ after_ 3 0 with graph := [x] }, u, x, rfl, ?_, ?_⟩
    · rw [seen]; decide +kernel
    · rw [seen]; exact (congrArg (fun s : State => s.grSpawn 0 0 (nm5 3) 0 none) (fin (after_ 3 0))).trans h

/-- A ready stitch of core 0's cluster, alone; a skein of that cluster, alone; slot 0 EMPTY. -/
def dispatching (list : Bool) : State :=
  let s := State.reset.modCluster 0 fun k => { k with ready := if list then [⟨0x400, 0, 0, 0, [], [], []⟩] else [] }
  { s.modDie 0 fun x => { x with ctxtab := 0x1000 } with skeins := if list then [] else [⟨5, 0, 0x100, 0, false, 0, 0, [⟨0x400, [], [], 0, none⟩], 0, 0, none, 1⟩] }
/-- The machine of that decision, and the candidates that suit slot 0. -/
def deciding (list : Bool) : State := (((dispatching list).skeins.foldl State.rebindSkein (dispatching list)).enterSkeins).charge 0
def candidates (list : Bool) : List Offer := ((deciding list).offers 0 0).filter fun o => (deciding list).suits 0 o
theorem witness_slotsDispatch : ∀ list, ((dispatching list).slot 0).state = .empty ∧ ((dispatching list).slot 0).packet = none ∧ (dispatching list).enabled 0 = true ∧ (dispatching list).paused 0 = false ∧
    (candidates list).any (fun o => (deciding list).deferred 0 o) = false ∧
    ∃ o, bestOffer ((candidates list).filter fun o => ! (deciding list).deferred 0 o) = some o ∧ (deciding list).coreFor o 0 = 0 ∧
      (deciding list).visible .cluster 0 o.obs = true ∧ o.c = if list then .list 0 0 else .skein 5 := by
  have h : ∀ list, opp (bestOffer ((candidates list).filter fun o => ! (deciding list).deferred 0 o)) (fun o =>
      decide ((deciding list).coreFor o 0 = 0) && (deciding list).visible .cluster 0 o.obs &&
        decide (o.c = if list then .list 0 0 else .skein 5)) = true := by decide +kernel
  intro list
  obtain ⟨o, h1, h2⟩ := opp_ok (h list)
  simp only [Bool.and_eq_true, decide_eq_true_eq] at h2
  have hs : ∀ list, ((dispatching list).slot 0).state = .empty ∧ ((dispatching list).slot 0).packet = none ∧ (dispatching list).enabled 0 = true ∧ (dispatching list).paused 0 = false ∧
    (candidates list).any (fun o => (deciding list).deferred 0 o) = false := by decide +kernel
  exact ⟨(hs list).1, (hs list).2.1, (hs list).2.2.1, (hs list).2.2.2.1, (hs list).2.2.2.2, o, h1, h2.1.1, h2.1.2, h2.2⟩

/-- A slot HELD for exactly HOLDLIM cycles, on each of the three. -/
def heldOn (h : Hold) : State := { hereWith [] fun x => { x with state := .held, hold := h, heldSince := 10 } with cycle := 10 + 16384 }
theorem witness_holdLimits : ∀ h ∈ [Hold.stream 3 4, .recv, .waita 0x40 1 9 .device 0 none],
    ((heldOn h).slot 0).state = .held ∧ ((heldOn h).slot 0).hold = h ∧ ((heldOn h).slot 0).heldSince + ((heldOn h).slot 0).holdlim.toNat ≤ (heldOn h).cycle ∧
    (heldOn h).paused 0 = false ∧ (heldOn h).loading 0 = false ∧ (heldOn h).storing 0 = false ∧ ((heldOn h).core 0).waitList.length < 4 ∧
    ((heldOn h).slot 0).stepping = false ∧ ((heldOn h).slot 0).preempting = false := by decide +kernel

/-- A descriptor whose END delivers to stream register 1, and one to the return block at 0x20; the first steps of the other kinds. -/
def chained (st : Nat) (b : W64) : W256 := BitVec.ofNat 256 (b.toNat + st * 2 ^ 64)
theorem witness_chainsStart : Has (here []) 32 ∧ chBad (chained (2 ^ 23 + 2 ^ 10) 0x4000000000000000) = false ∧ chBad (chained (2 ^ 10) 0) = false ∧
    addrOk (isSup (coreOf (here []).cur)) 0x4000000000000000 = true ∧ chStream (chStep (chained (2 ^ 23 + 2 ^ 10) 0x4000000000000000) 0) = true ∧
    (streamed (some (.chain 1)) []).me.st 3 ≠ Stream.reset ∧ ((streamed (some (.chain 1)) []).me.st 3).src ≠ none ∧ (here []).chainsOf 0 = 0 ∧
    ({ here [] with chains := List.replicate 8 ⟨1, 0, 0, 0, 0, 0, 0, 0, 0, 0, none, none, [], [], []⟩ } : State).chainsOf 0 = 8 := by
  unfold Has; decide +kernel

/-- A chain of slot 0 at its own local memory, at a step: END, LOAD64, NAME128 or LOADACQ, after 255 hops. -/
def aChain (st : Nat) (hops place : Nat) (r : Option (BitVec 128 × List W64)) : Chain :=
  ⟨1, 0, 0, 0, 0, chained st 0x40, 0, 0x40, hops, place, none, r, [], [], []⟩
theorem witness_chainsStep :
    (∀ k, k < 4 → let h := aChain (k * 2 ^ 30 + (if k = 3 then 2 ^ 27 else 0)) 255 0 none
      let s : State := { (here []).put 0x40 8 0x80 with chains := [h] }
      s.chains.find? (fun h => h.id == 1 && h.result.isNone) = some h ∧ chKind (chStep h.desc 0) = k ∧ addrOk (isSup 0) (h.base + chOff (chStep h.desc 0)) = true ∧
      (h.base + chOff (chStep h.desc 0)).toNat % (if k = 2 then 16 else 8) = 0 ∧ h.hops + chHops h.place (s.owner h (s.canon 0 0x40)) = 255 ∧
      okp (s.chAccess h (s.canon 0 0x40) (if k = 2 then 16 else 8) 0) (fun p => ! p.2.bad && p.2.v % 2 ^ 64 == 0x80) = true ∧ s.chGone h = false) ∧
    addrOk (isSup 0) 0x7000000000000000 = false ∧ 255 < 255 + chHops 1 0 ∧
    ∃ u f, (here []).chAccess (aChain 0 0 0 none) 0x2000000000024000 8 0 = .bad u f := by
  refine ⟨by decide +kernel, by decide, by unfold chHops; rw [if_neg (by decide), if_pos (by decide)]; omega, ?_⟩
  have h : (match (here []).chAccess (aChain 0 0 0 none) 0x2000000000024000 8 0 with | .bad _ _ => true | _ => false) = true := by decide +kernel
  split at h
  · rename_i u f e; exact ⟨u, f, e⟩
  · cases h

/-- A result for the return block, and for a stream register that is still bound to its chain. -/
theorem witness_chainsReturn : ∀ st ∈ [2 ^ 10, 2 ^ 23 + 3 * 2 ^ 10], let h := aChain st 0 0 (some (5, [7]))
    ({ streamed (some (.chain 1)) [] with chains := [h] } : State).chains.find? (fun h => h.id == 1) = some h ∧ h.result = some (5, [7]) ∧ h.g < Config.slots ∧
    ((streamed (some (.chain 1)) []).slot 0).state = .running ∧ (chStream (chStep h.desc ((chEnd h.desc).getD 0)) = decide (st ≠ 2 ^ 10)) ∧
    (((streamed (some (.chain 1)) []).slot 0).st 3).src = some (.chain 1) ∧
    ({ streamed (some (.chain 1)) [] with chains := [h] } : State).ckHold (localKey h.core (chDest (chStep h.desc ((chEnd h.desc).getD 0)))) = false := by decide +kernel

/-! Commands and the copy engine -/

theorem mk_ok {σ α : Type} {r : σ × Met α} {a : α} (h : r.2 = .ok a) : r = (r.1, .ok a) := Prod.ext rfl h
/-- A command of slot 0 with these fields (place, value). -/
def cmd (l : List (Nat × Nat)) (two : Bool) (p : Phase) : Cmd := ⟨BitVec.ofNat 512 (l.foldl (fun n x => n + x.2 * 2 ^ x.1) 0), two, 0, 1, 0, false, p, [], 0⟩
/-- It stands at the head of a queue of core 0. -/
def queued (s : State) (eng : Eng) (k : Cmd) : State :=
  s.modCore 0 fun x => if eng = .copy then { x with copyQ := ⟨[k], [], [], []⟩ } else { x with mxQ := ⟨[k], [], [], []⟩ }

/-- CSEQ pushed with one place left of 32, and with none; words that name no command. -/
theorem witness_commandsPushed : Has (here []) 16 ∧ pushCheck 0 .copy 0 = 1 ∧ pushCheck 8 .copy 0 = 0 ∧ Quiet (here []) ∧
    (∀ n ∈ [31, 32], (((here []).modCore 0 fun x => { x with copyQ := ⟨List.replicate n (cmd [(0, 8)] false .fresh), [], [], []⟩ }).queue 0 .copy).room = 32 - n) ∧
    (here []).queueing 0 .copy = [] ∧ (hereWith [] fun x => { x with v := [(3, 8)] }).me.vr 3 = 8 := by
  have h : Has (here []) 16 ∧ Quiet (here []) := by unfold Has Quiet; decide +kernel
  exact ⟨h.1, by decide, by decide, h.2, by decide +kernel, by decide +kernel, by decide +kernel⟩

/-- A word that fails each step of the check, the words of six opcodes that pass it, and one of a format that allows two planes with three. -/
theorem witness_pushChecks : pushCheck 9 .copy 0 = 1 ∧ pushCheck 0x108 .copy 0 = 2 ∧ pushCheck 0x120 .copy 0 = 3 ∧ pushCheck 8 .copy 1 = 4 ∧
    pushCheck 0x80008 .copy 0 = 5 ∧ pushCheck 0x60008 .copy 0 = 5 ∧ pushCheck 0x2008 .copy 0 = 6 ∧
    (∀ w ∈ [8, 6 + 2 ^ 96, 7 + 2 ^ 134], pushCheck w .copy 0 = 0) ∧
    (∀ w ∈ [0x120 + 2 * 2 ^ 96 + 2 * 2 ^ 101 + 2 * 2 ^ 106 + 2 * 2 ^ 112, 0x123 + 2 ^ 32 + 2 ^ 39 + 2 ^ 64 + 2 ^ 128, 0x125, 0x126, 0x127 + 2 ^ 160], pushCheck w .matrix 0 = 0) ∧
    pushCheck (0x120 + 2 * 2 ^ 96 + 2 * 2 ^ 101 + 3 * 2 ^ 106 + 2 * 2 ^ 112) .matrix 0 = 6 := by decide

/-- Slot 1 HELD for one place in the copy queue. -/
def waitingPush : State := ({ (here []) with slots := [(1, { Slot.reset with state := .held, hold := .room .copy })] }).modCore 0 fun x =>
  { x with copyQ := ⟨[], [(1, 1, 8)], [], []⟩ }
theorem witness_waitingPushes : waitingPush.queueing 0 .copy = [(1, 1, 8)] ∧ 1 ≤ (waitingPush.queue 0 .copy).room ∧ (waitingPush.slot (4 * 0 + 1)).preempting = false ∧
    (waitingPush.core 0).quarantined = false ∧ waitingPush.paused 0 = false ∧
    (waitingPush.cluster 0).matrixQuarantined = false := by decide +kernel

/-- Each copy command, fresh at the head, may begin: without a flag, with one, and to a stage. -/
theorem witness_copiesBegin : (∀ op ∈ [1, 2, 3, 4, 5, 6, 7, 8], let k := cmd [(0, op), (12, 1), (96, 0x40)] false .fresh
      let s := queued (here []) .copy k
      CopyHead s 0 op k ∧ s.mayBegin 0 .copy k = true ∧ (k.a 96).toNat % 64 = 0 ∧ tagOf (k.a 96) ≠ 5 ∧ (k.a 32).toNat % 64 = 0 ∧ tagOf (k.a 32) ≠ 5 ∧
      (k.fl = true → flagOk k.flag = true) ∧ k.stg = false ∧ (s.slot k.g).state ≠ .empty ∧ s.cpysWaits 0 k = false) ∧
    ((here []).die (dieOf 0)).wsRead = false ∧ ((here []).die (dieOf 0)).wsWant = none ∧
    let k := cmd [(0, 1), (13, 1)] true .fresh
    let s := (queued (here []) .copy k).modStage 0 0 fun t => { t with reg := true }
    CopyHead s 0 1 k ∧ k.stg = true ∧ (s.stage 0 k.stageIx).reg = true ∧ tagOf (s.stage 0 k.stageIx).base ≠ 5 := by
  unfold CopyHead; decide +kernel

/-- A stage copy that fills its stage's region to the end, and one that passes it by a byte; its stage is out of use. -/
theorem witness_stageCopiesBegin : ∀ n ∈ [1088, 1089], let k := cmd [(0, 6), (13, 1), (32, 0x40), (96, n)] false .staging
    let s := (queued (here []) .copy k).modStage 0 0 fun t => { t with reg := true, base := 0x40, nb := 1, planes := 1 }
    s.head 0 .copy = some k ∧ k.op ∈ [1, 6] ∧ (s.stage 0 k.stageIx).inuse = 0 ∧ (s.stage 0 k.stageIx).size = 1088 ∧ k.extent.2 = n := by decide +kernel

/-- CPY of a row of 100 bytes, FILL of the last line of the program area, WLOAD of a line, GATH and SCAT of 8 bytes, PACK of a row, CPYS of an item. -/
def kCpy : Cmd := cmd [(0, 1), (32, 0x20), (96, 0x1040), (160, 100), (192, 1), (208, 1)] true (.moving 0 36)
def kFill : Cmd := cmd [(0, 6), (32, 0x23FC0), (96, 64)] true (.moving 0 0)
def kWload : Cmd := cmd [(0, 7), (32, 0x40), (128, 64)] true (.moving 0 0)
def kEl (op : Nat) : Cmd := cmd [(0, op), (32, 0x800), (96, 0x40), (160, 0x1000), (224, 1), (256, 8), (288, 3)] true (.moving 0 0)
def kPack : Cmd := cmd [(0, 3), (32, 0x100), (96, 0x1000), (160, 128), (184, 1), (197, 4)] true (.moving 0 0)
def kCpys : Cmd := cmd [(0, 2), (32, 0x40), (96, 8), (128, 1)] true (.feeding 0 0)
def atCpy : State := queued (here []) .copy kCpy
def atFill : State := queued (here []) .copy kFill
def atWload : State := { queued (here []) .copy kWload with cycle := 30000 }
def atEl (op : Nat) : State := queued (here []) .copy (kEl op)
def atPack : State := queued (here []) .copy kPack

/-- The last 28 bytes of the first line of that row; the line that FILL writes; the line of the weight load. -/
theorem witness_linesMove :
    (∃ u w v key, CopyHead atCpy 0 1 kCpy ∧ atCpy.engRead 0 .copy kCpy 5 2 (kCpy.a 32 + 36) 28 = (u, .ok (v, false)) ∧ WritesAt u w 0 kCpy (kCpy.a 96 + 36) 28 key) ∧
    (∃ w key, CopyHead atFill 0 6 kFill ∧ WritesAt atFill w 0 kFill (kFill.a 32) 64 key) ∧
    ∃ u v, CopyHead atWload 0 7 kWload ∧ atWload.wsFree 0 0 (wsEngine 0 .copy) = true ∧ atWload.ckHold (wsKey 0 0) = false ∧ atWload.engRead 0 .copy kWload 5 2 (kWload.a 32) 64 = (u, .ok (v, false)) := by
  have hd : CopyHead atCpy 0 1 kCpy ∧ CopyHead atFill 0 6 kFill ∧ CopyHead atWload 0 7 kWload := by unfold CopyHead; decide +kernel
  have h1 : okm (atCpy.engRead 0 .copy kCpy 5 2 (kCpy.a 32 + 36) 28).2 (fun p => ! p.2 && okp ((atCpy.engRead 0 .copy kCpy 5 2 (kCpy.a 32 + 36) 28).1.access kCpy.g kCpy.ctx
      ((atCpy.engRead 0 .copy kCpy 5 2 (kCpy.a 32 + 36) 28).1.protSet (clusterOf 0) kCpy.ctx) (kCpy.a 96 + 36) 28 .write 6) fun _ => true) = true := by decide +kernel
  have h2 : okp (atFill.access kFill.g kFill.ctx (atFill.protSet (clusterOf 0) kFill.ctx) (kFill.a 32) 64 .write 6) (fun _ => true) = true := by decide +kernel
  have h3 : okm (atWload.engRead 0 .copy kWload 5 2 (kWload.a 32) 64).2 (fun p => ! p.2) = true := by decide +kernel
  have l1 : tagOf ((atCpy.engRead 0 .copy kCpy 5 2 (kCpy.a 32 + 36) 28).1.canon 0 (kCpy.a 96 + 36)) = 2 →
      lOff ((atCpy.engRead 0 .copy kCpy 5 2 (kCpy.a 32 + 36) 28).1.canon 0 (kCpy.a 96 + 36)) < 0x27000 := by decide +kernel
  have l2 : tagOf (atFill.canon 0 (kFill.a 32)) = 2 → lOff (atFill.canon 0 (kFill.a 32)) < 0x27000 := by decide +kernel
  obtain ⟨⟨v, p⟩, e1, e2⟩ := okm_ok h1
  rw [Bool.and_eq_true, Bool.not_eq_true'] at e2
  obtain ⟨rfl, e2⟩ := e2
  obtain ⟨⟨w, key⟩, e3, -⟩ := okp_ok e2
  obtain ⟨⟨w', key'⟩, e4, -⟩ := okp_ok h2
  obtain ⟨⟨v', p'⟩, e5, e6⟩ := okm_ok h3
  rw [Bool.not_eq_true'] at e6
  subst e6
  exact ⟨⟨_, w, v, key, hd.1, mk_ok e1, e3, l1⟩, ⟨w', key', hd.2.1, e4, l2⟩, _, v', hd.2.2, by decide +kernel, by decide +kernel, mk_ok e5⟩

/-- Element 0 of 8 bytes by its index word of 4 bytes. -/
theorem witness_elementsMove : ∀ op ∈ [4, 5], ∃ u w, CopyHead (atEl op) 0 op (kEl op) ∧
    (atEl op).engRead 0 .copy (kEl op) 5 2 ((kEl op).a 96) 4 = (u, .ok (0, false)) ∧ ((kEl op).a 32).toNat % 8 = 0 ∧ ((kEl op).a 160).toNat % 8 = 0 ∧
    u.moveRun 0 (kEl op) (op + 2) (11 - op) 10 ((kEl op).a (if op = 4 then 32 else 160)) ((kEl op).a (if op = 4 then 160 else 32)) 8 = (w, .ok none) ∧
    HeadAt w 0 .copy (kEl op) (kEl op).phase := by
  have hall : ∀ op ∈ [4, 5], ((atEl op).head 0 .copy = some (kEl op) ∧ (kEl op).op = op ∧ (kEl op).retire = false ∧ (atEl op).cutting 0 = false) ∧
      ((kEl op).a 32).toNat % 8 = 0 ∧ ((kEl op).a 160).toNat % 8 = 0 := by decide +kernel
  have h1 : ∀ op ∈ [4, 5], okm ((atEl op).engRead 0 .copy (kEl op) 5 2 ((kEl op).a 96) 4).2 (fun p => ! p.2 && p.1 == 0) = true := by decide +kernel
  have h2 : ∀ op ∈ [4, 5], okm (((atEl op).engRead 0 .copy (kEl op) 5 2 ((kEl op).a 96) 4).1.moveRun 0 (kEl op) (op + 2) (11 - op) 10
      ((kEl op).a (if op = 4 then 32 else 160)) ((kEl op).a (if op = 4 then 160 else 32)) 8).2 (fun p => p == none) = true := by decide +kernel
  have h3 : ∀ op ∈ [4, 5], (((atEl op).engRead 0 .copy (kEl op) 5 2 ((kEl op).a 96) 4).1.moveRun 0 (kEl op) (op + 2) (11 - op) 10
      ((kEl op).a (if op = 4 then 32 else 160)) ((kEl op).a (if op = 4 then 160 else 32)) 8).1.head 0 .copy = some (kEl op) := by decide +kernel
  intro op hop
  obtain ⟨⟨x, p⟩, e1, e2⟩ := okm_ok (h1 op hop)
  rw [Bool.and_eq_true, Bool.not_eq_true', beq_iff_eq] at e2
  obtain ⟨rfl, rfl⟩ := e2
  obtain ⟨o, e3, e4⟩ := okm_ok (h2 op hop)
  rw [beq_iff_eq] at e4
  subst e4
  exact ⟨_, _, (hall op hop).1, mk_ok e1, (hall op hop).2.1, (hall op hop).2.2, mk_ok e3, _, h3 op hop, rfl, rfl, rfl, rfl, rfl, rfl⟩

/-- A run of 512 bytes up to the end of the program area. -/
theorem witness_runsMoveBytes : 0 < Config.cores ∧ coreOf (cmd [] true .fresh).g = 0 ∧ ((here []).cluster (clusterOf 0)).fenced = false ∧
    (0x23C00 : W64).toNat + 512 ≤ 0x24000 ∧ (0x23E00 : W64).toNat + 512 ≤ 0x24000 ∧ (0x23C00 : W64).toNat + 512 ≤ (0x23E00 : W64).toNat ∧ (here []).streaming = false ∧
    ∀ j, j < 512 → (here []).poisoned (localKey 0 0x23C00 + j) 1 = false := by
  refine ⟨by decide, by decide, by decide +kernel, by decide, by decide, by decide, by decide +kernel, fun j _ => ?_⟩
  have : (here []).poison = [] := by decide +kernel
  simp only [State.poisoned, this, Tab.get_nil]
  simp; decide

/-- The rows of a plane block, one row. -/
theorem witness_blocksPacked : ∃ u rs, CopyHead atPack 0 3 kPack ∧ kPack.f 202 197 ≤ 32 ∧
    atPack.packRows 0 kPack (fun i => if i < kPack.f 191 184 then some (kPack.a 32 + w64 i * kPack.str 256 + 0, (128 * container (kPack.f 196 192) + 7) / 8) else none) 64
      = (u, .ok rs) := by
  have h : okm (atPack.packRows 0 kPack (fun i => if i < kPack.f 191 184 then
    some (kPack.a 32 + w64 i * kPack.str 256 + 0, (128 * container (kPack.f 196 192) + 7) / 8) else none) 64).2 (fun _ => true) = true := by decide +kernel
  obtain ⟨rs, h, -⟩ := okm_ok h
  exact ⟨_, rs, by unfold CopyHead; decide +kernel, by decide +kernel, mk_ok h⟩

/-- The last item of a CPYS, its register one short of 16. -/
def feeding : State := queued (hereWith [] fun x => x.setSt 0 ⟨some (.cpys 1), List.replicate 15 0, false, false, 0⟩) .copy kCpys
theorem witness_itemsFed : ∃ u v, feeding.head 0 .copy = some kCpys ∧ feeding.cutting 0 = false ∧ feeding.feeds 0 kCpys = some 0 ∧
    (feeding.slot 0).state ≠ .empty ∧ (feeding.slot 0).state ≠ .preempted ∧ ((feeding.slot 0).st (kCpys.f 145 144)).items.length < 16 ∧ (kCpys.a 32).toNat % 8 = 0 ∧
    feeding.engRead 0 .copy kCpys 5 1 (kCpys.a 32) 8 = (u, .ok (v, false)) ∧ u.slot 0 = feeding.slot 0 := by
  have h : okm (feeding.engRead 0 .copy kCpys 5 1 (kCpys.a 32) 8).2 (fun p => ! p.2) = true := by decide +kernel
  have hs : (feeding.engRead 0 .copy kCpys 5 1 (kCpys.a 32) 8).1.slot 0 = feeding.slot 0 := by decide +kernel
  obtain ⟨⟨v, p⟩, h1, h2⟩ := okm_ok h
  rw [Bool.not_eq_true'] at h2
  subst h2
  exact ⟨_, v, by decide +kernel, by decide +kernel, by decide +kernel, by decide +kernel, by decide +kernel, by decide +kernel, by decide +kernel, mk_ok h1, hs⟩

/-- A command that is done, with a flag; one that has failed; one that stopped its queue, its error still to clear. -/
theorem witness_copiesEnd : (let k := cmd [(0, 6), (12, 1), (320, 0x48)] true (.ran none)
      let s := queued (here []) .copy k
      s.head 0 .copy = some k ∧ k.fl = true ∧ okm (s.raiseFlag 0 k).2 (fun _ => true) = true ∧ (s.raiseFlag 0 k).1.head 0 .copy = some k ∧
      okm (s.engLine 0 .copy k k.flag 8 .rmw 2).2 (fun key => ! (s.engLine 0 .copy k k.flag 8 .rmw 2).1.poisoned key 8) = true ∧
      s.mayRelease 0 .copy k = true ∧ s.ckHold (pageKey 0 0) = false ∧ s.ckHold (pageKey 0 0x18) = false) ∧
    (cmd [(0, 6)] true (.ran (some 0x10))).phase = .ran (some 0x10) ∧ (cmd [(0, 6)] true (.ran none)).fl = false ∧
    ∀ eng, let s := (queued (here []) eng (cmd [(0, 6)] true .stopped)).put (pageKey 0 (if eng = .copy then 0x18 else 0x10)) 8 0x10
      (s.queue (coreOf 0) eng).cmds = [cmd [(0, 6)] true .stopped] ∧ s.nat (pageKey 0 (if eng = .copy then 0x18 else 0x10)) 8 ≠ 0 ∧
      s.mayRelease 0 eng (cmd [(0, 6)] true .stopped) = true := by
  refine ⟨by decide +kernel, rfl, by decide +kernel, ?_⟩
  intro eng; cases eng <;> decide +kernel

/-! The matrix unit -/

/-- The head of the matrix queue may begin. -/
theorem mat_head {s : State} {op : Nat} {k : Cmd} (h : s.head 0 .matrix = some k ∧ k.retire = false ∧ k.phase = .fresh ∧ s.nat (pageKey k.g 0x10) 8 = 0 ∧
    s.paused 0 = false ∧ s.visible k.scope 0 k.obs = true ∧ (s.slot k.g).state ≠ .preempted ∧ (s.cluster 0).matrixQuarantined = false ∧
    (s.beginCmd 0 .matrix k).mayRelease 0 .matrix k = true ∧ s.ckHold (pageKey k.g 8) = false) (ho : k.op = op) : MatHead s 0 op k := by
  obtain ⟨h1, h2, h3, h4, h5, h6, h7, h8, h9, h10⟩ := h
  exact ⟨h1, ho, h2, by simp [State.mayBegin, h2, h3, h4, h5, h6], h7, .inl h8, h9, h10⟩
/-- The machine once the head of its matrix queue has begun. -/
def begins (s : State) (k : Cmd) : State := s.beginCmd 0 .matrix k

/-- MCTX of a block of zeros, MSTG of a region that ends with the program area and one that clears its stage, TNEW with a report. -/
def kMctx : Cmd := cmd [(0, 0x20), (8, 1), (32, 0x40)] true .fresh
def kMstg (clr : Nat) : Cmd := cmd [(0, 0x21), (8, 1), (36, clr), (64, 0x23BC0), (128, 1), (144, 1)] true .fresh
def kTnew : Cmd := cmd [(0, 0x23), (8, 1), (32, 64), (39, 128), (64, 4), (128, 0x23FE0)] true .fresh
theorem kMstg_bit : bit (kMstg 0).w.toNat 36 = false ∧ bit (kMstg 1).w.toNat 36 = true := by decide +kernel
theorem witness_contextsAndStages : (∃ u b, MatHead (queued (here []) .matrix kMctx) 0 0x20 kMctx ∧
      (begins (queued (here []) .matrix kMctx) kMctx).readFmt 0 kMctx (kMctx.a 32) 0 = (u, .ok (.ok b)) ∧ u.mayRelease 0 .matrix kMctx = true ∧
      u.ckHold (pageKey kMctx.g 8) = false ∧
      (u.queue 0 .matrix).cmds.map (fun x => (x.seq, x.g)) = ((queued (here []) .matrix kMctx).queue 0 .matrix).cmds.map fun x => (x.seq, x.g)) ∧
    (∀ clr ∈ [0, 1], MatHead (queued (here []) .matrix (kMstg clr)) 0 0x21 (kMstg clr)) ∧ ((queued (here []) .matrix (kMstg 0)).stage 0 0).filling = false ∧
    (queued (here []) .matrix (kMstg 0)).regionOk 0 ((kMstg 0).a 64) 1088 = true ∧ bit (kMstg 0).w.toNat 36 = false ∧ bit (kMstg 1).w.toNat 36 = true := by
  have h : okm ((begins (queued (here []) .matrix kMctx) kMctx).readFmt 0 kMctx (kMctx.a 32) 0).2 (fun p => match p with | .ok _ => true | _ => false) = true := by decide +kernel
  have hq : ((begins (queued (here []) .matrix kMctx) kMctx).readFmt 0 kMctx (kMctx.a 32) 0).1.mayRelease 0 .matrix kMctx = true ∧
    ((begins (queued (here []) .matrix kMctx) kMctx).readFmt 0 kMctx (kMctx.a 32) 0).1.ckHold (pageKey kMctx.g 8) = false ∧
    (((begins (queued (here []) .matrix kMctx) kMctx).readFmt 0 kMctx (kMctx.a 32) 0).1.queue 0 .matrix).cmds.map (fun x => (x.seq, x.g)) =
    ((queued (here []) .matrix kMctx).queue 0 .matrix).cmds.map fun x => (x.seq, x.g) := by decide +kernel
  obtain ⟨p, h1, h2⟩ := okm_ok h
  cases p with
  | error e => cases h2
  | ok b =>
    refine ⟨⟨_, b, mat_head (by decide +kernel) (by decide +kernel), mk_ok h1, hq.1, hq.2.1, hq.2.2⟩, ?_, by decide +kernel, by decide +kernel, kMstg_bit.1, kMstg_bit.2⟩
    intro clr hc
    have : ∀ clr ∈ [0, 1], ((queued (here []) .matrix (kMstg clr)).head 0 .matrix = some (kMstg clr) ∧ (kMstg clr).retire = false ∧ (kMstg clr).phase = .fresh ∧
      (queued (here []) .matrix (kMstg clr)).nat (pageKey (kMstg clr).g 0x10) 8 = 0 ∧ (queued (here []) .matrix (kMstg clr)).paused 0 = false ∧
      (queued (here []) .matrix (kMstg clr)).visible (kMstg clr).scope 0 (kMstg clr).obs = true ∧ ((queued (here []) .matrix (kMstg clr)).slot (kMstg clr).g).state ≠ .preempted ∧
      ((queued (here []) .matrix (kMstg clr)).cluster 0).matrixQuarantined = false ∧ ((queued (here []) .matrix (kMstg clr)).beginCmd 0 .matrix (kMstg clr)).mayRelease 0 .matrix (kMstg clr) = true ∧
      (queued (here []) .matrix (kMstg clr)).ckHold (pageKey (kMstg clr).g 8) = false) ∧
      (kMstg clr).op = 0x21 := by decide +kernel
    exact mat_head (this clr hc).1 (this clr hc).2

/-- A report of one part that ends with the program area. -/
theorem witness_reportsWritten : 0 < Config.cores ∧ coreOf kTnew.g = 0 ∧ ((queued (here []) .matrix kTnew).cluster (clusterOf 0)).fenced = false ∧
    (queued (here []) .matrix kTnew).head 0 .matrix = some kTnew ∧ (0x23FE0 : W64).toNat % 8 = 0 ∧ (0x23FE0 : W64).toNat + 8 ≤ 0x24000 ∧
    (queued (here []) .matrix kTnew).mayRelease 0 .matrix kTnew = true ∧ (queued (here []) .matrix kTnew).streaming = false ∧
    ∀ p ∈ [(16, 16, 5, clean)], (0x23FE0 : W64).toNat + p.1 + p.2.1 ≤ 0x24000 := by
  refine ⟨by decide, by decide, by decide +kernel, by decide +kernel, by decide, by decide, by decide +kernel, by decide +kernel, ?_⟩
  intro p hp
  rw [List.mem_singleton] at hp
  subst hp; decide

/-- A tile of the largest shape made, with a serial at hand; a unit that holds 256 tiles; a fenced cluster, whose report goes to global memory. -/
def making (k : Cmd) (tiles : List Tile) (f : Bool) : State :=
  ((queued (homed (here [])) .matrix k).modDie 0 fun x => { x with serials := (5, 6) }).modCluster 0 fun x => { x with tiles := tiles, fenced := f }
def manyTiles : List Tile := List.replicate 256 ⟨0, 0, 1, 1, 1, false, [], 0, 0, [], [], []⟩
def kTnewG : Cmd := cmd [(0, 0x23), (8, 1), (32, 64), (39, 128), (64, 4), (128, 0x4000000000000100)] true .fresh
def makes (k : Cmd) (tiles : List Tile) (f : Bool) : Prop := MatHead (making k tiles f) 0 0x23 k ∧ (plainTag (k.a 128) || tagOf (k.a 128) == 8) = true
def refusesTile (k : Cmd) (tiles : List Tile) (f : Bool) (st : Nat) : Bool := okm ((begins (making k tiles f) k).checkRs 0 k (k.a 128) 32 32).2 fun _ =>
  okm (((begins (making k tiles f) k).checkRs 0 k (k.a 128) 32 32).1.newTile 0 k.ctx 64 128 4 false) fun p =>
    (match p.2 with | .error e => e == st | .ok _ => false) && okm (p.1.report 0 k (k.a 128) st [(8, 8, 0, clean)]) fun _ => true
theorem refusesTile_ok {k : Cmd} {tiles : List Tile} {f : Bool} {st : Nat} (h : refusesTile k tiles f st = true) :
    ∃ u v t, (begins (making k tiles f) k).checkRs 0 k (k.a 128) 32 32 = (u, .ok ()) ∧
      u.newTile 0 k.ctx 64 128 4 false = .ok (v, .error st) ∧ v.report 0 k (k.a 128) st [(8, 8, 0, clean)] = .ok t := by
  obtain ⟨⟨⟩, a1, a⟩ := okm_ok h
  obtain ⟨⟨v, o⟩, a2, a⟩ := okm_ok a
  rw [Bool.and_eq_true] at a
  obtain ⟨a3, a⟩ := a
  obtain ⟨t, a4, -⟩ := okm_ok a
  cases o with
  | error e => rw [eq_of_beq a3] at a2; exact ⟨_, v, t, mk_ok a1, a2, a4⟩
  | ok e => cases a3
theorem witness_tilesMade : makes kTnew [] false ∧ makes kTnew manyTiles false ∧ makes kTnewG [] true ∧
    (∃ u v nm t, (begins (making kTnew [] false) kTnew).checkRs 0 kTnew (kTnew.a 128) 32 32 = (u, .ok ()) ∧ u.newTile 0 kTnew.ctx 64 128 4 false = .ok (v, .ok nm) ∧
      v.report 0 kTnew (kTnew.a 128) 0 [(8, 8, 0, clean), (16, 16, nm.toNat, clean)] = .ok t) ∧
    ∀ p ∈ [(kTnew, manyTiles, false, 0x11), (kTnewG, [], true, 0x10)], ∃ u v t, (begins (making p.1 p.2.1 p.2.2.1) p.1).checkRs 0 p.1 (p.1.a 128) 32 32 = (u, .ok ()) ∧
      u.newTile 0 p.1.ctx 64 128 4 false = .ok (v, .error p.2.2.2) ∧ v.report 0 p.1 (p.1.a 128) p.2.2.2 [(8, 8, 0, clean)] = .ok t := by
  have a : okm ((begins (making kTnew [] false) kTnew).checkRs 0 kTnew (kTnew.a 128) 32 32).2 (fun _ =>
      okm (((begins (making kTnew [] false) kTnew).checkRs 0 kTnew (kTnew.a 128) 32 32).1.newTile 0 kTnew.ctx 64 128 4 false) fun p =>
      xp p.2 fun nm => okm (p.1.report 0 kTnew (kTnew.a 128) 0 [(8, 8, 0, clean), (16, 16, nm.toNat, clean)]) fun _ => true) = true := by decide +kernel
  have b : refusesTile kTnew manyTiles false 0x11 = true := by decide +kernel
  have c : refusesTile kTnewG [] true 0x10 = true := by decide +kernel
  obtain ⟨⟨⟩, a1, a⟩ := okm_ok a
  obtain ⟨⟨v, o⟩, a2, a⟩ := okm_ok a
  obtain ⟨nm, rfl, a⟩ := xp_ok a
  obtain ⟨t, a3, -⟩ := okm_ok a
  refine ⟨⟨mat_head (by decide +kernel) (by decide +kernel), by decide +kernel⟩, ⟨mat_head (by decide +kernel) (by decide +kernel), by decide +kernel⟩,
    ⟨mat_head (by decide +kernel) (by decide +kernel), by decide +kernel⟩, ⟨_, v, nm, t, mk_ok a1, a2, a3⟩, fun p hp => ?_⟩
  rcases List.mem_pair.1 hp with rfl | rfl
  · exact refusesTile_ok b
  · exact refusesTile_ok c

/-- A name of a tile of cluster 0, its check code a free value. -/
def nm0 : W128 := State.reset.makeName 1 5 0
theorem nm0_fields (s : State) (hd : s.durable = State.reset.durable) : s.badName nm0 0 = false ∧ s.badName nm0 1 = false ∧ nmSerial nm0 = 5 ∧
    nmModule nm0 = 0 ∧ nmCluster nm0 = 0 := by
  have e : nm0 = s.makeName 1 5 0 := by unfold nm0 State.makeName State.check; rw [hd]
  rw [e]
  obtain ⟨a, b, c, d, -, f⟩ := name_fields s 1 0 (by rw [hd]; rfl) (by omega) (by omega) (by omega)
  exact ⟨a, b, c, d, f⟩

/-- A tile command of slot 0 that names the tile: its opcode, bit 12, the result address. -/
def tileCmd (op b rs : Nat) (p : Phase) : Cmd := ⟨BitVec.ofNat 512 (op + 2 ^ 8 + b * 2 ^ 12 + nm0.toNat * 2 ^ 32 + rs * 2 ^ 160), true, 0, 1, 0, false, p, [], 0⟩
theorem tileCmd_fields (op b rs : Nat) (p : Phase) (ho : op < 256) (hb : b < 2) (hr : rs < 2 ^ 64) : let k := tileCmd op b rs p
    k.op = op ∧ k.a 160 = w64 rs ∧ BitVec.ofNat 128 (k.f 159 32) = nm0 ∧ bit k.w.toNat 12 = (b == 1) ∧ k.f 225 224 = 0 ∧ k.f 255 232 = 0 := by
  have hn := nm0.isLt
  have hw : (tileCmd op b rs p).w.toNat = op + 2 ^ 8 + b * 2 ^ 12 + nm0.toNat * 2 ^ 32 + rs * 2 ^ 160 := by
    show (BitVec.ofNat 512 _).toNat = _
    rw [BitVec.toNat_ofNat]; apply Nat.mod_eq_of_lt; omega
  have hf : (tileCmd op b rs p).f 159 32 = nm0.toNat := by unfold Cmd.f bits fld; rw [hw]; omega
  refine ⟨?_, ?_, ?_, ?_, ?_, ?_⟩
  · unfold Cmd.op fld; rw [hw]; omega
  · unfold Cmd.a fld; rw [hw]; congr 1; omega
  · rw [hf, BitVec.ofNat_toNat, BitVec.setWidth_eq]
  · unfold bit fld; rw [hw]; congr 1; omega
  · unfold Cmd.f bits fld; rw [hw]; omega
  · unfold Cmd.f bits fld; rw [hw]; omega

/-- The tile: `m` by 4 of FP32, its extent 8. -/
def tile0 (frags : List (Nat × Nat)) : Tile := ⟨nm0, 0, 2, 4, 8, false, frags, 1, 0, [(0, 0x3F800000)], [], []⟩
def names0 : List NameEntry := [⟨nm0, 1, false, 0, 0, 9, 1⟩]
/-- `k` at the head of the matrix queue, the tile in cluster 0's unit, its name live and cached. -/
def tiled (s : State) (k : Cmd) (x : Tile) (l : List NameEntry) : State :=
  { (queued s .matrix k).modCluster 0 (fun y => { y with ncache := [⟨5, 1, 0, 0, 9⟩], tiles := [x] }) with names := l }

theorem tiled_facts (s : State) (k : Cmd) (x : Tile) (l : List NameEntry) (hm : s.miss = false) (hd : s.durable = State.reset.durable) :
    (tiled s k x l).names = l ∧ (tiled s k x l).miss = false ∧ (tiled s k x l).durable = State.reset.durable ∧
    ((tiled s k x l).cluster 0).ncache = [⟨5, 1, 0, 0, 9⟩] ∧ ((tiled s k x l).cluster 0).tiles = [x] ∧ (tiled s k x l).head 0 .matrix = some k := by
  refine ⟨rfl, hm, hd, ?_, ?_, ?_⟩
  · simp [tiled, State.cluster, State.modCluster]
  · simp [tiled, State.cluster, State.modCluster]
  · simp [tiled, queued, State.head, State.queue, State.core, State.modCore, State.modCluster]

theorem find_tile {t : State} {x : Tile} (hx : x.name = nm0) (hn : t.names = names0) (hs : t.miss = false) (hd : t.durable = State.reset.durable)
    (hc : (t.cluster 0).ncache = [⟨5, 1, 0, 0, 9⟩]) (ht : (t.cluster 0).tiles = [x]) : t.findTile 0 0 nm0 = (t, 0, some x) := by
  obtain ⟨-, h1, h5, hm, hcl⟩ := nm0_fields t hd
  have hr := live_resolve (cl := 0) (h := 0) hn (by rw [hd]; exact reset_module) h1 hm h5 hc hs
  unfold State.findTile
  rw [hr]
  have : t.tile nm0 = some x := by unfold State.tile; rw [hcl, ht]; simp [hx]
  simp [stOK, this]

/-- What an engine may write of its core's own local memory. -/
def ownOk (s : State) (k : Cmd) (ea : W64) (m : Nat) : Bool :=
  addrOk (isSup (coreOf k.g)) ea && tagOf (s.canon (coreOf k.g) ea) == 2 && s.localOk k.g (s.protSet 0 k.ctx) 1 (s.canon (coreOf k.g) ea) m && ! s.streaming
theorem access_own {s : State} {k : Cmd} {ea : W64} {m t : Nat} (h : ownOk s k ea m = true) :
    s.access k.g k.ctx (s.protSet 0 k.ctx) ea m .write t = .ok (s, lKey (s.canon (coreOf k.g) ea)) := by
  simp only [ownOk, Bool.and_eq_true, beq_iff_eq] at h
  obtain ⟨⟨⟨h1, h2⟩, h3⟩, h4⟩ := h
  unfold State.access
  rw [if_neg (by rw [h1]; simp)]
  show (match tagOf (s.canon (coreOf k.g) ea) with | 2 => _ | 4 => _ | 5 => _ | 8 => _ | _ => _) = _
  rw [h2]
  have h5 : s.streaming = false := by simpa using h4
  have h6 : s.ckHold (lKey (s.canon (coreOf k.g) ea)) = false := (slice_open s h5).2 _
  simp [h3, h6]
theorem eng_one {s : State} {k : Cmd} {ea : W64} {n : Nat} (f : Nat) (h : ownOk s k ea n = true) (h0 : 0 < n) (h1 : ea.toNat % 64 + n ≤ 64) :
    s.engCheck 0 k .write (f + 1) ea n = (s, .ok ()) := by
  have hm : min n (64 - ea.toNat % 64) = n := by omega
  simp only [State.engCheck, hm]
  rw [if_neg (by omega)]
  rw [show clusterOf 0 = 0 from rfl, access_own h]
  simp only [Nat.sub_self]
  cases f <;> simp [State.engCheck]
theorem rs_two {s : State} {k : Cmd} {ea : W64} (h : ownOk s k ea 64 = true) (h' : ownOk s k (ea + 64) 64 = true) (h1 : ea.toNat % 64 = 0) (h2 : (ea + 64).toNat % 64 = 0) :
    s.checkRs 0 k ea 64 128 = (s, .ok ()) := by
  unfold State.checkRs
  rw [if_neg (by simp [h1])]
  show s.engCheck 0 k .write 4 ea 128 = _
  unfold State.engCheck
  have hm : min 128 (64 - ea.toNat % 64) = 64 := by omega
  simp only [hm]
  rw [if_neg (by omega), show clusterOf 0 = 0 from rfl, access_own h]
  exact eng_one 2 h' (by omega) (by rw [show ea + w64 64 = ea + 64 from rfl]; omega)

theorem visible_here (s : State) (h : s.out = []) (sc : Scope) (c : Nat) (obs : List Nat) : s.visible sc c obs = true := by
  unfold State.visible; rw [h]; simp
theorem tiled_begin (k : Cmd) (x : Tile) (l : List NameEntry) (h : k.g = 0 ∧ k.obs = []) : let t := tiled (here []) k x l
    t.nat (pageKey k.g 0x10) 8 = 0 ∧ t.paused 0 = false ∧ t.visible k.scope 0 k.obs = true ∧ (t.slot k.g).state ≠ .preempted ∧ (t.cluster 0).matrixQuarantined = false ∧
    (t.beginCmd 0 .matrix k).mayRelease 0 .matrix k = true ∧ t.ckHold (pageKey k.g 8) = false := by
  rw [h.1, h.2]
  intro t
  have h1 : (here []).nat (pageKey 0 0x10) 8 = 0 ∧ (here []).paused 0 = false ∧ ((here []).slot 0).state ≠ .preempted ∧
    ((here []).cluster 0).matrixQuarantined = false := by decide +kernel
  refine ⟨h1.1, h1.2.1, visible_here _ rfl _ _ _, h1.2.2.1, ?_, visible_here _ rfl _ _ _, (slice_open t (by show (here []).streaming = false; decide +kernel)).2 _⟩
  rw [← h1.2.2.2]
  simp [t, tiled, State.cluster, State.modCluster, queued, State.modCore]
/-- Own local memory by offset. -/
theorem own_ok {s : State} {k : Cmd} {ea : W64} {m : Nat} (hk : k.g = 0) (hf : (s.cluster 0).fenced = false) (hs : s.streaming = false) (h : tagOf ea = 0 ∧ addrOk (isSup 0) ea = true ∧
    tagOf (mkAddr 2 (0 * 2 ^ 18 + fld ea.toNat 0 18)) = 2 ∧ lCore (mkAddr 2 (0 * 2 ^ 18 + fld ea.toNat 0 18)) = 0 ∧
    lOff (mkAddr 2 (0 * 2 ^ 18 + fld ea.toNat 0 18)) + m ≤ 0x24000) : ownOk s k ea m = true := by
  obtain ⟨h1, h2, h3, h4, h5⟩ := h
  have hg : coreOf k.g = 0 := by rw [hk]; rfl
  have hc : s.canon 0 ea = mkAddr 2 (0 * 2 ^ 18 + fld ea.toNat 0 18) := by unfold State.canon; simp only [h1]; rfl
  simp only [ownOk, hg, h2, hc, h3, State.localOk, h4, if_pos h5, show clusterOf 0 = 0 from rfl, hf, hs]
  rfl
theorem here_fenced : ((here []).cluster 0).fenced = false := by decide +kernel
theorem tiled_fenced (s : State) (k : Cmd) (x : Tile) (l : List NameEntry) : ((tiled s k x l).cluster 0).fenced = (s.cluster 0).fenced := by
  simp [tiled, State.cluster, State.modCluster, queued, State.modCore]


theorem begins_facts (s : State) (k : Cmd) : (begins s k).names = s.names ∧ (begins s k).miss = s.miss ∧ (begins s k).durable = s.durable ∧
    (begins s k).clusters = s.clusters := ⟨rfl, rfl, rfl, rfl⟩
/-- What a command that has begun finds of the tile, and of its own local memory. -/
theorem begins_find {s : State} {k : Cmd} {x : Tile} (hx : x.name = nm0) (hm : s.miss = false) (hd : s.durable = State.reset.durable) :
    (begins (tiled s k x names0) k).findTile 0 0 nm0 = (begins (tiled s k x names0) k, 0, some x) := by
  obtain ⟨g1, g2, g3, g4, g5, -⟩ := tiled_facts s k x names0 hm hd
  obtain ⟨b1, b2, b3, b4⟩ := begins_facts (tiled s k x names0) k
  have e := cluster_of b4 0
  exact find_tile hx (b1.trans g1) (b2.trans g2) (b3.trans g3) ((congrArg Cluster.ncache e).trans g4) ((congrArg Cluster.tiles e).trans g5)
theorem begins_fenced (k : Cmd) (x : Tile) (l : List NameEntry) : ((begins (tiled (here []) k x l) k).cluster 0).fenced = false :=
  (congrArg Cluster.fenced (cluster_of (begins_facts (tiled (here []) k x l) k).2.2.2 0)).trans ((tiled_fenced (here []) k x l).trans here_fenced)
/-- The report of a command whose queue has observed nothing, at a place it may write. -/
def reports (s : State) (k : Cmd) (rs : W64) (st : Nat) (ps : List Part) : Bool :=
  s.out.isEmpty && okm (s.parts 0 k rs ps).2 fun _ =>
    okm ((s.parts 0 k rs ps).1.engWriteLine 0 .matrix k rs 8 (k.result st 0) false ((s.parts 0 k rs ps).1.releases 0 .matrix k)).2 fun _ =>
      let t := ((s.parts 0 k rs ps).1.engWriteLine 0 .matrix k rs 8 (k.result st 0) false ((s.parts 0 k rs ps).1.releases 0 .matrix k)).1
      t.out.isEmpty && ! t.ckHold (pageKey k.g 8)
theorem release_free {s : State} (k : Cmd) (h : s.out.isEmpty = true) : s.mayRelease 0 .matrix k = true :=
  visible_here s (List.isEmpty_iff.mp h) _ _ _
theorem report_at {s : State} {k : Cmd} {rs : W64} {st : Nat} {ps : List Part} (h0 : rs ≠ 0) (h : reports s k rs st ps = true) :
    ∃ t, s.report 0 k rs st ps = .ok t := by
  rw [reports, Bool.and_eq_true] at h
  obtain ⟨⟨⟩, h1, h2⟩ := okm_ok h.2
  obtain ⟨⟨⟩, h3, h4⟩ := okm_ok h2
  simp only [Bool.and_eq_true, Bool.not_eq_true'] at h4
  unfold State.report
  rw [if_neg (by simp [release_free k h.1]), if_neg (fun e => h0 e.1), mk_ok h1]
  simp only [orError]
  rw [mk_ok h3]
  simp only []
  unfold State.matDone
  rw [if_neg (by simp [release_free k h4.1]), if_neg (by simp [h4.2])]
  exact ⟨_, rfl⟩

/-- TSTAT and TABANDON of the open tile, without a result address and with one that ends with the program area. -/
theorem witness_recordsReported : ∀ op ∈ [0x26, 0x27], ∀ rs ∈ [0, 0x23F80], let k := tileCmd op 0 rs .fresh
    let s := tiled (here []) k (tile0 [(0, 4)]) names0
    MatHead s 0 op k ∧ (if k.a 160 = 0 then begins s k = begins s k else (begins s k).checkRs 0 k (k.a 160) 64 128 = (begins s k, .ok ())) ∧
    (begins s k).findTile (clusterOf 0) k.ctx (BitVec.ofNat 128 (k.f 159 32)) = (begins s k, 0, some (tile0 [(0, 4)])) ∧
    (op = 0x27 → rs ≠ 0 → ∃ t, (begins s k).report 0 k (k.a 160) 0 [(8, 56, 0, clean), (64, 64, (tile0 [(0, 4)]).record (tile0 [(0, 4)]).state, clean)] = .ok t) := by
  intro op ho rs hr k s
  have ho' : op < 256 := by rcases List.mem_pair.1 ho with rfl | rfl <;> decide
  have hr' : rs < 2 ^ 64 := by rcases List.mem_pair.1 hr with rfl | rfl <;> decide
  obtain ⟨f1, f2, f3, f4, -⟩ := tileCmd_fields op 0 rs .fresh ho' (by omega) hr'
  have g6 := (tiled_facts (here []) k (tile0 [(0, 4)]) names0 (by decide +kernel) (by rfl)).2.2.2.2.2
  have hf := begins_fenced k (tile0 [(0, 4)]) names0
  have hs : (begins s k).streaming = false := by rfl
  rw [f2, f3]
  refine ⟨mat_head ⟨g6, rfl, rfl, tiled_begin _ _ _ ⟨rfl, rfl⟩⟩ f1, ?_, begins_find rfl (by decide +kernel) rfl, ?_⟩
  · split
    · rfl
    · rename_i h0
      rcases List.mem_pair.1 hr with rfl | rfl
      · exact absurd rfl h0
      · exact rs_two (own_ok rfl hf hs (by decide)) (own_ok rfl hf hs (by decide)) (by decide) (by decide)
  · rintro rfl h0
    rcases List.mem_pair.1 hr with rfl | rfl
    · exact absurd rfl h0
    · exact report_at (by decide) (by decide +kernel)

/-- TFWD of the tile to a name of this module (it is no live one), with status address `rs`, and its contribution on the way back. -/
def fwdW (op b rs : Nat) : W512 := BitVec.ofNat 512 (op + 2 ^ 8 + b * 2 ^ 12 + rs * 2 ^ 64 + nm0.toNat * 2 ^ 128)
def fwdCmd (b rs : Nat) (p : Phase) : Cmd := ⟨fwdW 0x24 b rs, true, 0, 1, 0, false, p, [], 0⟩
theorem fwd_fields (op b rs n : Nat) (ho : op < 256) (hb : b < 2) (hr : rs < 2 ^ 64) (hn : n < 2 ^ 128) :
    let w := op + 2 ^ 8 + b * 2 ^ 12 + rs * 2 ^ 64 + n * 2 ^ 128
    w < 2 ^ 256 ∧ w < 2 ^ 512 ∧ fld w 0 8 = op ∧ fld w 64 64 = rs ∧ fld w 128 128 = n ∧ fld w 12 1 = b := by
  unfold fld; omega
theorem fwdW_fields (op b rs : Nat) (ho : op < 256) (hb : b < 2) (hr : rs < 2 ^ 64) : let w := (fwdW op b rs).toNat
    fld w 0 8 = op ∧ fld w 64 64 = rs ∧ fld w 128 128 = nm0.toNat ∧ fld w 256 128 = 0 ∧ fld w 12 1 = b := by
  obtain ⟨h0, h1, h2, h3, h4, h5⟩ := fwd_fields op b rs _ ho hb hr nm0.isLt
  have hw : (fwdW op b rs).toNat = op + 2 ^ 8 + b * 2 ^ 12 + rs * 2 ^ 64 + nm0.toNat * 2 ^ 128 := (BitVec.toNat_ofNat _ _).trans (Nat.mod_eq_of_lt h1)
  simp only [hw]
  refine ⟨h2, h3, h4, ?_, h5⟩
  unfold fld
  rw [Nat.div_eq_of_lt h0, Nat.zero_mod]
theorem fwdCmd_fields (b rs : Nat) (p : Phase) (hb : b < 2) (hr : rs < 2 ^ 64) : let k := fwdCmd b rs p
    k.op = 0x24 ∧ k.a 64 = w64 rs ∧ BitVec.ofNat 128 (k.f 255 128) = nm0 ∧ nmModule (BitVec.ofNat 128 (k.f 383 256)) = 0 ∧ bit k.w.toNat 12 = (b == 1) := by
  obtain ⟨h1, h2, h3, h4, h5⟩ := fwdW_fields 0x24 b rs (by omega) hb hr
  exact ⟨h1, congrArg w64 h2, by rw [show (fwdCmd b rs p).f 255 128 = _ from h3, BitVec.ofNat_toNat, BitVec.setWidth_eq],
    by rw [show (fwdCmd b rs p).f 383 256 = _ from h4]; decide, by rw [bit, show fld (fwdCmd b rs p).w.toNat 12 1 = _ from h5]⟩
/-- The death of a tile begins; and ends for each of the three commands, with a result address that ends with the program area. -/
def dyingCmd (op : Nat) (p : Phase) : Cmd := if op = 0x24 then fwdCmd 1 0x23FF8 p else tileCmd op 1 0x23F80 p
def dead (op : Nat) : State := tiled (here []) (dyingCmd op (.dying 7 (tile0 [(0, 8)]) 0)) (tile0 [(0, 8)]) []
def lastWords (op : Nat) : List Part :=
  if op = 0x24 then [] else if op = 0x25 then [(64, 64, (tile0 [(0, 8)]).record 3, clean)] else [(8, 56, 0, clean), (64, 64, (tile0 [(0, 8)]).record 2, clean)]
theorem dead_reports : ∀ op ∈ [0x24, 0x25, 0x26], let k := dyingCmd op (.dying 7 (tile0 [(0, 8)]) 0)
    let rs := if op = 0x24 then 0x23FF8 else 0x23F80
    let s : State := { dead op with nameOps := (dead op).nameOps.filter fun o => o.id != 7 }
    reports s k rs 0 (lastWords op) = true := by decide +kernel
theorem witness_tilesDie : (∀ op ∈ [0x24, 0x25, 0x26], let s := tiled (here []) (dyingCmd op .fresh) (tile0 [(0, 8)]) names0
      s.head 0 .matrix = some (dyingCmd op .fresh) ∧ s.entry (nmSerial nm0) = some ⟨nm0, 1, false, 0, 0, 9, 1⟩) ∧
    ∀ op ∈ [0x24, 0x25, 0x26], let k := dyingCmd op (.dying 7 (tile0 [(0, 8)]) 0)
    (dead op).head 0 .matrix = some k ∧ k.op = op ∧ k.phase = .dying 7 (tile0 [(0, 8)]) 0 ∧ k.retire = false ∧ (∀ o ∈ (dead op).nameOps, o.id = 7 → o.acks = []) ∧
    ∃ t, ({ dead op with nameOps := (dead op).nameOps.filter fun o => o.id != 7 } : State).report 0 k (k.a (if op = 0x24 then 64 else 160)) 0 (lastWords op) = .ok t := by
  have hop : ∀ op ∈ [0x24, 0x25, 0x26], op = 0x24 ∨ op = 0x25 ∨ op = 0x26 := by simp
  refine ⟨fun op h => ?_, fun op h => ?_⟩
  · obtain ⟨g1, -, -, -, -, g6⟩ := tiled_facts (here []) (dyingCmd op .fresh) (tile0 [(0, 8)]) names0 (by decide +kernel) (by rfl)
    refine ⟨g6, ?_⟩
    unfold State.entry; rw [g1]; simp [names0]
  · have g6 := (tiled_facts (here []) (dyingCmd op (.dying 7 (tile0 [(0, 8)]) 0)) (tile0 [(0, 8)]) [] (by decide +kernel) (by rfl)).2.2.2.2.2
    have e : ∀ op, (dead op).nameOps = [] := fun _ => rfl
    have hr := dead_reports op h
    refine ⟨g6, ?_⟩
    have hlt : op < 256 := by rcases hop op h with rfl | rfl | rfl <;> decide
    rcases hop op h with rfl | rfl | rfl
    · obtain ⟨f1, f2, -⟩ := fwdCmd_fields 1 0x23FF8 (.dying 7 (tile0 [(0, 8)]) 0) (by decide) (by decide)
      refine ⟨f1, rfl, rfl, by rw [e]; simp, ?_⟩
      rw [if_pos rfl]
      show ∃ t, State.report _ 0 (dyingCmd 0x24 _) ((fwdCmd 1 0x23FF8 (.dying 7 (tile0 [(0, 8)]) 0)).a 64) 0 _ = .ok t
      rw [f2]; exact report_at (by decide) hr
    all_goals
      obtain ⟨f1, f2, -⟩ := tileCmd_fields _ 1 0x23F80 (.dying 7 (tile0 [(0, 8)]) 0) hlt (by decide) (by decide)
      refine ⟨f1, rfl, rfl, by rw [e]; simp, ?_⟩
      rw [if_neg (by decide)]
      show ∃ t, State.report _ 0 (dyingCmd _ _) ((tileCmd _ 1 0x23F80 (.dying 7 (tile0 [(0, 8)]) 0)).a 160) 0 _ = .ok t
      rw [f2]; exact report_at (by decide) hr

/-- TREAD of the complete tile, kept and retired; its rows follow the report. -/
def reading (b : Nat) : State := (begins (tiled (here []) (tileCmd 0x25 b 0x23F00 .fresh) (tile0 [(0, 8)]) names0) (tileCmd 0x25 b 0x23F00 .fresh)).tookTile 0 (tile0 [(0, 8)])
def readParts : List Part := (8, 56, 0, clean) :: ((List.range 2).map fun i => (128 + i * 16, 16, packN 32 (fun j => ((tile0 [(0, 8)]).elems.get 0 (128 * i + j)).toNat) 4, clean))
def readFrom (b : Nat) : State × Met Unit := (reading b).parts 0 (tileCmd 0x25 b 0x23F00 .fresh) 0x23F00 readParts
theorem read_parts : ∀ b ∈ [0, 1], okm (readFrom b).2 (fun _ => true) = true := by decide +kernel
theorem read_reports : let y := (readFrom 0).1
    let k := tileCmd 0x25 0 0x23F00 .fresh
    reports y k 0x23F00 0 [(64, 64, (tile0 [(0, 8)]).record 1, clean)] = true := by decide +kernel
theorem witness_tilesRead : ∀ b ∈ [0, 1], let k := tileCmd 0x25 b 0x23F00 .fresh
    let x := tile0 [(0, 8)]
    let s := tiled (here []) k x names0
    MatHead s 0 0x25 k ∧ k.a 160 = 0x23F00 ∧ BitVec.ofNat 128 (k.f 159 32) = nm0 ∧ k.f 225 224 = 0 ∧ k.f 255 232 = 0 ∧ bit k.w.toNat 12 = (b == 1) ∧
    (begins s k).checkRs 0 k 0x23F00 64 128 = (begins s k, .ok ()) ∧ (begins s k).findTile (clusterOf 0) k.ctx nm0 = (begins s k, 0, some x) ∧
    x.frags = [(0, x.k)] ∧ ¬ (x.int = true ∧ 0 ≠ 0) ∧
    (begins s k).engCheck 0 k .write (32 / 64 + 2) (0x23F00 + 128) 32 = (begins s k, .ok ()) ∧ x.bad = [] ∧
    ∃ y, ((begins s k).tookTile 0 x).parts 0 k 0x23F00 readParts = (y, .ok ()) ∧
      (b = 0 → ∃ t, y.report 0 k 0x23F00 0 [(64, 64, x.record 1, clean)] = .ok t) := by
  intro b hb k x s
  obtain ⟨f1, f2, f3, f4, f5, f6⟩ := tileCmd_fields 0x25 b 0x23F00 .fresh (by decide) (by rcases List.mem_pair.1 hb with rfl | rfl <;> decide) (by decide)
  have g6 := (tiled_facts (here []) k x names0 (by decide +kernel) (by rfl)).2.2.2.2.2
  have hf := begins_fenced k x names0
  have hs : (begins s k).streaming = false := by rfl
  obtain ⟨⟨⟩, h, -⟩ := okm_ok (read_parts b hb)
  refine ⟨mat_head ⟨g6, rfl, rfl, tiled_begin _ _ _ ⟨rfl, rfl⟩⟩ f1, f2, f3, f5, f6, f4,
    rs_two (own_ok rfl hf hs (by decide)) (own_ok rfl hf hs (by decide)) (by decide) (by decide),
    begins_find rfl (by decide +kernel) rfl, rfl, by simp, eng_one 1 (own_ok rfl hf hs (by decide)) (by decide) (by decide), rfl, (readFrom b).1, mk_ok h, ?_⟩
  rintro rfl
  exact report_at (by decide) read_reports

def contrib0 (st : Option (BitVec 8)) : Contrib := ⟨7, 0, nm0, 0, 0, 8, 2, 4, false, [(0, 0x3F800000)], false, [], st⟩
/-- The contribution returned: without and with a status address, and with the source to die. -/
def returned (b rs : Nat) (st : BitVec 8) : State := { tiled (here []) (fwdCmd b rs (.forwarding 7)) (tile0 [(0, 8)]) names0 with contribs := [contrib0 (some st)] }
theorem returned_reported : ∀ b ∈ [0, 1], ∀ st ∈ [(2 : BitVec 8), 3], let s := returned b 0x23FF8 st
    let k := fwdCmd b 0x23FF8 (.forwarding 7)
    let gone : State := { s with contribs := s.contribs.filter fun r => r.id != 7 }
    reports gone k 0x23FF8 st.toNat [] = true := by decide +kernel
theorem tile_here {s : State} {x : Tile} (hx : x.name = nm0) (h : (s.cluster 0).tiles = [x]) : s.tile nm0 = some x := by
  unfold State.tile
  rw [(nm0_fields State.reset rfl).2.2.2.2, h]; simp [hx]
theorem witness_tilesForwarded : (∀ rs ∈ [0, 0x23FF8], let k := fwdCmd 0 rs .fresh
      let x := tile0 [(0, 8)]
      let s := tiled (here []) k x names0
      MatHead s 0 0x24 k ∧ (if k.a 64 = 0 then begins s k = begins s k else (begins s k).checkRs 0 k (k.a 64) 8 8 = (begins s k, .ok ())) ∧
      (begins s k).findTile (clusterOf 0) k.ctx (BitVec.ofNat 128 (k.f 255 128)) = (begins s k, 0, some x) ∧
      nmCluster (BitVec.ofNat 128 (k.f 255 128)) = clusterOf 0 ∧ x.frags = [(0, x.k)] ∧ nmModule (BitVec.ofNat 128 (k.f 383 256)) = s.durable.module.toNat ∧
      (begins s k).durable = s.durable ∧ HeadAt (begins s k) 0 .matrix k .fresh) ∧
    ∀ b ∈ [0, 1], ∀ rs ∈ [0, 0x23FF8], ∀ st ∈ [(2 : BitVec 8), 3], let s := returned b rs st
      let k := fwdCmd b rs (.forwarding 7)
      s.contribs.find? (fun q => q.id == 7) = some (contrib0 (some st)) ∧ s.head 0 .matrix = some k ∧ k.phase = .forwarding 7 ∧
      bit k.w.toNat 12 = (b == 1) ∧ s.tile (BitVec.ofNat 128 (k.f 255 128)) = some (tile0 [(0, 8)]) ∧
      (rs ≠ 0 → ∃ t, ({ s with contribs := s.contribs.filter fun r => r.id != 7 } : State).report 0 k (k.a 64) st.toNat [] = .ok t) := by
  constructor
  · intro rs hr k x s
    obtain ⟨f1, f2, f3, f4, f5⟩ := fwdCmd_fields 0 rs .fresh (by decide) (by rcases List.mem_pair.1 hr with rfl | rfl <;> decide)
    obtain ⟨-, -, g3, -, -, g6⟩ := tiled_facts (here []) k x names0 (by decide +kernel) (by rfl)
    have hf := begins_fenced k x names0
    have hs : (begins s k).streaming = false := by rfl
    have hc := (nm0_fields State.reset rfl).2.2.2
    have hh : (begins s k).head 0 .matrix = some k := by
      simp [begins, s, tiled, State.beginCmd, State.modQueue, queued, State.head, State.queue, State.core, State.modCore, State.modCluster]
    rw [f2, f3, f4, g3]
    refine ⟨mat_head ⟨g6, rfl, rfl, tiled_begin _ _ _ ⟨rfl, rfl⟩⟩ f1, ?_, begins_find rfl (by decide +kernel) rfl, hc.2, rfl, reset_module.symm, rfl,
      k, hh, rfl, rfl, rfl, rfl, rfl, rfl⟩
    split
    · rfl
    · rename_i h0
      rcases List.mem_pair.1 hr with rfl | rfl
      · exact absurd rfl h0
      · unfold State.checkRs
        rw [if_neg (by decide)]
        exact eng_one 1 (own_ok rfl hf hs (by decide)) (by decide) (by decide)
  · intro b hb rs hr st hs s k
    obtain ⟨f1, f2, f3, f4, f5⟩ := fwdCmd_fields b rs (.forwarding 7) (by rcases List.mem_pair.1 hb with rfl | rfl <;> decide)
      (by rcases List.mem_pair.1 hr with rfl | rfl <;> decide)
    obtain ⟨-, -, -, -, g5, g6⟩ := tiled_facts (here []) k (tile0 [(0, 8)]) names0 (by decide +kernel) (by rfl)
    refine ⟨by rfl, g6, rfl, f5, by rw [f3]; exact tile_here rfl g5, fun h0 => ?_⟩
    rw [f2]
    rcases List.mem_pair.1 hr with rfl | rfl
    · exact absurd rfl h0
    have h := returned_reported b hb st hs
    exact report_at (by decide) h
theorem fld_low (L n lo len : Nat) (h : lo + len ≤ 256) : fld (L + n * 2 ^ 256) lo len = fld L lo len := by
  unfold fld
  obtain ⟨d, hd⟩ : ∃ d, 256 = lo + (len + d) := ⟨256 - lo - len, by omega⟩
  rw [show (2 : Nat) ^ 256 = 2 ^ lo * (2 ^ len * 2 ^ d) by rw [← Nat.pow_add, ← Nat.pow_add, ← hd], Nat.mul_left_comm, Nat.add_mul_div_left _ _ (Nat.two_pow_pos lo),
    Nat.mul_left_comm, Nat.add_mul_mod_self_left]
theorem fld_high (L n : Nat) (hL : L < 2 ^ 256) (hn : n < 2 ^ 128) : fld (L + n * 2 ^ 256) 256 128 = n ∧ L + n * 2 ^ 256 < 2 ^ 512 := by
  refine ⟨?_, ?_⟩
  · unfold fld
    rw [Nat.add_mul_div_right _ _ (Nat.two_pow_pos 256), Nat.div_eq_of_lt hL, Nat.zero_add, Nat.mod_eq_of_lt hn]
  · calc L + n * 2 ^ 256 < 2 ^ 256 + n * 2 ^ 256 := by omega
      _ = (n + 1) * 2 ^ 256 := by rw [Nat.add_mul, Nat.one_mul, Nat.add_comm]
      _ ≤ 2 ^ 128 * 2 ^ 256 := Nat.mul_le_mul_right _ hn
      _ < 2 ^ 512 := by rw [← Nat.pow_add]; exact Nat.pow_lt_pow_right (by decide) (by decide)

/-- Each clause on fragments of an extent of 100 at its edges. -/
theorem witness_contributionsDecided : let x : Tile := ⟨0, 0, 1, 1, 100, false, [(0, 10), (20, 30)], 0, 0, [], [], []⟩
    x.frags.Pairwise (fun a b => a.2 < b.1) ∧ (∀ f ∈ x.frags, f.1 < f.2) ∧ x.decide 2 1 false 10 20 false = .error 6 ∧ x.decide 1 1 false 10 10 false = .error 5 ∧
    x.decide 1 1 false 99 101 false = .error 5 ∧ x.decide 1 1 false 29 30 false = .error 2 ∧ x.decide 1 1 false 29 31 false = .error 3 ∧
    x.decide 1 1 false 10 20 true = .error 7 ∧ x.decide 1 1 false 10 20 false = .ok [(0, 30)] ∧ x.decide 1 1 false 99 100 false = .ok [(0, 10), (20, 30), (99, 100)] ∧
    (⟨0, 0, 1, 1, 100, false, [(0, 1), (2, 3), (4, 5), (6, 7), (8, 9), (10, 11)], 0, 0, [], [], []⟩ : Tile).decide 1 1 false 99 100 false = .error 4 := by decide

/-- A forwarded contribution at an empty tile, and at one that holds its interval. -/
theorem witness_contributionsArrive : ∀ fr ∈ [[], [(0, 8)]], let q := { contrib0 none with hi := 8 }
    let s : State := { tiled (here []) (fwdCmd 0 0 (.forwarding 7)) (tile0 fr) names0 with contribs := [q] }
    s.contribs.find? (fun q => q.id == 7 && q.status.isNone) = some q ∧ s.settled q.obs = true ∧ s.contribAhead q = false ∧ s.accHold (nmCluster q.nm) = false ∧ nmModule q.nm = s.durable.module.toNat ∧
    s.findTile (nmCluster q.nm) q.ctx q.nm = (s, 0, some (tile0 fr)) ∧
    (fr = [] → (tile0 fr).decide q.m q.n q.int q.lo q.hi q.poisoned = .ok [(0, (tile0 fr).k)]) ∧
    (fr ≠ [] → (tile0 fr).decide q.m q.n q.int q.lo q.hi q.poisoned = .error 2) ∧ (tile0 fr).m ≤ 64 ∧ (tile0 fr).n ≤ 128 := by
  intro fr hfr q s
  obtain ⟨g1, g2, g3, g4, g5, g6⟩ := tiled_facts (here []) (fwdCmd 0 0 (.forwarding 7)) (tile0 fr) names0 (by decide +kernel) (by rfl)
  have hc := (nm0_fields State.reset rfl).2.2.2
  have hst : s.streaming = false := by show (here []).streaming = false; decide +kernel
  refine ⟨by rfl, by rfl, by rfl, by unfold State.accHold State.rangeHeld; simp [hst], hc.1.trans reset_module.symm, ?_, ?_, ?_, (by decide : 2 ≤ 64), (by decide : 4 ≤ 128)⟩
  · rw [show nmCluster q.nm = 0 from hc.2]
    exact find_tile rfl g1 g2 g3 g4 g5
  · rintro rfl; rfl
  · intro h
    rcases List.mem_pair.1 hfr with rfl | rfl
    · exact absurd rfl h
    · rfl

/-- One for a tile of module 1: that is reached, and that is not. -/
def awayContrib : Contrib := { contrib0 none with nm := BitVec.ofNat 128 (2 ^ 112 + 1) }
theorem witness_contributionsLeave : ∀ s ∈ [peered [], here []], let t : State := { s with contribs := [awayContrib] }
    t.contribs.find? (fun q => q.id == 7 && q.status.isNone) = some awayContrib ∧ t.settled awayContrib.obs = true ∧ t.contribAhead awayContrib = false ∧
    nmModule awayContrib.nm ≠ t.durable.module.toNat ∧ t.reachable (clusterOf awayContrib.core / 32) awayContrib.id (nmModule awayContrib.nm) = ! s.links.isEmpty := by
  decide +kernel

/-- MPASS of columns 0 to 7 of the tile from stages 0 and 1; its name in the high half. -/
def passLow : Nat := 0x22 + 2 ^ 8 + 2 ^ 35 + 8 * 2 ^ 128
def passW (n : Nat) : W512 := BitVec.ofNat 512 (passLow + n * 2 ^ 256)
def passCmd (p : Phase) : Cmd := ⟨passW nm0.toNat, true, 0, 1, 0, false, p, [], 0⟩
theorem passW_low (n lo len : Nat) (hn : n < 2 ^ 128) (h : lo + len ≤ 256) : fld (passW n).toNat lo len = fld passLow lo len := by
  rw [← fld_low passLow n lo len h]
  exact congrArg (fun x => fld x lo len) ((BitVec.toNat_ofNat _ _).trans (Nat.mod_eq_of_lt (fld_high passLow n (by decide) hn).2))
theorem passW_high (n : Nat) (hn : n < 2 ^ 128) : fld (passW n).toNat 256 128 = n := by
  refine (congrArg (fun x => fld x 256 128) ((BitVec.toNat_ofNat _ _).trans (Nat.mod_eq_of_lt (fld_high passLow n (by decide) hn).2))).trans ?_
  exact (fld_high passLow n (by decide) hn).1
theorem passCmd_fields (p : Phase) : let k := passCmd p
    k.op = 0x22 ∧ k.f 34 32 = 0 ∧ k.f 37 35 = 1 ∧ bit k.w.toNat 38 = false ∧ bit k.w.toNat 39 = false ∧ k.f 63 48 = 0 ∧ k.f 79 64 = 0 ∧ k.f 127 96 = 0 ∧
    k.f 159 128 = 8 ∧ k.f 183 160 = 0 ∧ k.f 207 184 = 0 ∧ k.tileName = nm0 := by
  intro k
  have e : ∀ lo len, lo + len ≤ 256 → fld k.w.toNat lo len = fld passLow lo len := fun lo len h => passW_low _ lo len nm0.isLt h
  have f : ∀ hi lo, lo + (hi + 1 - lo) ≤ 256 → k.f hi lo = fld passLow lo (hi + 1 - lo) := fun hi lo h => e lo _ h
  refine ⟨(e 0 8 (by omega)).trans (by decide), (f _ _ (by omega)).trans (by decide), (f _ _ (by omega)).trans (by decide), ?_, ?_, (f _ _ (by omega)).trans (by decide), (f _ _ (by omega)).trans (by decide),
    (f _ _ (by omega)).trans (by decide), (f _ _ (by omega)).trans (by decide), (f _ _ (by omega)).trans (by decide), (f _ _ (by omega)).trans (by decide), ?_⟩
  · unfold bit; rw [e 38 1 (by omega)]; decide
  · unfold bit; rw [e 39 1 (by omega)]; decide
  · show BitVec.ofNat 128 (fld k.w.toNat 256 128) = nm0
    rw [show fld k.w.toNat 256 128 = _ from passW_high _ nm0.isLt, BitVec.ofNat_toNat, BitVec.setWidth_eq]

/-- The context of an integer format, one plane of each operand, accumulators of INT32. -/
def intFmt : FmtCtx := ⟨0, BitVec.ofNat 512 (2 ^ 10 + 2 ^ 16 + 2 ^ 22), 0, 0, false⟩
def intTile : Tile := { tile0 [] with int := true }
/-- The MPASS at the head of core 0's matrix queue, its stages registered in the program area, its context in force. -/
def passing (p : Phase) (a : Stage) : State := (tiled (here []) (passCmd p) intTile names0).modCore 0 fun x =>
  { x with fmt := some intFmt, stages := [(0, a), (1, ⟨true, true, 0x8000, 1, 1, 0, 0, 0, 0, false, false⟩)] }
def stageA : Stage := ⟨true, false, 0x1000, 1, 1, 0, 0, 0, 0, false, false⟩
theorem passing_facts (p : Phase) (a : Stage) : let s := passing p a
    s.names = names0 ∧ s.miss = false ∧ s.durable = State.reset.durable ∧ (s.cluster 0).ncache = [⟨5, 1, 0, 0, 9⟩] ∧ (s.cluster 0).tiles = [intTile] ∧
    s.head 0 .matrix = some (passCmd p) ∧ (s.core 0).fmt = some intFmt ∧ (s.core 0).stages = [(0, a), (1, ⟨true, true, 0x8000, 1, 1, 0, 0, 0, 0, false, false⟩)] := by
  obtain ⟨g1, g2, g3, g4, g5, g6⟩ := tiled_facts (here []) (passCmd p) intTile names0 (by decide +kernel) (by rfl)
  refine ⟨g1, g2, g3, g4, g5, ?_, ?_, ?_⟩
  · simpa [passing, State.head, State.queue, State.core, State.modCore] using g6
  · simp [passing, State.core, State.modCore]
  · simp [passing, State.core, State.modCore]
theorem passing_find (p : Phase) (a : Stage) : (passing p a).findTile 0 0 nm0 = (passing p a, 0, some intTile) := by
  obtain ⟨g1, g2, g3, g4, g5, -⟩ := passing_facts p a
  exact find_tile rfl g1 g2 g3 g4 g5

theorem begins_core (s : State) (k : Cmd) : (begins s k).core 0 =
    { s.core 0 with mxQ := { (s.core 0).mxQ with obs := union (s.core 0).mxQ.obs k.obs, hb := union (s.core 0).mxQ.hb k.obs } } := by
  simp [begins, State.beginCmd, State.modQueue, State.core, State.modCore]
/-- The machine as the MPASS has begun. -/
def begun : State := begins (passing .fresh stageA) (passCmd .fresh)
theorem begun_facts : begun.head 0 .matrix = some (passCmd .fresh) ∧ (begun.core 0).fmt = some intFmt ∧
    (begun.core 0).stages = [(0, stageA), (1, ⟨true, true, 0x8000, 1, 1, 0, 0, 0, 0, false, false⟩)] ∧ begun.findTile 0 0 nm0 = (begun, 0, some intTile) := by
  obtain ⟨g1, g2, g3, g4, g5, g6, g7, g8⟩ := passing_facts .fresh stageA
  obtain ⟨b1, b2, b3, b4⟩ := begins_facts (passing .fresh stageA) (passCmd .fresh)
  have e := cluster_of b4 0
  have ec := begins_core (passing .fresh stageA) (passCmd .fresh)
  refine ⟨?_, (congrArg Core.fmt ec).trans g7, (congrArg Core.stages ec).trans g8,
    find_tile rfl (b1.trans g1) (b2.trans g2) (b3.trans g3) ((congrArg Cluster.ncache e).trans g4) ((congrArg Cluster.tiles e).trans g5)⟩
  rw [← g6]
  simp only [State.head, State.queue, begun, ec]
  rfl

theorem pass_opndOk : ∀ p ∈ [(0x1000, 1088), (0x8000, 2112)], begun.opndOk 0 (passCmd .fresh) (BitVec.ofNat 64 p.1) p.2 = true := by decide +kernel
def stageB : Stage := ⟨true, true, 0x8000, 1, 1, 0, 0, 0, 0, false, false⟩
theorem intFmt_planes : intFmt.pa = 1 ∧ intFmt.pb = 1 ∧ intFmt.int = true := by decide +kernel
theorem pass_rights {s : State} {k : Cmd} (ha : s.stage 0 0 = stageA) (hb : s.stage 0 1 = stageB) (h1 : s.opndOk 0 k (stageA.base + w64 (0 / 128 * 1088)) (1 * 1088) = true)
    (h2 : s.opndOk 0 k (stageB.base + w64 (0 / 128 * 2112)) (1 * 2112) = true) (f2 : k.f 34 32 = 0) (f3 : k.f 37 35 = 1) (f4 : bit k.w.toNat 38 = false) (f8 : k.f 127 96 = 0)
    (f9 : k.f 159 128 = 8) (f10 : k.f 183 160 = 0) (f11 : k.f 207 184 = 0) :
    s.opndB 0 k 1 = (stageB.base, 0, 1) ∧ s.rights 0 k intFmt = (s, .ok none) := by
  have hB : s.opndB 0 k 1 = (stageB.base, 0, 1) := by unfold State.opndB Cmd.bws; rw [f4, f3, hb]; rfl
  have hbl : k.blocks = 1 := by unfold Cmd.blocks Cmd.len; rw [f8, f9, f10]
  obtain ⟨p1, p2, p3⟩ := intFmt_planes
  refine ⟨hB, ?_⟩
  unfold State.rights
  rw [p1, p2, p3, hB, hbl, f2, f10, f11, ha, show blockSize false 1 = 1088 by decide, show blockSize true 1 = 2112 by decide]
  show (if ¬ s.opndOk 0 k (stageA.base + w64 (0 / 128 * 1088)) (1 * 1088) = true then _ else if ¬ s.opndOk 0 k (stageB.base + w64 (0 / 128 * 2112)) (1 * 2112) = true then _ else _) = _
  rw [if_neg (by rw [h1]; simp), if_neg (by rw [h2]; simp)]
  rfl
theorem pass_fmt {s : State} (h : (s.core 0).fmt = some intFmt) (k : Cmd) : s.freshFmt 0 k = (s, .ok (.ok (some intFmt))) := by
  unfold State.freshFmt; rw [h]; rfl
theorem pass_begin : let s := passing .fresh stageA
    s.nat (pageKey 0 0x10) 8 = 0 ∧ s.paused 0 = false ∧ s.visible (passCmd .fresh).scope 0 [] = true ∧ (s.slot 0).state ≠ .preempted ∧ (s.cluster 0).matrixQuarantined = false ∧
    (s.beginCmd 0 .matrix (passCmd .fresh)).mayRelease 0 .matrix (passCmd .fresh) = true ∧ s.ckHold (pageKey 0 8) = false :=
  ⟨by decide +kernel, by decide +kernel, visible_here _ rfl _ _ _, by decide +kernel, by decide +kernel, visible_here _ rfl _ _ _,
    (slice_open _ (by show (here []).streaming = false; decide +kernel)).2 _⟩
/-- The hypotheses on a state, its MPASS, and what it comes to as that has begun. -/
def Accepted (s t : State) (k : Cmd) : Prop :=
    MatHead s 0 0x22 k ∧ t.freshFmt 0 k = (t, .ok (.ok (some intFmt))) ∧ intFmt.ctx = k.ctx ∧ bit k.w.toNat 39 = false ∧ bit k.w.toNat 38 = false ∧
    (t.stage 0 (k.f 34 32) = stageA ∧ stageA.gen.toNat = k.f 63 48 ∧ stageA.planes = intFmt.pa) ∧
    (t.stage 0 (k.f 37 35) = stageB ∧ stageB.gen.toNat = k.f 79 64 ∧ stageB.planes = intFmt.pb) ∧
    t.findTile (clusterOf 0) k.ctx (BitVec.ofNat 128 (k.f 383 256)) = (t, 0, some intTile) ∧ nmCluster (BitVec.ofNat 128 (k.f 383 256)) = clusterOf 0 ∧
    intTile.int = intFmt.int ∧ k.f 127 96 < k.f 159 128 ∧ k.f 159 128 ≤ intTile.k ∧ k.f 183 160 + (k.f 159 128 - k.f 127 96) ≤ stageA.nb * 128 ∧
    k.f 207 184 + (k.f 159 128 - k.f 127 96) ≤ (t.opndB 0 k intFmt.pb).2.2 * 128 ∧ t.rights 0 k intFmt = (t, .ok none) ∧ HeadAt t 0 .matrix k .fresh
theorem witness_passesAccepted : Accepted (passing .fresh stageA) (begins (passing .fresh stageA) (passCmd .fresh)) (passCmd .fresh) := by
  show Accepted (passing .fresh stageA) begun (passCmd .fresh)
  let k := passCmd .fresh
  obtain ⟨f1, f2, f3, f4, f5, f6, f7, f8, f9, f10, f11, f12⟩ := passCmd_fields .fresh
  obtain ⟨hh, hf, h, ht⟩ := begun_facts
  obtain ⟨p1, p2, p3⟩ := intFmt_planes
  have ha : begun.stage 0 0 = stageA := by unfold State.stage; rw [h]; rfl
  have hb' : begun.stage 0 1 = stageB := by unfold State.stage; rw [h]; rfl
  obtain ⟨hB, hr⟩ := pass_rights ha hb' (pass_opndOk (0x1000, 1088) (by decide)) (pass_opndOk (0x8000, 2112) (by decide)) f2 f3 f4 f8 f9 f10 f11
  unfold Accepted
  rw [show BitVec.ofNat 128 ((passCmd .fresh).f 383 256) = nm0 from f12, p1, p2, p3, hB, f2, f3, f6, f7, f8, f9, f10, f11]
  exact ⟨mat_head ⟨(passing_facts .fresh stageA).2.2.2.2.2.1, rfl, rfl, pass_begin⟩ f1, pass_fmt hf k, rfl, f5, f4, ⟨ha, rfl, rfl⟩, ⟨hb', rfl, rfl⟩, ht,
    (nm0_fields State.reset rfl).2.2.2.2, rfl, by decide, by decide, by decide, by decide, hr, k, hh, rfl, rfl, rfl, rfl, rfl, rfl⟩

theorem head_at {t : State} {c : Nat} {eng : Eng} {k : Cmd} (h : t.head c eng = some k) : HeadAt t c eng k k.phase := ⟨k, h, rfl, rfl, rfl, rfl, rfl, rfl⟩

/-- An MPASS of no tile at block `t` of 1, at the array of cluster 0, which is idle or not. -/
def runAt (t : Nat) : MpRun := ⟨t, 1, [], [], false, 0, 0, false, false, [], [], false, false, false⟩
def arrayCmd (p : Phase) : Cmd := cmd [(0, 0x22), (8, 1), (35, 1), (128, 8)] true p
def arrayed (p : Phase) (idle : Bool) : State := ((queued (here []) .matrix (arrayCmd p)).modCore 0 fun x =>
    { x with fmt := some intFmt, stages := [(0, stageA), (1, stageB)] }).modCluster 0 fun x => { x with arrayIdle := idle, lastPass := 0 }
def passes (b : Block) : Bool := match b with | .pass _ => true | _ => false
theorem arrayed_facts : ∀ n ∈ [0, 1], ∀ idle, let s := arrayed (.passing (runAt n)) idle
    (s.cluster 0).lastPass ≤ s.cycle ∧ s.cutting (32 * 0) = false ∧ (s.cluster 0).matrixQuarantined = false := by decide +kernel
/-- A name that is none is counted at its NSE. -/
def misnamed (s : State) (c : Nat) : State := (s.ineligible c).modDie (clusterOf c / 32) fun x => { x with badname := x.badname + 1 }
/-- An MPASS of no tile ends with BADNAME. -/
theorem finish_unnamed {s : State} {c : Nat} {k : Cmd} {r : MpRun} (h : s.settled (s.queue c .matrix).obs = true) (h1 : s.accHold (clusterOf c) = false)
    (h0 : k.tileName = 0) : s.finishPass c k r = ((misnamed s c).releaseStages c k).endPass c k 9 (if r.replayed then 0x12 else 0) := by
  unfold State.finishPass
  rw [if_neg (by simp [h]), if_neg (by simp [h1]), h0]
  simp only [State.contribute, State.findTile, zero_resolve]
  rfl
theorem arrayed_done : ∃ t, let s := arrayed (.passing (runAt 1)) false
    s.passed 0 = some (arrayCmd (.passing (runAt 1)), runAt 1) ∧ s.finishPass 0 (arrayCmd (.passing (runAt 1))) (runAt 1) = .ok t := by
  have h : let s := arrayed (.passing (runAt 1)) false
      s.passed 0 = some (arrayCmd (.passing (runAt 1)), runAt 1) ∧ s.settled (s.queue 0 .matrix).obs = true ∧ s.accHold 0 = false ∧
      (arrayCmd (.passing (runAt 1))).tileName = 0 ∧
      okm (((misnamed s 0).releaseStages 0 (arrayCmd (.passing (runAt 1)))).endPass 0 (arrayCmd (.passing (runAt 1))) 9 0) (fun _ => true) = true := by decide +kernel
  obtain ⟨h1, h2, h2', h3, h4⟩ := h
  obtain ⟨t, h4, -⟩ := okm_ok h4
  exact ⟨t, h1, (finish_unnamed h2 h2' h3).trans h4⟩
theorem finishes_none {s : State} {cl : Nat} (h : ∀ j ∈ List.range 32, s.passed (32 * cl + j) = none) : s.finishes cl = (s, none) := by
  unfold State.finishes
  generalize List.range 32 = l at h
  induction l with
  | nil => rfl
  | cons a l ih =>
    rw [List.foldl_cons, h a (List.mem_cons_self ..)]
    exact ih fun j hj => h j (List.mem_cons_of_mem _ hj)
theorem arrayed_block : ∀ idle, let s := arrayed (.passing (runAt 0)) idle
    let u := (s.eligible 0).1
    let r := u.block 0 (arrayCmd (.passing (runAt 0))) intFmt (runAt 0)
    (∀ j ∈ List.range 32, s.passed (32 * 0 + j) = none) ∧ u.granted? 0 (s.eligible 0).2 = some 0 ∧ u.running 0 = some (arrayCmd (.passing (runAt 0)), runAt 0) ∧ (u.core 0).fmt = some intFmt ∧
    passes r.2 = true ∧ u.idleArray 0 = idle ∧ (u.cluster 0).permitAsked = false ∧ r.1.clusters = u.clusters ∧
    r.1.head 0 .matrix = some (arrayCmd (.passing (runAt 0))) := by decide +kernel
theorem witness_arrayGrants : (∃ s t : State, ∃ k r, s.passed 0 = some (k, r) ∧ s.finishPass 0 k r = .ok t) ∧ ∀ idle, let s := arrayed (.passing (runAt 0)) idle
    s.finishes 0 = (s, none) ∧ ∃ u cs v r', s.eligible 0 = (u, cs) ∧ u.granted? 0 cs = some 0 ∧ u.running 0 = some (arrayCmd (.passing (runAt 0)), runAt 0) ∧
      (u.core 0).fmt = some intFmt ∧ u.block 0 (arrayCmd (.passing (runAt 0))) intFmt (runAt 0) = (v, .pass r') ∧ u.idleArray 0 = idle ∧
      (u.cluster 0).permitAsked = false ∧ v.clusters = u.clusters ∧ HeadAt v 0 .matrix (arrayCmd (.passing (runAt 0))) (arrayCmd (.passing (runAt 0))).phase := by
  refine ⟨let ⟨t, h⟩ := arrayed_done; ⟨_, t, _, _, h⟩, fun idle => ?_⟩
  obtain ⟨e0, e1, e2, e3, e4, e5, e6, e7, e8⟩ := arrayed_block idle
  refine ⟨finishes_none e0, ?_⟩
  generalize hx : (arrayed (.passing (runAt 0)) idle).eligible 0 = x at e1 e2 e3 e4 e5 e6 e7 e8
  obtain ⟨u, cs⟩ := x
  generalize hb : u.block 0 (arrayCmd (.passing (runAt 0))) intFmt (runAt 0) = b at e4 e7 e8
  obtain ⟨v, r⟩ := b
  cases r with
  | pass r' => exact ⟨u, cs, v, r', rfl, e1, e2, e3, hb, e5, e6, e7, head_at e8⟩
  | wait _ => cases e4
  | skip _ => cases e4
  | shape => cases e4
  | error _ => cases e4

/-- What the reads of a block of the pass above gave: no row is skipped, so that they do not depend on what goes on with them. -/
def isShape : Block → Bool
  | .shape => true
  | _ => false

theorem isShape_ok {b : Block} (h : isShape b = true) : b = .shape := by
  cases b <;> first | rfl | cases h

theorem witness_blocksMultiply : let k := arrayCmd (.passing (runAt 0))
    let s := arrayed (.passing (runAt 0)) false
    bit k.w.toNat 39 = false ∧ (s.blockReads 0 k intFmt 0 (fun s _ _ _ _ _ _ _ => (s, .shape)) (fun s _ => (s, .wait []))).2 = .shape ∧ 1 ≤ intFmt.pa ∧ 1 ≤ intFmt.pb := by
  refine ⟨by decide +kernel, isShape_ok (by decide +kernel), by decide +kernel, by decide +kernel⟩

/-- An MPASS with a skip list whose task's register is not bound yet; that has ended; with an item that skips two blocks and passes one. -/
def skipCmd : Cmd := cmd [(0, 0x22), (8, 1), (35, 1), (39, 1), (128, 8)] true .fresh
def skipping (st : Stream) : State := (queued (hereWith [] fun x => x.setSt 0 st) .matrix skipCmd).modCore 0 fun x => { x with fmt := some intFmt }
theorem witness_skipLists : bit skipCmd.w.toNat 39 = true ∧ intFmt.q = 0 ∧
    (∀ st ∈ [Stream.reset, ⟨some (.cpys 1), [2 + 2 ^ 32], false, false, 0⟩, ⟨some (.cpys 1), [], false, false, 0⟩], ((skipping st).core 0).fmt = some intFmt ∧
      ∃ h x, (skipping st).pusher 0 skipCmd = some h ∧ (skipping st).holder h = some (0, x) ∧ x.st 0 = st) ∧
    marks (2 + 2 ^ 32) = [false, false, true] ∧ Claims.pending { runAt 0 with skipLeft := 1, runLeft := 1, replay := [1] } = [false, true, false] ∧
    Claims.pending { runAt 0 with ended := true } = [] := by
  have h : ∀ st ∈ [Stream.reset, ⟨some (.cpys 1), [2 + 2 ^ 32], false, false, 0⟩, ⟨some (.cpys 1), [], false, false, 0⟩], ((skipping st).core 0).fmt = some intFmt ∧
      opp ((skipping st).pusher 0 skipCmd) (fun h => opp ((skipping st).holder h) fun p => p.1 == 0 && p.2.st 0 == st) = true := by decide +kernel
  refine ⟨by decide +kernel, by decide +kernel, fun st hs => ⟨(h st hs).1, ?_⟩, by decide +kernel, by decide +kernel, by decide +kernel⟩
  obtain ⟨h, e1, e2⟩ := opp_ok (h st hs).2
  obtain ⟨⟨g, x⟩, e3, e4⟩ := opp_ok e2
  simp only [Bool.and_eq_true, beq_iff_eq] at e4
  obtain ⟨rfl, e4⟩ := e4
  exact ⟨h, x, e1, e3, e4⟩

/-- Formats of each kind, one plane to the fewest, and elements: a zero, a NaN, padding. -/
theorem witness_elementsCoded : planesOk 1 1 = true ∧ planesOk 4 4 = true ∧ planesOk 16 2 = true ∧ intElem 1 0 = -1 ∧ intElem 4 0xF = -1 ∧
    floatElem 16 0x7FC0 = none ∧ floatElem 16 0x8000 = some 0 ∧ floatElem 14 0x38 = some 1 := by decide +kernel

theorem witness_offersMade : let s := passing (.passing (runAt 1)) stageA
    let k := passCmd (.passing (runAt 1))
    (s.core 0).fmt = some intFmt ∧ s.settled (s.queue 0 .matrix).obs = true ∧ s.accHold (clusterOf 0) = false ∧
    (s.modCore 0 fun y => { y with eligible := false }).findTile (clusterOf 0) k.ctx k.tileName = (s.modCore 0 fun y => { y with eligible := false }, 0, some intTile) := by
  obtain ⟨g1, g2, g3, g4, g5, -, g7, -⟩ := passing_facts (.passing (runAt 1)) stageA
  refine ⟨g7, by rfl, ?_, ?_⟩
  · have hst : (passing (.passing (runAt 1)) stageA).streaming = false := by show (here []).streaming = false; decide +kernel
    unfold State.accHold State.rangeHeld; simp [hst]
  · rw [(passCmd_fields (.passing (runAt 1))).2.2.2.2.2.2.2.2.2.2.2]
    exact find_tile rfl g1 g2 g3 g4 g5

/-- 512 cycles after the last pass; the first request of a die, and one an interval after a permit; a held MPASS. -/
def idled : State := { (here []).modCluster 0 (fun x => { x with lastPass := 7 }) with cycle := 519 }
def asked (last : Option Nat) (cy : Nat) : State := { (here []).modDie 0 (fun x => { x with gov := { x.gov with asking := [3, 4], lastPermit := last } }) with cycle := cy }
theorem witness_arrayEvents : (idled.cluster 0).lastPass + 512 ≤ idled.cycle ∧
    (∀ p ∈ [(none, 0), (some 5, 5 + ((here []).die 0).gov.interval)], let g := ((asked p.1 p.2).die 0).gov
      g.asking = 3 :: [4] ∧ g.throttled = false ∧ ∀ t, g.lastPermit = some t → t + g.interval ≤ (asked p.1 p.2).cycle) ∧
    let s := arrayed (.replay (runAt 1)) false
    let k := arrayCmd (.replay (runAt 1))
    s.head 0 .matrix = some k ∧ k.phase = .replay (runAt 1) ∧ k.retire = false ∧ (s.slot k.g).state ≠ .preempted := by
  refine ⟨by decide +kernel, ?_, by decide +kernel⟩
  intro p hp
  have h : ∀ p ∈ [(none, 0), (some 5, 5 + ((here []).die 0).gov.interval)], let g := ((asked p.1 p.2).die 0).gov
      g.asking = 3 :: [4] ∧ g.throttled = false ∧ g.lastPermit = p.1 ∧ p.1.all (fun t => decide (t + g.interval ≤ (asked p.1 p.2).cycle)) = true := by decide +kernel
  obtain ⟨h1, h2, h3, h4⟩ := h p hp
  refine ⟨h1, h2, fun t ht => ?_⟩
  obtain ⟨a, b⟩ := p
  dsimp only at h3 h4
  rw [h3] at ht
  subst ht
  exact of_decide_eq_true h4

/-! The services of a die -/

def dieWith (f : Die → Die) : State := (here []).modDie 0 f
theorem witness_translationsInvalidated : (∀ n ∈ [0, 0x3FFFF], let v := w64 n; v.toNat < 2 ^ 18 ∧ ((here []).die 0).tcinv = none ∧ ((dieWith fun x => { x with tcinv := some v }).die 0).tcinv = some v) ∧
    2 ^ 18 ≤ (0x40000 : W64).toNat ∧ ((dieWith fun x => { x with tcinv := some 5 }).die 0).tcinv ≠ none := by decide +kernel

/-- Context 0 with a table of homes that names die `h` for region 0, a table of pages that maps its first 2 MiB to 0x200000 with the low byte `e`, and a
request to move that page to 0x400000 (its bits 23:16 `flags`, bits 15:8 of the target `pa1`). -/
def tabled (h e flags pa1 : Nat) (f : Die → Die) : State := { dieWith f with
  mem := (([(0, 1), (2, 1), (8, 1), (0xA, 3), (0x10000, 1), (0x10002, 2), (0x20000, 1), (0x20001, 0x10), (0x20002, 2)] : List (Nat × Nat)) ++
    (if e = 0 then [] else [(0x21000, e), (0x21002, 0x20)]) ++ [(0x30000, 1), (0x30002, 4)] ++ (if h = 0 then [] else [(0x40000, 32 * h)]) ++
    [(0x40001, 0x80), (0x50002, flags)] ++ (if pa1 = 0 then [] else [(0x50011, pa1)]) ++ [(0x50012, 0x40), (0x5001A, 6)]).map fun (p : Nat × Nat) => (2 ^ 48 + p.1, BitVec.ofNat 8 p.2) }
def manyFwd (n : Nat) : List Fwd := (List.range n).map fun i => ⟨0, i + 1, none⟩
theorem witness_homesMoved : let s := fun (h n : Nat) (v : W64) => tabled h 3 1 0 fun x => { x with rhreq := some v, fwd := manyFwd n }
    (∀ n ∈ [0, 0x10000], let v := w64 n; v.toNat / 2 ^ 17 % 2 ^ 4 = 0 ∧ v.toNat < 2 ^ 52 ∧ ((here []).die 0).rhreq = none ∧ ((s 0 0 v).die 0).rhreq = some v ∧ ((s 0 0 v).die 0).migs = []) ∧
    bit (0 : W64).toNat 16 = false ∧ bit (0x10000 : W64).toNat 16 = true ∧ (s 0 0 0).leafHome 0 0 0 = some 0 ∧
    ((s 1 256 0).leafHome 0 0 0 = some 1 ∧ 256 ≤ ((s 1 256 0).die 0).fwd.length) ∧ ((s 1 255 0).leafHome 0 0 0 = some 1 ∧ ((s 1 255 0).die 0).fwd.length < 256) ∧
    (((s 1 255 0x10000).die 0).fwd.any fun f => f.ctx == 0 && f.region == 0) = false ∧
    (((dieWith fun x => { x with rhreq := some 0x10000, fwd := [⟨0, 0, some 1⟩] }).die 0).fwd.any fun f => f.ctx == 0 && f.region == 0) = true := by decide +kernel

def migS (h e flags pa1 n : Nat) : State := tabled h e flags pa1 fun x => { x with migs := List.replicate n ⟨0, 1, 0, false, 0, 0, 0, 0, 0⟩ }
def leafOf (s : State) : Option (Nat × Nat) := match s.walk 0 0 0 with
  | .ok (at_, e, lvl) => if lvl = 2 then some (at_, e) else none
  | .error _ => none
/-- The states: with a request against the rules, with the target not aligned, with the page pinned, with four migrations, and in order with and without the leaf. -/
theorem mig_states : ∀ q ∈ [(3, 3, 0, 0), (3, 1, 1, 0), (0x43, 1, 0, 0), (3, 1, 0, 4), (3, 1, 0, 3), (0, 1, 0, 3)],
    (migS 0 q.1 q.2.1 q.2.2.1 q.2.2.2).forward 0 0 0 = none ∧ (migS 0 q.1 q.2.1 q.2.2.1 q.2.2.2).leafHome 0 0 0 = some 0 ∧
    ((migS 0 q.1 q.2.1 q.2.2.1 q.2.2.2).die 0).migs.length = q.2.2.2 ∧ leafOf (migS 0 q.1 q.2.1 q.2.2.1 q.2.2.2) = (if q.1 = 0 then none else some (0x21000, 0x200000 + q.1)) := by decide +kernel
theorem mig_requests : ∀ q ∈ [(3, 0), (1, 1), (1, 0)], (migS 0 3 q.1 q.2 0).nat (rimKey 0x50000) 32 / 2 ^ 17 % 2 ^ 47 = q.1 / 2 ∧
    (migS 0 3 q.1 q.2 0).nat (rimKey 0x50000) 32 / 2 ^ 128 % 2 ^ 64 = 0x400000 + 0x100 * q.2 := by decide +kernel
theorem witness_migrationsBegin : (0x50000 : W64).toNat % 32 = 0 ∧ (0x50000 : W64).toNat < 2 ^ 48 ∧ (migS 1 3 1 0 0).leafHome 0 0 0 ≠ some 0 ∧
    bit 0x200043 6 = true ∧ unpopulated 0x400000 = false ∧ 0x400100 % 2 ^ 21 ≠ 0 ∧ 0x400000 % 2 ^ 21 = 0 := by decide +kernel

/-- A migration under way: with a poisoned source, with its entry changed, and ready. -/
def aMig : Mig := ⟨7, 0, 0, true, 0x200000, 0x400000, 0x60000, 0x21000, 0x200003⟩
def migrating (e : Nat) (p : Tab (BitVec 3)) : State := { tabled 0 e 1 0 fun x => { x with migs := [aMig] } with poison := p }
theorem witness_migrationsEnd : ((migrating 3 [((2 ^ 48 + 0x3FFFC0) / 64, 4)]).Inv ∧ (((2 ^ 48 + 0x3FFFC0) / 64, 4) ∈ (migrating 3 [((2 ^ 48 + 0x3FFFC0) / 64, 4)]).poison ∧
      rimKey 0x200000 / 64 ≤ (2 ^ 48 + 0x3FFFC0) / 64 ∧ (2 ^ 48 + 0x3FFFC0) / 64 < (rimKey 0x200000 + 2 ^ 21) / 64 ∧ bit (4 : BitVec 3).toNat 2 = true)) ∧
    (∀ e ∈ [3, 0x13], (migrating e []).Inv ∧ ((migrating e []).die 0).migs.find? (fun m => m.id == 7) = some aMig ∧
      (migrating e []).poison = [] ∧ (migrating e []).nat (rimKey 0x21000) 8 = 0x200000 + e ∧ (migrating e []).ckHold (rimKey 0x400000) = false ∧
      (migrating e []).ckHold (rimKey 0x60000) = false) := by
  have h : ∀ p ∈ [(3, [((2 ^ 48 + 0x3FFFC0) / 64, 4)]), (3, []), (0x13, [])], Memory.wf (migrating p.1 p.2).mem = true ∧ (migrating p.1 p.2).cut = none ∧ (migrating p.1 p.2).tier = [] := by decide +kernel
  have hi : ∀ p ∈ [(3, [((2 ^ 48 + 0x3FFFC0) / 64, (4 : BitVec 3))]), (3, []), (0x13, [])], (migrating p.1 p.2).Inv := by
    intro p hp
    obtain ⟨a, b, c⟩ := h p hp
    exact ⟨a, fun m hm => (by rw [b] at hm; cases hm), fun e he => (by rw [c] at he; cases he)⟩
  refine ⟨⟨hi (3, _) (List.mem_cons_self ..), List.mem_singleton.2 rfl, by decide, by decide, by decide⟩, fun e he => ?_⟩
  have g : ∀ e ∈ [3, 0x13], ((migrating e []).die 0).migs.find? (fun m => m.id == 7) = some aMig ∧ (migrating e []).poison = [] ∧ (migrating e []).nat (rimKey 0x21000) 8 = 0x200000 + e ∧
      (migrating e []).ckHold (rimKey 0x400000) = false ∧ (migrating e []).ckHold (rimKey 0x60000) = false := by decide +kernel
  refine ⟨?_, g e he⟩
  rcases List.mem_pair.1 he with rfl | rfl
  · exact hi (3, []) (by decide)
  · exact hi (0x13, []) (by decide)

/-- Memory that holds one table entry `e` of 8 bytes at the address `at_`. -/
def entryMem (at_ e : Nat) : Tab Byte := ((List.range 8).map fun i => (rimKey at_ + i, BitVec.ofNat 8 (e / 2 ^ (8 * i)))).filter fun p => p.2 != 0
/-- An entry that is not valid; with bit 7, a bit above the address, an address above the stacks; a leaf at level 3, out of line, in line; a pointer at level 1,
out of line, in line. -/
theorem witness_walkLevels : (0 : Nat) < 2 ^ 52 ∧ memNat [] (rimKey 0x1000) 8 % 2 = 0 ∧
    (∀ e ∈ [0x81, 2 ^ 48 + 1, 2 ^ 41 + 1, 0xC00000001], memNat (entryMem 0x1000 e) (rimKey 0x1000) 8 % 2 = 1 ∧
      (e / 2 ^ 7 % 2 = 1 ∨ e / 2 ^ 48 ≠ 0 ∨ 2 ^ 41 ≤ e / 2 ^ 8 % 2 ^ 40 * 2 ^ 8 ∨ 0xC00000000 ≤ e / 2 ^ 8 % 2 ^ 40 * 2 ^ 8 % 2 ^ 36)) ∧
    (∀ q ∈ [(3, 0x200003), (2, 0x10003), (2, 0x200003), (1, 0x10003), (1, 0x10001), (3, 0x101), (2, 0x101), (2, 0x10001)],
      memNat (entryMem 0x1000 q.2) (rimKey 0x1000) 8 = q.2 ∧ 1 ≤ q.1 ∧ q.1 ≤ 4 ∧ q.2 % 2 = 1 ∧
      ¬ (q.2 / 2 ^ 7 % 2 = 1 ∨ q.2 / 2 ^ 48 ≠ 0 ∨ 2 ^ 41 ≤ q.2 / 2 ^ 8 % 2 ^ 40 * 2 ^ 8 ∨ 0xC00000000 ≤ q.2 / 2 ^ 8 % 2 ^ 40 * 2 ^ 8 % 2 ^ 36)) := by decide +kernel

/-- An entry kept, written or not; and tables, with no context, with no leaf, and with a leaf of each right. -/
def kept (dirty w : Bool) : State := dieWith fun x => { x with tc := [⟨0, 0x10000, 0x20000, 2 ^ 16, w, false, dirty⟩] }
theorem witness_pagesTranslated : (∀ q ∈ [(true, true, Kind.write), (true, false, .write), (false, true, .read), (false, true, .fetch)], (kept q.1 q.2.1).poison = [] ∧
      ((kept q.1 q.2.1).tcHit 0 0 0x10008 q.2.2).isSome = true) ∧
    ((here []).tcHit 0 0 0 .read = none ∧ (here []).nat (rimKey ((here []).die 0).ctxtab.toNat) 8 % 2 = 0) ∧
    (∀ e ∈ [0, 3, 7, 0xB, 0xF], let s := tabled 0 e 0 0 id
      s.poison = [] ∧ s.tcHit 0 0 0 .write = none ∧ s.nat (rimKey (s.die 0).ctxtab.toNat) 8 % 2 = 1) ∧
    leafOf (tabled 0 0 0 0 id) = none ∧ ∀ e ∈ [3, 7, 0xB, 0xF], leafOf (tabled 0 e 0 0 id) = some (0x21000, 0x200000 + e) := by decide +kernel

/-- A region in the cache; with no context; and with tables that have a home, and none. -/
theorem witness_regionsFound : (((here []).modCluster 0 fun x => { x with rhcache := [⟨0, 0, 5⟩] }).cluster 0).rhcache.find? (fun e => e.ctx == 0 && e.region == 0) = some ⟨0, 0, 5⟩ ∧
    ((tabled 3 3 0 0 id).poison = [] ∧ (tabled 3 3 0 0 id).miss = false ∧ ((tabled 3 3 0 0 id).cluster 0).rhcache = []) ∧
    ((tabled 3 3 0 0 id).nat (rimKey 0) 8 % 2 = 1 ∧ (tabled 3 3 0 0 id).nat (rimKey 8) 8 = 0x30001 ∧ (tabled 3 3 0 0 id).nat (rimKey 0x30000) 8 = 0x40001 ∧
      (tabled 3 3 0 0 id).nat (rimKey 0x40000) 2 / 2 ^ 15 = 1) ∧ (here []).nat (rimKey 0) 8 % 2 = 0 := by decide +kernel

/-- A system table that lists module 7; port 1 up to module `peer`, or down, barred or not. -/
def listed (n peer : Nat) (up barred : Bool) : State := { here [] with
  bringUp := n, mem := [(2 ^ 48 + 0x1000, 7), (2 ^ 48 + 0x1002, 1)]
  links := [(1, { Link.reset with peer := BitVec.ofNat 16 peer, up := up, barred := barred })] }
theorem witness_samplesAndTables : (∀ n ∈ [4 * 16 + 8 * 2 ^ 16, 20 * 16 + 24 * 2 ^ 16 + 1], n / 2 % 2 ^ 3 = 0 ∧ n / 2 ^ 9 % 2 ^ 7 = 0 ∧ n < 2 ^ 21 ∧ 4 ≤ n / 2 ^ 4 % 2 ^ 5 ∧
      n / 2 ^ 4 % 2 ^ 5 ≤ 20 ∧ 8 ≤ n / 2 ^ 16 % 2 ^ 5 ∧ n / 2 ^ 16 % 2 ^ 5 ≤ 24) ∧ ¬ (3 * 16 + 8 * 2 ^ 16) / 2 ^ 4 % 2 ^ 5 ≥ 4 ∧
    ((listed 7 7 true false).bringUp < 8 ∧ 0x1000 % 2 ^ 12 = 0 ∧ 0x1000 < 2 ^ 48) ∧
    (∀ q ∈ [(8, true, false), (7, false, true), (7, true, false), (7, false, false), (8, false, true)], let x := (listed 8 q.1 q.2.1 q.2.2).link 1
      x.peer.toNat = q.1 ∧ x.up = q.2.1 ∧ x.barred = q.2.2 ∧ (listed 8 q.1 q.2.1 q.2.2).tableAt 0x1000 = [7]) ∧ 1 % 2 ^ 12 ≠ 0 := by decide +kernel

/-- A die that is asked for a change of its weight store, with a WLOAD of core 0 queued. -/
def changing (v : Nat) (k : Cmd) (ahead : List (Nat × W64)) : State :=
  (queued (here []) .copy k).modDie 0 fun x => { x with wsWant := some (w64 v), wsAhead := ahead }
def aWload : Cmd := cmd [(0, 7)] false .fresh
theorem witness_weightRights : (∀ v ∈ [1, 2 ^ 16, 2 ^ 32 - 2 ^ 16 + 1], v / 2 % 2 ^ 15 = 0 ∧ v < 2 ^ 32 ∧ bit v 0 = (v % 2 == 1)) ∧ ((here []).die 0).wsWant = none ∧
    ((changing 1 aWload []).wloadsOf 0 = [(0, 1)] ∧ ((changing 1 aWload []).die 0).wsWant = some 1 ∧ ((changing 1 aWload []).die 0).wsAhead = []) ∧
    ((changing 1 aWload [(0, 1)]).wloadsOf 0 = [(0, 1)] ∧ ((changing 1 aWload [(0, 1)]).die 0).wsAhead = [(0, 1)]) ∧
    ((changing 0 aWload []).wsMatrix 0 = false ∧ (changing 0 aWload []).loads = []) ∧
    ({ changing 0 aWload [] with loads := [aLoad 0x5000000000000000] } : State).loads.any (fun l => tagOf l.addr == 5 && l.cluster / 32 == 0 && l.reply.isNone) = true := by decide +kernel
def slotIs (f : Slot → Slot) : State := hereWith [] f

/-- A load of the weight store at its die, that its window held, or that came after it. -/
def wsLoading (held : List (Nat × Nat × Nat)) : State := ({ slotIs fun y => { y with descs := [(0, BitVec.ofNat 128 (0x5000000002000000 + 2 ^ 76 + 2 ^ 112 + 2 ^ 113))] } with
  loads := [aLoad 0x5000000002000000] } : State).modDie 0 fun x => { x with wsRead := true, wsCtx := 0, wsHeld := held }
theorem witness_weightRefresh : (∀ c ∈ [0, 29999, 30000, 2999999, 3000000], ({ here [] with cycle := c } : State).wsPhase 0 = c) ∧
    ∀ h ∈ [[], [(1, 1, 0)]], let s := wsLoading h
      s.loads.find? (fun l => l.id == 1 && l.reply.isNone && tagOf l.addr == 5) = some (aLoad 0x5000000002000000) ∧ (aLoad 0x5000000002000000).cluster / 32 = 0 ∧
      s.wsReadable 0 0 (s.slot 0).descs 0x5000000002000000 8 = true ∧ s.wsFree 0 0x2000000 1 = true := by decide +kernel

/-! Slot control and die debug -/

theorem witness_slotsComeBack : (∀ x ∈ [SlotState.empty, .running, .held, .frozen], let s := slotIs fun y => { y with state := x }
      (s.slot 0).state = x ∧ (s.slot 0).busy = false ∧ (s.slot 0).packet = none ∧ (s.core (coreOf 0)).quarantined = false ∧ (s.slot 0).inspect = false) ∧
    ((slotIs fun y => { y with state := .frozen, inspect := true }).slot 0).inspect = true ∧
    (((here []).modCore 0 fun x => { x with quarantined := true }).core (coreOf 0)).quarantined = true := by decide +kernel
theorem witness_contextsRestored : let s := slotIs fun y => { y with state := .preempted }
    (s.slot 0).busy = false ∧ (s.slot 0).packet = none ∧ (s.core (coreOf 0)).quarantined = false ∧ (s.slot 0).state = .preempted ∧ (s.slot 0).spilled = false ∧
    s.restorePoisoned 0 = none := by decide +kernel
theorem witness_slotsKilled : ((slotIs fun y => { y with state := .empty }).slot 0).state = .empty ∧
    (((slotIs fun y => { y with begun := true }).slot 0).state ≠ .empty ∧ (slotIs fun y => { y with begun := true }).boundary 0 = false) ∧
    ∀ n ∈ [true, false], let s := slotIs fun y => { y with named := n }
      (s.slot 0).state ≠ .empty ∧ s.boundary 0 = true ∧ (s.slot 0).named = n ∧ (s.slot 0).busy = false ∧ (s.slot 0).packet = none := by decide +kernel

/-- A slot with an item in a stream register and a pinned spill page of 2 MiB, translated at its home, or none. -/
def spilling (b : Nat) : State := { homed (slotIs fun y => { y with spillbase := w64 b, q := [(0, ⟨none, [5], false, false, 0⟩)] }) with
  mem := (tabled 0 0x47 0 0 id).mem }
def asked0 (b : Nat) : State := (spilling b).modSlot 0 fun x => { x with spillAt := none }
theorem witness_slotsPreempted : (∀ q ∈ [(true, SlotState.running), (false, .frozen), (false, .running), (false, .held)], let s := slotIs fun y => { y with npre := q.1, state := q.2 }
      (s.slot 0).busy = false ∧ (s.slot 0).packet = none ∧ (s.slot 0).npre = q.1 ∧ (s.slot 0).state = q.2 ∧ (s.slot 0).streams = false) ∧
    (((spilling 0).slot 0).streams = true ∧ (∃ u, (asked0 0).spillKey 0 = .ok (u, none)) ∧ ∃ u k, (asked0 1).spillKey 0 = .ok (u, some k)) ∧
    ∀ st, let s := slotIs fun y => { y with preempting := true, busy := true, stamped := st }
    (s.slot 0).stamped = st ∧ s.ckHold (ctxKey 0) = false ∧
    (s.slot 0).preempting = true ∧ s.boundary 0 = true ∧ s.loading 0 = false ∧ s.storing 0 = false ∧ (s.slot 0).mode = .none ∧ (s.slot 0).buf = [] ∧ (s.slot 0).streams = false := by
  obtain ⟨⟨u, o⟩, h, ho⟩ := okm_ok (r := (asked0 0).spillKey 0) (p := fun p => p.2.isNone) (by decide +kernel)
  obtain ⟨⟨v, o'⟩, h', ho'⟩ := okm_ok (r := (asked0 1).spillKey 0) (p := fun p => p.2.isSome) (by decide +kernel)
  rw [Option.isNone_iff_eq_none] at ho
  obtain ⟨k, ho'⟩ := Option.isSome_iff_exists.1 ho'
  dsimp only at ho ho'
  subst ho ho'
  exact ⟨by decide +kernel, ⟨by decide +kernel, ⟨u, h⟩, v, k, h'⟩, by decide +kernel⟩
theorem witness_viewsWritten : ∀ x ∈ [SlotState.empty, .running, .held, .frozen, .preempted], ((slotIs fun y => { y with state := x }).slot 0).state = x ∧
    (slotIs fun y => { y with state := x }).ckHold (ctxKey 0) = false := by decide +kernel

theorem witness_fencedSlots : (((here []).modCluster 0 fun x => { x with fenced := true }).cluster (clusterOf (coreOf 0))).fenced = true ∧ (here []).slotReach 0 = true := by decide +kernel

/-- A die with a packet held whose ring takes none, and takes it; a slot that kept one. -/
def ringing (ctl : Nat) (kept : Option W256) : State := (homed (slotIs fun y => { y with packet := kept })).modDie 0 fun x =>
  { x with fqheld := [(0, 9)], fqctl := w64 ctl, fqbase := 0 }
theorem witness_packetsReleased : (∀ ctl ∈ [0, 1], ((ringing ctl none).die 0).fqheld = (0, 9) :: []) ∧ ((ringing 0 none).ringWrite 0 0 9).2 = false ∧
    ((ringing 1 none).ringWrite 0 0 9).2 = true ∧ ((ringing 1 none).ringWrite 0 0 9).1.keeper 0 = none ∧
    ((ringing 1 (some 7)).ringWrite 0 0 9).2 = true ∧ ((ringing 1 (some 7)).ringWrite 0 0 9).1.keeper 0 = some (0, 7) := by decide +kernel
theorem witness_haltsAndTraces : ((here []).die 0).halt = false ∧ ((dieWith fun x => { x with halt := true }).die 0).halt = true := by decide +kernel
theorem witness_contextsKilled : (∀ v ∈ [1, 65535], 0 < (w64 v).toNat ∧ (w64 v).toNat < 2 ^ 16) ∧ (here []).killing = none ∧ (2 : Nat) ^ 16 ≤ (w64 65536).toNat ∧
    ∀ w ∈ [[], [((6 : BitVec 16), 1, (0 : W64))]], let s : State := { slotIs fun y => { y with state := .empty } with killing := some (5, 2, 1), killWaits := w }
      s.killing = some (5, 2, 1) ∧ s.recordRoom s.endPort = true ∧ (∀ e ∈ s.slots, e.2.state = .empty ∨ e.2.ctx ≠ 5) ∧ s.killWaits = w := by decide +kernel

/-! Checkpoints and recovery -/

/-- A round under way or none, one that waits or none. -/
def round (n : Nat) (l : Option (List Nat)) : CkRound := ⟨n, 0, 0, l⟩
def rounds (b : Nat) (r w : Option Nat) : State := { here [] with bringUp := b, ckRound := r.map fun n => round n none, ckWaiting := w.map fun n => round n none, ckDone := 4 }
theorem witness_roundsAsked : (∀ q ∈ [(8, none, none), (9, none, none), (9, some 5, none), (9, some 5, some 6)],
      (rounds q.1 q.2.1 q.2.2).portUp 0 = true ∧ (rounds q.1 q.2.1 q.2.2).recordRoom 0 = true ∧ (rounds q.1 q.2.1 q.2.2).bringUp = q.1 ∧
      (rounds q.1 q.2.1 q.2.2).ckRound = q.2.1.map (round · none) ∧ (rounds q.1 q.2.1 q.2.2).ckWaiting = q.2.2.map (round · none) ∧ (rounds q.1 q.2.1 q.2.2).ckDone = 4) ∧
    ∀ n ∈ [5, 6, 2 ^ 32 - 1], (w64 n).toNat = n ∧ n < 2 ^ 32 ∧ (n = 5 ∨ n ≠ (4 + 1) % 2 ^ 32) := by decide +kernel

/-- Round 5 starts; all dies stand still and have the markers of all 64, but die 0, which has those of `n`; slot 0 has begun its word. -/
def atCut (n : Nat) (begun : Bool) : State := { slotIs fun x => { x with begun := begun, stamped := ! begun } with
  ckRound := some (round 5 (some [7])), dies := (List.range 64).map fun e => (e, { Die.reset with ckcut := true, ckmarked := if e = 0 then List.range n else List.range 64 }) }
def marked (n i : Nat) : State := ((atCut n false).commitDie i).modDie 0 fun x => { x with ckmarked := i :: x.ckmarked }
theorem witness_cutsRecorded : ((rounds 9 (some 5) none).streaming = false ∧ ((rounds 9 (some 5) none).die 63).ckcut = false ∧ (round 5 none).targets = none) ∧
    (∀ q ∈ [(0, true, 0), (62, false, 63), (63, false, 63)], ((atCut q.1 q.2.1).die 0).ckcut = true ∧ ((atCut q.1 q.2.1).die q.2.2).ckcut = true ∧
      q.2.2 ∉ ((atCut q.1 q.2.1).die 0).ckmarked ∧ ((atCut q.1 q.2.1).commitDie q.2.2).still q.2.2 = ! q.2.1) ∧
    (((marked 62 63).die 0).ckmarked.length = 63) ∧
    ∀ e, e < 64 → ((marked 63 63).die e).ckcut = true ∧ ((marked 63 63).die e).ckmarked.length = 64 ∧ (marked 63 63).still e = true := by decide +kernel

/-- The cut of round 5 streams, with the ranges `r` done and a round that waits or none; the descriptor of the tier names module 7, which the table of die 0 lists, or not. -/
def streaming5 (l : List (BitVec 16)) (r : List Nat) (w : Option Nat) : State := { (homed (here [])).modDie 0 fun x => { x with ckstream := true, modules := l } with
  bringUp := 9, ckRound := some (round 5 (some [7])), ckWaiting := w.map fun n => round n none, cut := some State.reset.toMach
  mem := [(2 ^ 48 + 2 ^ 21, 1), (2 ^ 48 + 2 ^ 21 + 64, 7)], ckRanges := r }
theorem witness_tierRead : ∀ l ∈ [[], [7]], ∃ u k, (streaming5 (l.map (BitVec.ofNat 16)) [] none).tierList 0 = .ok (u, k) ∧ (k = [] ↔ l = []) := by
  have h : ∀ l ∈ [[], [7]], okp ((streaming5 (l.map (BitVec.ofNat 16)) [] none).tierList 0) (fun p => p.2.isEmpty == l.isEmpty) = true := by decide +kernel
  intro l hl
  obtain ⟨⟨u, k⟩, h1, h2⟩ := okp_ok (h l hl)
  refine ⟨u, k, h1, ?_⟩
  rw [← List.isEmpty_iff, ← List.isEmpty_iff, show k.isEmpty = l.isEmpty from beq_iff_eq.1 h2]
theorem witness_imageLaidOut : imageRange (localKey 65535 0x27FFF) = some (512 * 63 + 79) ∧ (here []).streaming = false ∧ (streaming5 [] [3] none).streaming = true := by decide +kernel
theorem witness_cutsStreamed : (∀ w ∈ [none, some 6, some 8], ∀ r ∈ [[], [3]], let s := streaming5 [] r w
      s.ckRound = some (round 5 (some [7])) ∧ s.streaming = true ∧ (s.port 0).queue.length < 255 ∧ s.durable.pending = [] ∧ s.ckWaiting = w.map (round · none) ∧ s.ckRanges = r ∧ 5 ∉ r) ∧
    (∀ r w, (streaming5 [] r w).cut = some State.reset.toMach) ∧
    (streaming5 [] (List.replicate (64 * 512 + 32 * 24576) 0) none).ckRanges.length = 64 * 512 + 32 * 24576 :=
  ⟨by decide +kernel, fun _ _ => rfl, List.length_replicate⟩

/-- A module that accepts work and whose tier holds a cut at module 7, which a link reaches, or does not. -/
def saved (up : Bool) : State := { here [] with
  bringUp := 9, durable := { State.reset.durable with life := .operational },
  dies := (List.range 64).map fun d => (d, { Die.reset with modules := [7] }), links := [(0, { Link.reset with up := up })],
  tier := [⟨3, [7], { State.reset.toMach with mem := [(2 ^ 48, 7)] }⟩] }
theorem saved_reach : (saved true).tierReach ⟨3, [7], State.reset.toMach⟩ = true := by
  have h : ∀ d : Fin 64, (saved true).reachable d.val (saved true).nextId 7 = true := by decide +kernel
  unfold State.tierReach
  refine List.all_eq_true.2 fun p _ => ?_
  have e : (partPlace [7] p).1 = 7 := by
    unfold partPlace
    rw [show p % [7].length = 0 from Nat.mod_one p]; show fld 7 0 16 = 7; decide
  show (saved true).reachable _ _ (partPlace [7] p).1 = true
  rw [e]
  split
  · next hp => exact h ⟨p, hp⟩
  · exact h _
theorem witness_cutsRecovered : (saved true).Inv ∧ (saved true).tier.find? (fun e => e.round == 3) = some ⟨3, [7], { State.reset.toMach with mem := [(2 ^ 48, 7)] }⟩ ∧
    ((saved true).bringUp = 9 ∧ (saved true).durable.life = .operational ∧ (saved true).durable.pending = [] ∧ (saved true).tierReach ⟨3, [7], State.reset.toMach⟩ = true) ∧
    (saved false).tierReach ⟨3, [7], State.reset.toMach⟩ = false ∧
    (∀ d, d < 64 → bit ((saved true).die d).fqctl.toNat 0 = false) ∧ (saved true).durable.serialCounter + 2 ^ 40 < 2 ^ 64 ∧ ∀ p, ((saved true).port p).queue.length < 255 := by
  unfold State.Inv
  refine ⟨⟨by decide +kernel, fun m h => (by cases (show (saved true).cut = none from rfl).symm.trans h), fun e h => ?_⟩, rfl, ⟨by decide +kernel, by decide +kernel, by decide +kernel, saved_reach⟩, by decide +kernel, by decide +kernel,
    by decide +kernel, fun p => ?_⟩
  · have h' : e ∈ [(⟨3, [7], { State.reset.toMach with mem := [(2 ^ 48, 7)] }⟩ : TierCut)] := h
    rw [List.mem_singleton] at h'
    subst h'; decide +kernel
  · have h : (saved true).port p = Port.reset := by
      have e : (saved true).ports = [] := by decide +kernel
      unfold State.port; rw [e]; rfl
    rw [h]; decide

/-! The rail, the governor, the links -/

def govern (cy : Nat) (f : Governor → Governor) : State := { dieWith (fun x => { x with gov := f x.gov }) with cycle := cy }
/-- The count of an array at the threshold and one below it; a window's end, with a count at a quarter of the threshold and above it, and the cycle before it. -/
theorem witness_railSet : (∀ n ∈ [8, 7], let g := ((govern 0 fun g => { g with rmctl := 0x801, counts := [(3, n)] }).die 0).gov
      g.rmctl.toNat / 2 ^ 8 % 2 ^ 16 = 8 ∧ (g.counts.get 0 3 + 1 = 8 + 1 ↔ n = 8)) ∧
    (∀ n ∈ [2, 3], let s := govern 1500000 fun g => { g with rmctl := 0x801, counts := [(3, n)] }
      ((s.die 0).gov.railWindow + 1) * 1500000 ≤ s.cycle ∧ bit (s.die 0).gov.rmctl.toNat 0 = true ∧ (s.die 0).gov.frozen = false ∧
      ((∀ e ∈ (s.die 0).gov.counts, 4 * e.2 ≤ (s.die 0).gov.rmctl.toNat / 2 ^ 8 % 2 ^ 16) ↔ n = 2)) ∧
    (govern 1499999 id).cycle < (((govern 1499999 id).die 0).gov.railWindow + 1) * 1500000 := by decide +kernel
theorem gov_of (cy : Nat) (f : Governor → Governor) : ((govern cy f).die 0).gov = f Governor.reset := by
  have h : ((here []).die 0).gov = Governor.reset := by decide +kernel
  unfold State.die at h
  simp [govern, dieWith, State.die, State.modDie, h]
/-- A window's end before the rail monitor has closed it and after, its ring off, with a place and full; an energy above what the cap allows, and one below, whatever was
used since it was last charged. -/
theorem witness_governorActs : ((govern 1500000 id).die 0).gov.railWindow ≤ ((govern 1500000 id).die 0).gov.window ∧
    (∀ q ∈ [(0, 0), (1, 15), (1, 16)], let g := ((govern 1500000 fun g => { g with railWindow := 1, tlctl := w64 (4 * 2 ^ 8 + q.1), tlhead := BitVec.ofNat 32 q.2 }).die 0).gov
      (g.window + 1) * 1500000 ≤ 1500000 ∧ g.window < g.railWindow ∧ bit g.tlctl.toNat 0 = (q.1 == 1) ∧
      ((g.tlhead - g.tltail).toNat = 2 ^ (g.tlctl.toNat / 2 ^ 8 % 2 ^ 5) ↔ q.2 = 16)) ∧
    (∀ th free : Nat, let g := ((govern 0 fun g => { g with energy := 1, throttled := decide (th = 1) }).die 0).gov
      g.throttled = decide (th = 1) ∧ g.cap.toNat * (0 - g.window * 1500000) < 1500 * (g.energy + free % 2 ^ 32)) ∧
    (∀ free : Nat, let g := ((govern 1 fun g => { g with cap := 0x100000000000 }).die 0).gov
      1500 * (g.energy + free % 2 ^ 32) < g.cap.toNat * (1 - g.window * 1500000)) ∧ (w64 15).toNat < 16 ∧ 16 ≤ (w64 16).toNat := by
  refine ⟨by decide +kernel, by decide +kernel, fun th free => ?_, fun free => ?_, by decide, by decide⟩
  · rw [gov_of]
    exact ⟨rfl, by show 350 * (0 - 0 * 1500000) < 1500 * (1 + free % 2 ^ 32); omega⟩
  · rw [gov_of]
    show 1500 * (0 + free % 2 ^ 32) < 0x100000000000 * (1 - 0 * 1500000)
    omega
theorem witness_linksChange : ∀ w ∈ [none, some (5, 6)], let s : State := { here [] with links := [(127, { Link.reset with up := true, want := w })] }
    (s.link 127).up = true ∧ (s.link 127).want = w ∧ (s.link 127).recvNext ≤ (s.link 127).sendNext := by decide +kernel
/-- A legal value of each register and one outside its field. -/
theorem witness_registersWritten : (2 ^ 48 - 2 ^ 12) % 2 ^ 12 = 0 ∧ 2 ^ 48 - 2 ^ 12 < 2 ^ 48 ∧ 1 % 2 ^ 12 ≠ 0 ∧ (2 ^ 52 - 2 ^ 16) % 2 ^ 16 = 0 ∧ ¬ 2 ^ 52 < 2 ^ 52 ∧
    (∀ v ∈ [0x400, 0x1001], v / 2 % 2 ^ 7 = 0 ∧ v < 2 ^ 13 ∧ 4 ≤ v / 2 ^ 8 ∧ v / 2 ^ 8 ≤ 16) ∧ ¬ 4 ≤ 0x300 / 2 ^ 8 ∧ (100 ≤ 100 ∧ 1000 ≤ 1000) ∧ ¬ 100 ≤ 99 ∧ ¬ 1001 ≤ 1000 ∧
    255 < Config.clusters * 1 ∧ 0x108 < 2 ^ 18 ∧ 4 ≤ ({ here [] with bringUp := 4 } : State).bringUp := by decide +kernel

/-! The host, the life cycle, reset, the loader, the whole machine -/

def isBad {α : Type} (r : Got α) : Bool := match r with
  | .bad _ _ => true
  | _ => false
theorem isBad_of {α : Type} {r : Got α} (h : isBad r = true) : ∃ u f, r = .bad u f := by cases r <;> simp_all [isBad]
theorem pair_snd {σ α : Type} {r : σ × α} {a : α} (h : r.2 = a) : ∃ l, r = (l, a) := ⟨r.1, Prod.ext rfl h⟩
def hosted (b : Nat) : State := { homed (here []) with bringUp := b }
/-- An access through BAR 4. -/
def apertured (s : State) (off n : Nat) (wr : Bool) : Got (State × Nat) :=
  s.global 0 (BitVec.ofNat 16 (s.port 0).apbase.toNat) (mkAddr 4 ((s.port 0).apbase.toNat / 2 ^ 32 % 2 ^ 20 * 2 ^ 32 + off)) n (if wr then .write else .read) (if wr then 1 else 0)
/-- A machine of 4 host ports whose frame of the first page has its first line poisoned. -/
def marred : State := { hosted 4 with poison := [(2 ^ 42 + 2 ^ 15, 4)] }
/-- Accesses of 512 bytes and of 8 at the end of a page, a read of a poisoned line, one in a region without a home; BAR 0 accesses of CTXTAB of a cluster that exists, of
three bytes, of a cluster that does not, of a register that refuses; a read of the port's CRTAIL. -/
theorem witness_apertureAccesses : (hosted 4).portUp 0 = true ∧ 0xE00 % 4096 + 512 ≤ 4096 ∧ 2 ^ 28 + 0x18 < 2 ^ 36 ∧
    (∀ q ∈ [(0xE00, 512), (0xFF8, 8)], ∀ wr, ∃ u k, apertured (hosted 4) q.1 q.2 wr = .ok (u, k) ∧ u.poisoned k q.2 = false) ∧
    (∃ u k, apertured marred 0 8 false = .ok (u, k) ∧ u.poisoned k 8 = true) ∧ (∀ wr, ∃ u f, apertured (hosted 4) 0xFFFFFFF8 8 wr = .bad u f) ∧
    (∀ n ∈ [3, 8], let ea := mkAddr 15 (8 * 2 ^ 18)
      (n = 8 ↔ (n = 1 ∨ n = 2 ∨ n = 4 ∨ n = 8) ∧ 8 * 2 ^ 18 % n = 0 ∧ addrOk true ea = true ∧ 8 * 2 ^ 18 / 2 ^ 23 % 2 ^ 11 < Config.clusters ∧ winSizeOk ea n = true)) ∧
    (∃ r, (hosted 4).windowRead 0 (mkAddr 15 (8 * 2 ^ 18)) 8 = some r) ∧ (∃ t, (hosted 4).blockWrite (mkAddr 15 (8 * 2 ^ 18)).toNat 8 0x1000 true = .ok t) ∧
    (∃ u f, apertured (hosted 4) 0xFFFFFFF8 8 false = .bad u f) ∧ 2 ^ 28 + 0x18 + 8 ≤ 2 ^ 29 ∧ (2 ^ 28 + 0x18) % 8 = 0 := by
  have a : ∀ q ∈ [(0xE00, 512), (0xFF8, 8)], ∀ wr, okp (apertured (hosted 4) q.1 q.2 wr) (fun p => ! p.1.poisoned p.2 q.2) = true := by decide +kernel
  have b : ∀ wr, isBad (apertured (hosted 4) 0xFFFFFFF8 8 wr) = true := by decide +kernel
  have c : okp (apertured marred 0 8 false) (fun p => p.1.poisoned p.2 8) = true := by decide +kernel
  have d : okm ((hosted 4).blockWrite (mkAddr 15 (8 * 2 ^ 18)).toNat 8 0x1000 true) (fun _ => true) = true := by decide +kernel
  have e : ((hosted 4).windowRead 0 (mkAddr 15 (8 * 2 ^ 18)) 8).isSome = true := by decide +kernel
  refine ⟨by decide +kernel, by decide, by decide, fun q hq wr => ?_, ?_, fun wr => isBad_of (b wr), by decide +kernel, Option.isSome_iff_exists.1 e, ?_, isBad_of (b false), by decide, by decide⟩
  · obtain ⟨⟨u, k⟩, h1, h2⟩ := okp_ok (a q hq wr)
    exact ⟨u, k, h1, by simpa using h2⟩
  · obtain ⟨⟨u, k⟩, h1, h2⟩ := okp_ok c
    exact ⟨u, k, h1, h2⟩
  · exact (okm_ok d).imp fun _ h => h.1

/-- A window that names a live skein of context 0, one whose name is none, one that is not valid, one with a push under way. -/
def window (n : W128) (ctl b : Nat) : State := { named 3 0 with bringUp := b, hostQueues := [(65535, ⟨n, w64 ctl, 0, 0, 0⟩)] }
theorem window_facts (n : W128) (ctl b : Nat) (f : HostQueue → HostQueue) : let t := (window n ctl b).modHostQueue 65535 f
    t.names = names5 3 ∧ t.miss = false ∧ t.durable = State.reset.durable ∧ (t.cluster 0).ncache = [⟨5, 3, 0, 3, 9⟩] ∧ t.spawns = (here []).spawns := by
  have h := base_facts 3 (by decide)
  exact ⟨rfl, h.2.2.2.2.2.2.1, base_durable 3, h.2.2.2.2.2.2.2.1, rfl⟩
theorem witness_hostPushes (f : HostQueue → HostQueue) : (∀ q ∈ [(4, 0x10000), (8, 0x10000), (9, 0)], (window 0 q.2 q.1).bringUp = q.1 ∧ 4 ≤ q.1 ∧
      ((window 0 q.2 q.1).hostQueue 65535).ctl.toNat = q.2 ∧ (q.1 < 9 ∨ bit q.2 16 = false)) ∧ bit 0x10000 16 = true ∧ (here []).spawns = [] ∧
    ({ window 0 0 4 with spawns := [⟨1, Config.slots + 65535, 0, 0, 0, 0, 0, 0, [], [], none⟩] } : State).spawns.any (fun r => r.g == Config.slots + 65535) = true ∧
    (((window (nm5 3) 0x10000 9).modHostQueue 65535 f).resolve 0 0 (nm5 3) 3).2.1 = 0 ∧ (((window 0 0x10000 9).modHostQueue 65535 f).resolve 0 0 0 3).2.1 = stBADNAME := by
  obtain ⟨g1, g2, g3, g4, -⟩ := window_facts (nm5 3) 0x10000 9 f
  obtain ⟨-, h1, h5, hm, -⟩ := nm5_fields _ 3 g3 (by omega) (by omega)
  refine ⟨by decide +kernel, by decide, by decide +kernel, by decide +kernel, ?_, ?_⟩
  · rw [live_resolve g1 (by rw [g3]; exact reset_module) h1 hm h5 g4 g2]
  · unfold State.resolve; rw [zero_badName]; rfl

def ringAt (ctl head : Nat) (q : List W256) : State := (here []).modPort 3 fun x => { x with crctl := w64 ctl, crhead := BitVec.ofNat 32 head, queue := q }
theorem witness_recordsWritten : ((ringAt 0x401 0 []).port 3).queue = [] ∧ (∀ q ∈ [(0x400, 0), (0x401, 16), (0x401, 15), (0x401, 0)], let x := ((ringAt q.1 q.2 [5, 6]).port 3)
      x.queue = 5 :: [6] ∧ bit x.crctl.toNat 0 = (q.1 == 0x401) ∧ ((x.crhead - x.crtail).toNat = 2 ^ (x.crctl.toNat / 2 ^ 8 % 2 ^ 5) ↔ q.2 = 16)) := by decide +kernel

/-- A request that waits for each of its reasons; one that does not, of a module that no path leaves. What a request asks for is a free value: that one is allowed cannot be
exhibited. -/
def living (l : Life) (p : List (Nat × W64)) (b : Nat) : State := { here [] with bringUp := b, durable := { State.reset.durable with life := l, pending := p } }
theorem witness_lifeCycleRequests : ((streaming5 [] [] none).portUp 0 = true ∧ (streaming5 [] [] none).streaming = true) ∧ ((living .blank [] 5).portUp 0 = true ∧ (living .blank [] 5).bringUp = 5) ∧
    (living .blank [(0, 0)] 4).durable.pending ≠ [] ∧ ((living .decommissioned [] 9).portUp 0 = true ∧ (living .decommissioned [] 9).streaming = false ∧
      (living .decommissioned [] 9).durable.pending = [] ∧ (living .decommissioned [] 9).recordRoom 0 = true) ∧
    ∀ (dst : Life) (m : Bool), ¬ lifePath (living .decommissioned [] 9).durable.life dst m := by
  refine ⟨by decide +kernel, by decide +kernel, by decide +kernel, by decide +kernel, fun dst m h => ?_⟩
  rw [show (living .decommissioned [] 9).durable.life = .decommissioned from rfl] at h
  rcases h with h | h | h | h | h | h <;> simp at h
def attest (i : Bool) (n : Nat) : State := { here [] with bringUp := 4, durable := { State.reset.durable with identity := i, identityIndex := n } }
theorem witness_attestations : ∀ q ∈ [(false, 0), (true, 65536), (true, 65535)], let s := attest q.1 q.2
    s.portUp 0 = true ∧ s.recordRoom 0 = true ∧ s.durable.identity = q.1 ∧ s.durable.identityIndex = q.2 := by decide +kernel
theorem witness_bringUpEnds : ∀ b ∈ [5, 6, 7], (hosted b).portUp 0 = decide (4 ≤ b) ∧ (hosted b).bringUp = b := by decide +kernel

/-- An image of one section of names, in host memory at 0; its cluster ready, or fenced, or its context in use, or its first byte wrong. -/
def imageBytes (first : Nat) : Tab Byte := ([(0, first), (1, 0x57), (2, 0x52), (3, 0x49), (4, 1), (6, 2), (8, 1), (12, 64), (68, 13), (80, 96), (84, 1), (92, 255), (93, 255), (94, 255),
  (95, 255)] : List (Nat × Nat)).map fun (p : Nat × Nat) => (2 ^ 66 + p.1, BitVec.ofNat 8 p.2)
def imaged (b first : Nat) (fenced : Bool) : State := { (here []).modCluster 0 fun x => { x with fenced := fenced } with bringUp := b, mem := imageBytes first }
def theImage (first : Nat) : Image := ⟨imageBytes first, 0, 97⟩
/-- An image of a section of names and of one object, a skein, whose serial no block has yet. -/
def oneObject : Tab Byte := ([(0, 0x53), (1, 0x57), (2, 0x52), (3, 0x49), (4, 1), (6, 2), (8, 2), (12, 64), (68, 13), (80, 128), (84, 1), (92, 255), (93, 255), (94, 255), (95, 255),
  (100, 9), (112, 136), (116, 40), (124, 255), (125, 255), (126, 255), (127, 255), (136, 1), (144, 255), (145, 255), (146, 255), (147, 255), (148, 3), (153, 1)] : List (Nat × Nat)).map
  fun (p : Nat × Nat) => (2 ^ 66 + p.1, BitVec.ofNat 8 p.2)
def serialless : State := { imaged 9 0x53 false with mem := oneObject }
def isWait (r : Stop) : Bool := match r with
  | .wait _ => true
  | _ => false
theorem isWait_of {σ : Type} {r : σ × Stop} (h : isWait r.2 = true) : ∃ l k, r = (l, .wait k) := by
  obtain ⟨l, x⟩ := r
  cases x <;> simp_all [isWait]
theorem witness_imagesLoaded : (∀ b ∈ [4, 8, 9], (imaged b 0x53 false).portUp 0 = true ∧ (imaged b 0x53 false).recordRoom 0 = true ∧ (imaged b 0x53 false).bringUp = b) ∧
    (imaged 9 0x53 false).inUse 0 = true ∧ (imaged 9 0x53 false).inUse 1 = false ∧ (theImage 0x52).ok = false ∧ (theImage 0x53).ok = true ∧
    (imaged 9 0x53 false).streaming = false ∧ ((imaged 9 0x53 false).modDie 0 fun x => { x with ckstream := true }).streaming = true ∧
    (∃ l, Load.run ⟨imaged 9 0x53 false, [], []⟩ (theImage 0x53) 1 = (l, .none)) ∧
    ((⟨oneObject, 0, 176⟩ : Image).ok = true ∧ serialless.inUse 1 = false ∧ ∃ l h, Load.run ⟨serialless, [], []⟩ ⟨oneObject, 0, 176⟩ 1 = (l, .wait h)) ∧
    ∃ l, Load.run ⟨imaged 9 0x53 true, [], []⟩ (theImage 0x53) 1 = (l, .fail 2 0 0) := by
  have a : (Load.run ⟨imaged 9 0x53 false, [], []⟩ (theImage 0x53) 1).2 = .none := by decide +kernel
  have b : (Load.run ⟨imaged 9 0x53 true, [], []⟩ (theImage 0x53) 1).2 = .fail 2 0 0 := by decide +kernel
  have c : isWait (Load.run ⟨serialless, [], []⟩ ⟨oneObject, 0, 176⟩ 1).2 = true := by decide +kernel
  exact ⟨by decide +kernel, by decide +kernel, by decide +kernel, by decide +kernel, by decide +kernel, by decide +kernel, by decide +kernel, pair_snd a,
    ⟨by decide +kernel, by decide +kernel, isWait_of c⟩, pair_snd b⟩

/-- Context 0 with tables down to the last level, which has no entry; a home of the region or none. -/
def framed (home : Nat) : State := { here [] with mem := List.flatMap (fun p => entryMem p.1 p.2) ([(0, 0x10001), (8, 0x30001), (0x10000, 0x20001), (0x20000, 0x21001), (0x21000, 0x22001), (0x30000, 0x40001),
  (0x40000, home)] : List (Nat × Nat)) }
theorem witness_pagesMapped : (0 : Nat) % 2 ^ 16 = 0 ∧ (0x10000 : Nat) < 2 ^ 48 ∧ 0 < Config.clusters ∧ ((framed 0).mapPage 0 0 0x10000 4).isSome = true ∧
    leafOf (tabled 0 3 0 0 id) = some (0x21000, 0x200003) ∧
    ∀ h ∈ [0, 0x8005], (framed h).nat (rimKey 0x30000) 8 = 0x40001 ∧ (framed h).nat (rimKey 0x40000) 2 = h := by decide +kernel

theorem pair_some {σ α : Type} {r : σ × Option α} (h : r.2.isSome = true) : ∃ l a, r = (l, some a) := by
  obtain ⟨l, _ | a⟩ := r
  · cases h
  · exact ⟨l, a, rfl⟩
theorem pair_none {σ α : Type} {r : σ × Option α} (h : r.2.isNone = true) : ∃ l, r = (l, none) := by
  obtain ⟨l, _ | a⟩ := r
  · exact ⟨l, rfl⟩
  · cases h
theorem witness_imagePlaced : (theImage 0x53).ok = true ∧ (theImage 0x53).clusters = [0] ∧ (theImage 0x53).rd 20 4 = 0 ∧
    ((imaged 9 0x53 true).cluster 0).fenced = true ∧ ((imaged 9 0x53 false).cluster 0).fenced = false ∧ (imaged 9 0x53 false).enabled 0 = true ∧
    (∃ l pa, Load.place ⟨imaged 9 0x53 false, [], []⟩ (theImage 0x53) 1 = (l, some pa)) ∧
    ∃ l, Load.place ⟨{ imaged 9 0x53 false with loaderNext := 0xC00000000 }, [], []⟩ (theImage 0x53) 1 = (l, none) := by
  have a : (Load.place ⟨imaged 9 0x53 false, [], []⟩ (theImage 0x53) 1).2.isSome = true := by decide +kernel
  have b : (Load.place ⟨{ imaged 9 0x53 false with loaderNext := 0xC00000000 }, [], []⟩ (theImage 0x53) 1).2.isNone = true := by decide +kernel
  exact ⟨by decide +kernel, by decide +kernel, by decide +kernel, by decide +kernel, by decide +kernel, by decide +kernel, pair_some a, pair_none b⟩

/-- An image with a section of names and 8 bytes of local memory at its end, as far as it may go; and one with 8 bytes of data at 0x10000. -/
def twoSecs (type addr : Nat) : Image := ⟨([(0, 0x53), (1, 0x57), (2, 0x52), (3, 0x49), (4, 1), (6, 2), (8, 2), (12, 64)] ++ (if type = 3 then [(42, 1)] else []) ++ [(68, 13), (80, 128), (84, 1), (92, 255), (93, 255), (94, 255), (95, 255),
  (100, type), (102, 3), (104, addr % 256), (105, addr / 256 % 256), (106, addr / 65536), (112, 136), (116, 8), (124, 255), (125, 255), (126, 255), (127, 255), (136, 9)] : List (Nat × Nat)).map
  fun (p : Nat × Nat) => (2 ^ 66 + p.1, BitVec.ofNat 8 p.2), 0, 144⟩
theorem witness_sectionsPlaced : (∀ q ∈ [(4, 0x23FF8), (3, 0x10000)], (twoSecs q.1 q.2).ok = true ∧ ((twoSecs q.1 q.2).find q.1).size = 8 ∧ ((twoSecs q.1 q.2).find q.1).addr = q.2) ∧
    ∃ l pa, Load.place ⟨imaged 9 0x53 false, [], []⟩ (twoSecs 4 0x23FF8) 1 = (l, some pa) := ⟨by decide +kernel, pair_some (by decide +kernel)⟩

/-- A state with serials to give; a tile of 64 by 128, a barrier, a skein of kind 3 and one of a kind of its own; an image of one skein, and one in a fenced cluster. -/
def giving (fenced : Bool) : State := { (imaged 9 0x53 fenced).modDie 0 fun x => { x with ovfsize := 4096 } with serialNext := 5, serialEnd := 2 ^ 20, mem := oneObject }
theorem witness_objectsMade : (∀ r ∈ [2 ^ 32 + 64 * 2 ^ 64 + 128 * 2 ^ 72 + 2 ^ 80, 2 * 2 ^ 32 + 2 ^ 64 + 2 ^ 96, 3 * 2 ^ 32 + 2 ^ 72],
      ∃ t nm, (giving false).makeRecord 1 0 r = .ok (t, 0, nm)) ∧
    (∃ m, (⟨giving false, [], []⟩ : Load).objects ⟨oneObject, 0, 176⟩ 1 0 1 = (m, .none)) ∧
    ∃ m, (⟨{ giving false with serialEnd := 0, durable := { State.reset.durable with serialCounter := 2 ^ 64 - 1 } }, [], []⟩ : Load).objects ⟨oneObject, 0, 176⟩ 1 0 1 = (m, .fail 4 0 0x11) := by
  have a : ∀ r ∈ [2 ^ 32 + 64 * 2 ^ 64 + 128 * 2 ^ 72 + 2 ^ 80, 2 * 2 ^ 32 + 2 ^ 64 + 2 ^ 96, 3 * 2 ^ 32 + 2 ^ 72],
      okm ((giving false).makeRecord 1 0 r) (fun p => p.2.1 == 0) = true := by decide +kernel
  have b : ((⟨giving false, [], []⟩ : Load).objects ⟨oneObject, 0, 176⟩ 1 0 1).2 = .none := by decide +kernel
  have c : ((⟨{ giving false with serialEnd := 0, durable := { State.reset.durable with serialCounter := 2 ^ 64 - 1 } }, [], []⟩ : Load).objects ⟨oneObject, 0, 176⟩ 1 0 1).2 = .fail 4 0 0x11 := by
    decide +kernel
  refine ⟨fun r hr => ?_, pair_snd b, pair_snd c⟩
  obtain ⟨⟨t, st, nm⟩, h1, h2⟩ := okm_ok (a r hr)
  rw [beq_iff_eq] at h2
  exact ⟨t, nm, by rw [h1, show st = 0 from h2]⟩

/-- A load that has made one skein, of name 7, for whose image one stitch is to be spawned. -/
def made : Load := ⟨{ giving false with skeins := [⟨7, 1, 0, 0, false, 0, 0, [], 0, 0, none, 0⟩], names := [⟨7, 3, false, 1, 0, 0, 0⟩] }, [0x22000], [7]⟩
/-- A section of one patch, of kind 4, and one of one stitch. -/
def oneStitch : Image := ⟨([(8, 2), (12, 64), (68, 9), (80, 128), (84, 24), (100, 5), (112, 192), (116, 64), (132, 1), (142, 4), (200, 64)] : List (Nat × Nat)).map
  fun (p : Nat × Nat) => (2 ^ 66 + p.1, BitVec.ofNat 8 p.2), 0, 256⟩
theorem witness_stitchesSpawned : (∃ l, Load.run ⟨imaged 9 0x53 false, [], []⟩ (theImage 0x53) 1 = (l, .none)) ∧
    (∃ m, Load.spawns made oneStitch 1 0 oneStitch.stitches = (m, .none) ∧ ∃ k, m.s.skeins.find? (fun x => x.name == 7) = some k) := by
  have a : (Load.run ⟨imaged 9 0x53 false, [], []⟩ (theImage 0x53) 1).2 = .none := by decide +kernel
  have b : (Load.spawns made oneStitch 1 0 oneStitch.stitches).2 = .none ∧
      ((Load.spawns made oneStitch 1 0 oneStitch.stitches).1.s.skeins.find? (fun x => x.name == 7)).isSome = true := by decide +kernel
  obtain ⟨k, hk⟩ := Option.isSome_iff_exists.1 b.2
  obtain ⟨m, hm⟩ := pair_snd b.1
  rw [hm] at hk
  exact ⟨pair_snd a, m, hm, k, hk⟩

theorem witness_loadsUndone : (∀ a ∈ made.s.names, ∀ b ∈ made.s.names, nmSerial a.name = nmSerial b.name → a = b) ∧ (∀ e ∈ made.s.names, e.dying = false) ∧
    made.leaves ≠ [] ∧ ∃ e ∈ made.s.names, e.name ∈ made.names := by decide +kernel

/-- The invariant at reset; a state whose next turn is an agent that exists; one whose turn names no slot. -/
def scheduled (g : Nat) : State := { State.reset with sched := [⟨0, [], [], false, .slot g⟩] }
def nexts {σ φ ρ : Type} (r : Host.Outcome σ φ ρ) : Bool := match r with
  | .next _ => true
  | _ => false
def faults {σ φ ρ : Type} (r : Host.Outcome σ φ ρ) : Bool := match r with
  | .fault _ => true
  | _ => false
theorem nexts_of {σ φ ρ : Type} {r : Host.Outcome σ φ ρ} (h : nexts r = true) : ∃ t, r = .next t := by cases r <;> simp_all [nexts]
theorem faults_of {σ φ ρ : Type} {r : Host.Outcome σ φ ρ} (h : faults r = true) : ∃ f, r = .fault f := by cases r <;> simp_all [faults]
theorem witness_wholeMachine : State.reset.Inv ∧ (∃ t, step (at_ 0) = .next t) ∧ (scheduled 0).Scheduled ∧ ∃ f, step (scheduled Config.slots) = .fault f := by
  have h : State.reset.cut = none ∧ State.reset.tier = [] := by decide +kernel
  refine ⟨⟨by decide +kernel, fun m hm => ?_, fun e he => ?_⟩, nexts_of (by decide +kernel), ?_, faults_of (by decide +kernel)⟩
  · rw [h.1] at hm; cases hm
  · rw [h.2] at he; cases he
  · show 0 < Config.slots; decide

/-- Packed codes of one plane and of all 32, in the last row of A and the last column of B. -/
theorem witness_packedCodes : (1 ≤ 1 ∧ 1 ≤ 32) ∧ 32 ≤ 32 ∧ planeKind 0 ≠ 2 ∧ 127 < 128 ∧ 63 < (if true then 64 else 128) ∧ 127 < (if false then 64 else 128) := by decide

/-! Packets, returned faults, migration, signatures -/

/-- Two reads, and two writes behind them, each performed. -/
theorem ring_read {s : State} {a b : Nat} (h : (s.sysRead 0 0 8).2 = some a ∧ ((s.sysRead 0 0 8).1.sysRead 0 8 8).2 = some b) :
    ∃ u v, s.sysRead 0 0 8 = (u, some a) ∧ u.sysRead 0 8 8 = (v, some b) := ⟨_, _, Prod.ext rfl h.1, Prod.ext rfl h.2⟩
theorem ring_written {s : State} {a b c d e f : Nat} (h : (s.sysWrite 0 a b c false).2 = true ∧ ((s.sysWrite 0 a b c false).1.sysWrite 0 d e f true).2 = true) :
    ∃ w z, s.sysWrite 0 a b c false = (w, true) ∧ w.sysWrite 0 d e f true = (z, true) := ⟨_, _, Prod.ext rfl h.1, Prod.ext rfl h.2⟩
theorem ring_taken {s : State} (h : (s.sysRead 0 0 8).2 = some 0 ∧ ((s.sysRead 0 0 8).1.sysRead 0 8 8).2 = some 0 ∧
      (((s.sysRead 0 0 8).1.sysRead 0 8 8).1.sysWrite 0 64 32 5 false).2 = true ∧
      ((((s.sysRead 0 0 8).1.sysRead 0 8 8).1.sysWrite 0 64 32 5 false).1.sysWrite 0 0 8 1 true).2 = true) :
    ∃ u v w z, s.sysRead 0 0 8 = (u, some 0) ∧ u.sysRead 0 8 8 = (v, some 0) ∧ v.sysWrite 0 64 32 5 false = (w, true) ∧ w.sysWrite 0 0 8 1 true = (z, true) := by
  obtain ⟨w, z, h1, h2⟩ := ring_written h.2.2
  exact ⟨_, _, w, z, Prod.ext rfl h.1, Prod.ext rfl h.2.1, h1, h2⟩
/-- A die whose ring of one entry is on or off, at 0 in the first page, and has its head as given. -/
def ringAlone (ctl head : Nat) : State := { (homed (here [])).modDie 0 fun x => { x with fqctl := w64 ctl, fqbase := 0 } with mem := if head = 0 then [] else [(2 ^ 48 + 2 ^ 21, BitVec.ofNat 8 head)] }
theorem witness_packetsSent : (((ringAlone 0 0).die 0).fqctl.toNat % 2 = 0 ∧ ((ringing 1 none).die 0).fqheld ≠ []) ∧
    (∀ h ∈ [0, 1], ((ringAlone 1 h).die 0).fqheld = [] ∧ ((ringAlone 1 h).die 0).fqctl.toNat % 2 = 1 ∧ (ringAlone 1 h).streaming = false ∧ 2 ^ (((ringAlone 1 h).die 0).fqctl.toNat / 256 % 32) = 1) ∧
    (∃ u v, (ringAlone 1 1).sysRead 0 0 8 = (u, some 1) ∧ u.sysRead 0 8 8 = (v, some 0)) ∧
    ∃ u v w z, (ringAlone 1 0).sysRead 0 0 8 = (u, some 0) ∧ u.sysRead 0 8 8 = (v, some 0) ∧ v.sysWrite 0 64 32 5 false = (w, true) ∧ w.sysWrite 0 0 8 1 true = (z, true) := by
  have a : ((ringAlone 1 1).sysRead 0 0 8).2 = some 1 ∧ (((ringAlone 1 1).sysRead 0 0 8).1.sysRead 0 8 8).2 = some 0 := by decide +kernel
  have b : ((ringAlone 1 0).sysRead 0 0 8).2 = some 0 ∧ (((ringAlone 1 0).sysRead 0 0 8).1.sysRead 0 8 8).2 = some 0 ∧
      ((((ringAlone 1 0).sysRead 0 0 8).1.sysRead 0 8 8).1.sysWrite 0 64 32 5 false).2 = true ∧
      (((((ringAlone 1 0).sysRead 0 0 8).1.sysRead 0 8 8).1.sysWrite 0 64 32 5 false).1.sysWrite 0 0 8 1 true).2 = true := by decide +kernel
  exact ⟨by decide +kernel, by decide +kernel, ring_read a, ring_taken b⟩

/-- Faults that come back: POISON of a line for the first and the third time, a page that is absent, one that is refused; of a slot that may be pre-empted, may not, or
writes through. -/
def hurt (through npre : Bool) (a : W64) (n : BitVec 2) : State := slotIs fun x => { x with through := through, npre := npre, paddr := a, prest := n }
theorem witness_targetFates : ((hurt true false 0 0).slot 0).through = true ∧ (((hurt false false 0 0).slot 0).through = false ∧ ((hurt false false 0 0).slot 0).prest = 0) ∧
    (((hurt false false 0x40 2).slot 0).paddr = lineOf 0x40 ∧ ((hurt false false 0x40 2).slot 0).prest = 2 ∧ ((hurt false false 0x40 2).slot 0).through = false) ∧
    ((hurt false false 0 0).slot 0).npre = false ∧ ((hurt false true 0 0).slot 0).npre = true ∧
    (3 : W64).toNat % 2 ^ 4 = 3 ∧ (4 : W64).toNat % 2 ^ 4 ≠ 3 := by decide +kernel

/-- A core without features beside one that has them; a task with a frame stack and without. -/
def featless (fsp : Nat) : State := ((hereWith [] fun x => { x with fsp := w64 fsp, fslim := 0x4000 }).modCore 0 fun x => { x with feat := 0 }).modCore 1 fun x => { x with feat := 0x7F }
theorem witness_featuresMigrate : requires (.vadd 1 2 3 0 0) 1 ∧ requires (.tokacq 9 8) 64 ∧ (∀ f ∈ [0, 0x1000], maskHas ((featless f).coreFeat (coreOf (featless f).cur)) 1 = false ∧
      maskHas ((featless f).coreFeat 0) 64 = false ∧ (featless f).me.guard = none ∧ (featless f).me.mode = .none ∧ (featless f).notes = [] ∧ (featless f).storing (featless f).cur = false ∧
      (featless f).chains = [] ∧ (featless f).me.stepping = false ∧ (featless f).me.fsp = w64 f) ∧
    1 < Config.cores ∧ inPlace ((featless 0x1000).me.place.toNat % 8) 0 0 1 = true ∧ frameAllows (rewrite 0 0x1000) 1 = true ∧ (featless 0x1000).enabled 1 = true ∧
    maskHas ((featless 0x1000).coreFeat 1) ((featless 0x1000).me.feat.toNat ||| 1) = true :=
  ⟨.inl ⟨1, 2, 3, 0, 0, rfl, rfl⟩, .inr (.inr (.inr (.inr (.inr (.inr ⟨9, 8, .inl rfl, rfl⟩))))), by decide +kernel⟩

/-- A slot in a checked block of one word at 0, in its fold or at its start, with the block before it known; a block that ends as the table says or not. -/
def signed (r : Option SigRun) : State := { ((homed (hereWith [] fun x => { x with sig := r, prevBlock := some 8 })).modDie 0 fun x =>
  { x with gov := { x.gov with sgwin := [(1, 64), (2, 0x100), (3, 0x10000)] } }) with mem := [(2 ^ 48 + 2 ^ 21 + 0x104, 1)] }
theorem witness_blocksJudged : (∀ r ∈ [none, some ⟨0, 0, 3, 7, 7, false, false⟩], (signed r).sigWindow (dieOf (coreOf 0)) ((signed r).slot 0).ctx ((signed r).slot 0).pc = some (0, 64, 0x100) ∧
      ((signed r).slot 0).sig = r) ∧
    (∃ u e, (signed none).checkEntry 0 0 0x100 0 0 17 = .ok (u, some e) ∧ e % 2 ^ 32 = 0 ∧ ((signed none).slot 0).prevBlock = some 8) ∧
    ∀ q ∈ [(true, 7), (false, 7), (false, 8)], let s := signed (some ⟨0, 0, 0, 7, BitVec.ofNat 32 q.2, q.1, false⟩)
      (s.slot 0).sig = some ⟨0, 0, 0, 7, BitVec.ofNat 32 q.2, q.1, false⟩ ∧ (s.slot 0).begun = false ∧ (s.slot 0).state ≠ .empty := by
  obtain ⟨⟨u, e⟩, h1, h2⟩ := okm_ok (r := (signed none).checkEntry 0 0 0x100 0 0 17) (p := fun p => opp p.2 fun e => e % 2 ^ 32 == 0) (by decide +kernel)
  obtain ⟨e', rfl, h3⟩ := opp_ok h2
  exact ⟨by decide +kernel, ⟨u, e', h1, beq_iff_eq.1 h3, by decide +kernel⟩, by decide +kernel⟩
end Sys2Proof.Tests
end

section
/-! SUPPORT. The decoder read backwards: what a group's table decodes, the encoder writes as the word that was read (R16 to R24). -/
namespace Sys2Proof

/-! A word is put together from the fields of its format (R17) -/

/-- A field is written back by its value. -/
theorem ofNat_toNat_self {n : Nat} (x : BitVec n) : BitVec.ofNat n x.toNat = x := by
  rw [BitVec.ofNat_toNat, BitVec.setWidth_eq]

section
variable {w : W32} {m : Nat} (h : (w.extractLsb' 26 6).toNat = m)
include h

theorem encA_of_fields : encA m (fD w) (fA w) (fB w) (w.extractLsb' 0 11).toNat = w := by
  subst h
  simp only [encA, fD, fA, fB, ofNat_toNat_self, BitVec.extractLsb'_append_extractLsb'_eq_extractLsb', BitVec.extractLsb'_eq_self]

theorem encI_of_fields : encI m (fD w) (fA w) (fImm w) = w := by
  subst h
  simp only [encI, fD, fA, fImm, ofNat_toNat_self, BitVec.extractLsb'_append_extractLsb'_eq_extractLsb', BitVec.extractLsb'_eq_self]

theorem encB_of_fields : encB m (fD w) (fA w) (fImm w) = w := encI_of_fields h

theorem encJ_of_fields : encJ m (w.extractLsb' 0 26) = w := by
  subst h
  simp only [encJ, ofNat_toNat_self, BitVec.extractLsb'_append_extractLsb'_eq_extractLsb', BitVec.extractLsb'_eq_self]

theorem encC_of_fields : encC m (w.extractLsb' 23 3) (w.extractLsb' 0 23) = w := by
  subst h
  simp only [encC, ofNat_toNat_self, BitVec.extractLsb'_append_extractLsb'_eq_extractLsb', BitVec.extractLsb'_eq_self]

theorem encV_of_fields : encV m (vD w) (vA w) (vB w) (vTw w) (vMk w) = w := by
  subst h
  simp only [encV, vD, vA, vB, vTw, vMk, ofNat_toNat_self, BitVec.extractLsb'_append_extractLsb'_eq_extractLsb', BitVec.extractLsb'_eq_self]

theorem encVX_of_fields :
    encVX m (vD w) (vA w) (vB w) (w.extractLsb' 11 3) (w.extractLsb' 9 2) (w.extractLsb' 0 9).toNat = w := by
  subst h
  simp only [encVX, vD, vA, vB, ofNat_toNat_self, BitVec.extractLsb'_append_extractLsb'_eq_extractLsb', BitVec.extractLsb'_eq_self]

theorem encS_of_fields {sc : Scope} {o : Order} (hs : sc.code = w.extractLsb' 8 3) (ho : o.code = w.extractLsb' 6 2) :
    encS m (fD w) (fA w) (fB w) sc o (w.extractLsb' 4 2) (w.extractLsb' 0 4).toNat = w := by
  subst h
  simp only [encS, hs, ho, fD, fA, fB, ofNat_toNat_self, BitVec.extractLsb'_append_extractLsb'_eq_extractLsb', BitVec.extractLsb'_eq_self]

theorem encQ_of_fields (h0 : w.extractLsb' 0 17 = 0) :
    encQ m (w.extractLsb' 22 4) (w.extractLsb' 19 3) (w.extractLsb' 18 1) (w.extractLsb' 17 1) = w := by
  subst h
  rw [encQ, ← h0]
  simp only [ofNat_toNat_self, BitVec.extractLsb'_append_extractLsb'_eq_extractLsb', BitVec.extractLsb'_eq_self]

end

/-! What the checks let pass (R24) -/

section
variable {c : Prop} [Decidable c] {k : Except DecodeError Instr} {i : Instr}

@[simp] theorem reservedZero_eq_ok : reservedZero c k = .ok i ↔ c ∧ k = .ok i := by
  unfold reservedZero; split <;> simp [*]
@[simp] theorem unusedZero_eq_ok : unusedZero c k = .ok i ↔ c ∧ k = .ok i := by
  unfold unusedZero; split <;> simp [*]
@[simp] theorem inRange_eq_ok : inRange c k = .ok i ↔ c ∧ k = .ok i := by
  unfold inRange; split <;> simp [*]

end

/-! Codes name one value each (R18) -/

theorem Et.code_of_ofCode {c : BitVec 3} {et : Et} (h : Et.ofCode c = some et) : et.code = c := by
  revert c et; decide
theorem Scope.code_of_ofCode {c : BitVec 3} {sc : Scope} (h : Scope.ofCode c = some sc) : sc.code = c := by
  revert c sc; decide
theorem Eng.code_of_ofCode {c : BitVec 3} {e : Eng} (h : Eng.ofCode c = some e) : e.code = c := by
  revert c e; decide
theorem Order.code_ofCode (c : BitVec 2) : (Order.ofCode c).code = c := by
  revert c; decide

/-- A field whose upper part is zero is written back by its lower part. -/
theorem zero_append_sub32 {x : BitVec 5} (h : x.extractLsb' 2 3 = 0) : (0 : BitVec 3) ++ x.extractLsb' 0 2 = x := by revert x; decide
theorem zero_append_sub22 {x : BitVec 4} (h : x.extractLsb' 2 2 = 0) : (0 : BitVec 2) ++ x.extractLsb' 0 2 = x := by revert x; decide
theorem zero_append_sub13 {x : BitVec 4} (h : x.extractLsb' 3 1 = 0) : (0 : BitVec 1) ++ x.extractLsb' 0 3 = x := by revert x; decide
theorem zero_append_sub11 {x : BitVec 2} (h : x.extractLsb' 1 1 = 0) : (0 : BitVec 1) ++ x.extractLsb' 0 1 = x := by revert x; decide

/-! What a group's table decodes, the encoder writes as that group's word (R23) -/

section
variable {f : Nat} {i : Instr}

theorem encode_of_decSys {d a b : BitVec 5} (h : decSys f d a b = .ok i) : encode i = some (encA 0 d a b f) := by
  unfold decSys at h
  split at h <;> simp only [unusedZero_eq_ok, Except.ok.injEq, reduceCtorEq] at h <;> (try casesm* _ ∧ _) <;> subst_vars <;> rfl

theorem encode_of_decAlu {d a b : BitVec 5} (h : decAlu f d a b = .ok i) : encode i = some (encA 1 d a b f) := by
  unfold decAlu at h
  split at h <;> simp only [unusedZero_eq_ok, Except.ok.injEq, reduceCtorEq] at h <;> (try casesm* _ ∧ _) <;> subst_vars <;> rfl

theorem encode_of_decJr {d a b : BitVec 5} (h : decJr f d a b = .ok i) : encode i = some (encA 40 d a b f) := by
  unfold decJr at h
  split at h <;> simp only [unusedZero_eq_ok, Except.ok.injEq, reduceCtorEq] at h <;> (try casesm* _ ∧ _) <;> subst_vars <;> rfl

theorem encode_of_decTask {d a b : BitVec 5} (h : decTask f d a b = .ok i) : encode i = some (encA 42 d a b f) := by
  unfold decTask at h
  split at h <;> simp only [unusedZero_eq_ok, Except.ok.injEq, reduceCtorEq] at h <;> (try casesm* _ ∧ _) <;> subst_vars <;> rfl

theorem encode_of_decStrm {d a b : BitVec 5} (h : decStrm f d a b = .ok i) : encode i = some (encA 43 d a b f) := by
  unfold decStrm at h
  split at h <;> simp only [reservedZero_eq_ok, unusedZero_eq_ok, Except.ok.injEq, reduceCtorEq] at h <;> (try casesm* _ ∧ _) <;> subst_vars <;>
    exact congrArg some (by rw [zero_append_sub32 ‹_›])

theorem encode_of_decVxi {d a b : BitVec 4} {et : Et} {mk : BitVec 2} (h : decVxi f d a b et mk = .ok i) :
    encode i = some (encVX 11 d a b et.code mk f) := by
  unfold decVxi at h
  split at h <;> simp only [unusedZero_eq_ok, Except.ok.injEq, reduceCtorEq] at h <;> (try casesm* _ ∧ _) <;> subst_vars <;> rfl

theorem encode_of_decVxf {d a b : BitVec 4} {et : Et} {mk : BitVec 2} (h : decVxf f d a b et mk = .ok i) :
    encode i = some (encVX 12 d a b et.code mk f) := by
  unfold decVxf at h
  split at h <;> simp only [unusedZero_eq_ok, Except.ok.injEq, reduceCtorEq] at h <;> (try casesm* _ ∧ _) <;> subst_vars <;> rfl

/-- The mask registers of VXC are three bits in a field of four. -/
theorem encode_of_decVxc {d a b : BitVec 4} {et : Et} {mk : BitVec 2} (h : decVxc f d a b et mk = .ok i) :
    encode i = some (encVX 13 d a b et.code mk f) := by
  unfold decVxc at h
  split at h <;> simp only [reservedZero_eq_ok, unusedZero_eq_ok, Except.ok.injEq, reduceCtorEq] at h
  · subst h; rfl
  iterate 3
    obtain ⟨hd, ha, hb, rfl, rfl⟩ := h
    exact congrArg some (by rw [zero_append_sub13 hd, zero_append_sub13 ha, zero_append_sub13 hb])
  · obtain ⟨hd, ha, ⟨rfl, rfl⟩, rfl⟩ := h
    exact congrArg some (by rw [zero_append_sub13 hd, zero_append_sub13 ha])
  iterate 2
    obtain ⟨ha, ⟨rfl, rfl⟩, rfl⟩ := h
    exact congrArg some (by rw [zero_append_sub13 ha])

theorem encode_of_decVxm {d a b : BitVec 4} {et : Et} {mk : BitVec 2} (h : decVxm f d a b et mk = .ok i) :
    encode i = some (encVX 14 d a b et.code mk f) := by
  unfold decVxm at h
  split at h
  case h_1 =>
    obtain ⟨hb, h⟩ := reservedZero_eq_ok.1 h
    split at h
    next dt hdt =>
      cases h
      exact congrArg some (by rw [Et.code_of_ofCode hdt, zero_append_sub13 hb])
    next => cases h
  case h_10 =>
    obtain ⟨hb, h⟩ := reservedZero_eq_ok.1 h
    cases h
    exact congrArg some (by rw [zero_append_sub13 hb])
  all_goals simp only [unusedZero_eq_ok, Except.ok.injEq, reduceCtorEq] at h
  all_goals try casesm* _ ∧ _
  all_goals subst_vars; rfl

theorem encode_of_decVxl {d a b : BitVec 4} {et : Et} {mk : BitVec 2} (h : decVxl f d a b et mk = .ok i) :
    encode i = some (encVX 15 d a b et.code mk f) := by
  unfold decVxl at h
  split at h
  case h_7 =>
    obtain ⟨ha, h⟩ := reservedZero_eq_ok.1 h
    obtain ⟨⟨rfl, rfl⟩, h⟩ := unusedZero_eq_ok.1 h
    split at h
    next het =>
      cases h
      exact congrArg some (by rw [zero_append_sub22 ha, het]; rfl)
    next => cases h
  all_goals simp only [unusedZero_eq_ok, Except.ok.injEq, reduceCtorEq] at h
  all_goals try casesm* _ ∧ _
  all_goals subst_vars; rfl

variable {d a b : BitVec 5} {sc : Scope} {o : Order} {sz : BitVec 2}

theorem encode_of_decOrd (h : decOrd f d a b sc o sz = .ok i) : encode i = some (encS 28 d a b sc o sz f) := by
  unfold decOrd at h
  split at h <;> simp only [unusedZero_eq_ok, inRange_eq_ok, Except.ok.injEq, reduceCtorEq] at h <;> (try casesm* _ ∧ _) <;> subst_vars <;> rfl

theorem encode_of_decAmo (h : decAmo f d a b sc o sz = .ok i) : encode i = some (encS 29 d a b sc o sz f) := by
  unfold decAmo at h
  split at h <;> simp only [inRange_eq_ok, Except.ok.injEq, reduceCtorEq] at h <;> (try casesm* _ ∧ _) <;> subst_vars <;> rfl

theorem encode_of_decName (h : decName f d a b sc o sz = .ok i) : encode i = some (encS 30 d a b sc o sz f) := by
  unfold decName at h
  split at h <;> simp only [unusedZero_eq_ok, inRange_eq_ok, Except.ok.injEq, reduceCtorEq] at h
  · obtain ⟨rfl, rfl⟩ := h; rfl
  · obtain ⟨rfl, hs, rfl⟩ := h
    exact congrArg some (by rw [zero_append_sub11 hs])
  · obtain ⟨rfl, rfl⟩ := h; rfl
  · obtain ⟨hs, rfl⟩ := h
    exact congrArg some (by rw [zero_append_sub11 hs])
  · obtain ⟨rfl, ⟨rfl, rfl⟩, rfl⟩ := h; rfl

theorem encode_of_decSync (h : decSync f d a b sc o sz = .ok i) : encode i = some (encS 31 d a b sc o sz f) := by
  unfold decSync at h
  split at h <;> simp only [unusedZero_eq_ok, inRange_eq_ok, Except.ok.injEq, reduceCtorEq] at h <;> (try casesm* _ ∧ _) <;> subst_vars <;> rfl

theorem encode_of_decPeer (h : decPeer f d a b sc o sz = .ok i) : encode i = some (encS 46 d a b sc o sz f) := by
  unfold decPeer at h
  split at h <;> simp only [unusedZero_eq_ok, inRange_eq_ok, Except.ok.injEq, reduceCtorEq] at h <;> (try casesm* _ ∧ _) <;> subst_vars <;> rfl

end

/-! A format's reader hands its group's table the fields, and their word is the one read -/

section
variable {w : W32} {i : Instr} {m : Nat} (hm : (w.extractLsb' 26 6).toNat = m)
include hm

theorem encode_of_decA {k : Nat → BitVec 5 → BitVec 5 → BitVec 5 → Except DecodeError Instr}
    (hk : ∀ {f d a b}, k f d a b = .ok i → encode i = some (encA m d a b f)) (h : decA w k = .ok i) : encode i = some w := by
  rw [hk h, encA_of_fields hm]

theorem encode_of_decVX {last : Nat} {k : Nat → BitVec 4 → BitVec 4 → BitVec 4 → Et → BitVec 2 → Except DecodeError Instr}
    (hk : ∀ {f d a b et mk}, k f d a b et mk = .ok i → encode i = some (encVX m d a b et.code mk f))
    (h : decVX w last k = .ok i) : encode i = some w := by
  unfold decVX at h
  split at h
  · cases h
  split at h
  next => cases h
  next et het => rw [hk h, Et.code_of_ofCode het, encVX_of_fields hm]

theorem encode_of_decS {last : Nat}
    {k : Nat → BitVec 5 → BitVec 5 → BitVec 5 → Scope → Order → BitVec 2 → Except DecodeError Instr}
    (hk : ∀ {f d a b sc o sz}, k f d a b sc o sz = .ok i → encode i = some (encS m d a b sc o sz f))
    (h : decS w last k = .ok i) : encode i = some w := by
  unfold decS at h
  split at h
  · cases h
  split at h
  next => cases h
  next sc hsc => rw [hk h, encS_of_fields hm (Scope.code_of_ofCode hsc) (Order.code_ofCode _)]

end

/-- The immediate of a shift: eight zeros, the selector, the amount (R22). -/
theorem shi_imm {w : W32} {k : Nat} (hk : (w.extractLsb' 6 2).toNat = k) (h0 : w.extractLsb' 8 8 = 0) :
    (0 : BitVec 8) ++ BitVec.ofNat 2 k ++ w.extractLsb' 0 6 = fImm w := by
  subst hk
  rw [← h0, ofNat_toNat_self]
  simp only [fImm, BitVec.extractLsb'_append_extractLsb'_eq_extractLsb']

section
variable {w : W32} {i : Instr} {m : Nat}

theorem encode_of_decShi (hm : (w.extractLsb' 26 6).toNat = 8) (h : decShi w = .ok i) : encode i = some w := by
  unfold decShi at h
  split at h
  iterate 3
    next hk =>
      obtain ⟨h0, h⟩ := reservedZero_eq_ok.1 h
      cases h
      exact congrArg some (by rw [shi_imm hk h0, encI_of_fields hm])
  next => cases h

/-- A CHLD has zeros below its register. -/
theorem encQ_of_low (hm : (w.extractLsb' 26 6).toNat = m) (h : w.extractLsb' 0 22 = 0) : encQ m (w.extractLsb' 22 4) 0 0 0 = w := by
  have z {k n : Nat} (hkn : k + n ≤ 22) : w.extractLsb' k n = 0 := by
    ext i hi
    have e := congrArg (·.getLsbD (k + i)) h
    simpa [show k + i < 22 by omega] using e
  have e := encQ_of_fields hm (z (by decide))
  rwa [z (k := 19) (by decide), z (k := 18) (by decide), z (k := 17) (n := 1) (by decide)] at e

end

/-- The word that the encoder gives a decoded instruction is the one that was read. -/
theorem encode_of_decodeFields {w : W32} {i : Instr} (h : decodeFields w = .ok i) : encode i = some w := by
  unfold decodeFields at h
  split at h
  next hm => exact encode_of_decA hm encode_of_decSys h
  next hm => exact encode_of_decA hm encode_of_decAlu h
  next hm => cases h; exact congrArg some (encI_of_fields hm)
  next hm => cases h; exact congrArg some (encI_of_fields hm)
  next hm => cases h; exact congrArg some (encI_of_fields hm)
  next hm => cases h; exact congrArg some (encI_of_fields hm)
  next hm => cases h; exact congrArg some (encI_of_fields hm)
  next hm => cases h; exact congrArg some (encI_of_fields hm)
  next hm => exact encode_of_decShi hm h
  next hm =>
    obtain ⟨ha, h⟩ := reservedZero_eq_ok.1 h
    cases h
    exact congrArg some (by rw [zero_append_sub32 ha, encI_of_fields hm])
  next hm =>
    cases h
    exact congrArg some (by rw [BitVec.extractLsb'_append_eq_left, BitVec.extractLsb'_append_eq_right, encI_of_fields hm])
  next hm => exact encode_of_decVX hm encode_of_decVxi h
  next hm => exact encode_of_decVX hm encode_of_decVxf h
  next hm => exact encode_of_decVX hm encode_of_decVxc h
  next hm => exact encode_of_decVX hm encode_of_decVxm h
  next hm => exact encode_of_decVX hm encode_of_decVxl h
  next hm => cases h; exact congrArg some (encI_of_fields hm)
  next hm => cases h; exact congrArg some (encI_of_fields hm)
  next hm => cases h; exact congrArg some (encI_of_fields hm)
  next hm => cases h; exact congrArg some (encI_of_fields hm)
  next hm => cases h; exact congrArg some (encI_of_fields hm)
  next hm => cases h; exact congrArg some (encI_of_fields hm)
  next hm => cases h; exact congrArg some (encI_of_fields hm)
  next hm => cases h; exact congrArg some (encI_of_fields hm)
  next hm => cases h; exact congrArg some (encI_of_fields hm)
  next hm => cases h; exact congrArg some (encI_of_fields hm)
  next hm => cases h; exact congrArg some (encI_of_fields hm)
  next hm => exact encode_of_decS hm encode_of_decOrd h
  next hm => exact encode_of_decS hm encode_of_decAmo h
  next hm => exact encode_of_decS hm encode_of_decName h
  next hm => exact encode_of_decS hm encode_of_decSync h
  next hm => cases h; exact congrArg some (encI_of_fields hm)
  next hm => cases h; exact congrArg some (encI_of_fields hm)
  next hm => cases h; exact congrArg some (encI_of_fields hm)
  next hm => cases h; exact congrArg some (encI_of_fields hm)
  next hm => cases h; exact congrArg some (encI_of_fields hm)
  next hm => cases h; exact congrArg some (encI_of_fields hm)
  next hm => cases h; exact congrArg some (encJ_of_fields hm)
  next hm =>
    obtain ⟨-, h⟩ := reservedZero_eq_ok.1 h
    cases h
    exact congrArg some (encC_of_fields hm)
  next hm => exact encode_of_decA hm encode_of_decJr h
  next hm =>
    obtain ⟨ha, h⟩ := reservedZero_eq_ok.1 h
    cases h
    exact congrArg some (by rw [← ha, encB_of_fields hm])
  next hm => exact encode_of_decA hm encode_of_decTask h
  next hm => exact encode_of_decA hm encode_of_decStrm h
  next hm =>
    obtain ⟨h0, h⟩ := reservedZero_eq_ok.1 h
    cases h
    exact congrArg some (encQ_of_low hm h0)
  next hm =>
    obtain ⟨h0, h⟩ := reservedZero_eq_ok.1 h
    split at h
    next eng heng =>
      cases h
      exact congrArg some (by rw [Eng.code_of_ofCode heng, encQ_of_fields hm h0])
    next => cases h
  next hm => exact encode_of_decS hm encode_of_decPeer h
  next hm => cases h; exact congrArg some (encV_of_fields hm)
  next hm => cases h; exact congrArg some (encV_of_fields hm)
  next hm => cases h; exact congrArg some (encV_of_fields hm)
  next hm => cases h; exact congrArg some (encV_of_fields hm)
  next hm => cases h; exact congrArg some (encV_of_fields hm)
  next hm => cases h; exact congrArg some (encV_of_fields hm)
  next hm => cases h; exact congrArg some (encV_of_fields hm)
  next hm => cases h; exact congrArg some (encV_of_fields hm)
  next hm => cases h; exact congrArg some (encV_of_fields hm)
  next hm => cases h; exact congrArg some (encV_of_fields hm)
  next hm => cases h; exact congrArg some (encV_of_fields hm)
  next hm => cases h; exact congrArg some (encV_of_fields hm)
  next hm => cases h; exact congrArg some (encV_of_fields hm)
  next hm => cases h; exact congrArg some (encV_of_fields hm)
  next hm => cases h; exact congrArg some (encV_of_fields hm)
  next hm =>
    obtain ⟨ha, h⟩ := unusedZero_eq_ok.1 h
    cases h
    exact congrArg some (by rw [← ha, encV_of_fields hm])
  next => cases h


theorem decode_eq_ok {w : W32} {i : Instr} : decode w = .ok i ↔ decodeFields w = .ok i ∧ i.wfCheck = none := by
  unfold decode
  constructor
  · intro h
    split at h
    next => cases h
    next j hj =>
      split at h
      next hwf => cases h; exact ⟨hj, hwf⟩
      next => cases h
  · rintro ⟨h, hwf⟩
    simp only [h, hwf]

end Sys2Proof
end

section
/-! The words and their instructions (R16 to R24). -/
open Sys2Proof Sys2Proof.Machine Sys2Proof.Claims

/-- Settles O2: the round trip of each instruction, by the lemma of its constructor; commands and events have no word. -/
theorem encodeThenDecode : Obligations.EncodeThenDecode := by
  intro i
  cases i with
  | nop => exact Laws.Coded.nop
  | trap a => exact Laws.Coded.trap a
  | brk => exact Laws.Coded.brk
  | halt a => exact Laws.Coded.halt a
  | rdk d b => exact Laws.Coded.rdk d b
  | wrk a b => exact Laws.Coded.wrk a b
  | commit => exact Laws.Coded.commit
  | yield => exact Laws.Coded.yield
  | endTask => exact Laws.Coded.endTask
  | icinv => exact Laws.Coded.icinv
  | ksync a => exact Laws.Coded.ksync a
  | add d a b => exact Laws.Coded.add d a b
  | sub d a b => exact Laws.Coded.sub d a b
  | and d a b => exact Laws.Coded.and d a b
  | or d a b => exact Laws.Coded.or d a b
  | xor d a b => exact Laws.Coded.xor d a b
  | andn d a b => exact Laws.Coded.andn d a b
  | shl d a b => exact Laws.Coded.shl d a b
  | shr d a b => exact Laws.Coded.shr d a b
  | sra d a b => exact Laws.Coded.sra d a b
  | rol d a b => exact Laws.Coded.rol d a b
  | mul d a b => exact Laws.Coded.mul d a b
  | mulh d a b => exact Laws.Coded.mulh d a b
  | mulhu d a b => exact Laws.Coded.mulhu d a b
  | div d a b => exact Laws.Coded.div d a b
  | divu d a b => exact Laws.Coded.divu d a b
  | rem d a b => exact Laws.Coded.rem d a b
  | remu d a b => exact Laws.Coded.remu d a b
  | min d a b => exact Laws.Coded.min d a b
  | max d a b => exact Laws.Coded.max d a b
  | minu d a b => exact Laws.Coded.minu d a b
  | maxu d a b => exact Laws.Coded.maxu d a b
  | slt d a b => exact Laws.Coded.slt d a b
  | sltu d a b => exact Laws.Coded.sltu d a b
  | seq d a b => exact Laws.Coded.seq d a b
  | clz d a => exact Laws.Coded.clz d a
  | ctz d a => exact Laws.Coded.ctz d a
  | popc d a => exact Laws.Coded.popc d a
  | sextb d a => exact Laws.Coded.sextb d a
  | sexth d a => exact Laws.Coded.sexth d a
  | sextw d a => exact Laws.Coded.sextw d a
  | zextw d a => exact Laws.Coded.zextw d a
  | lea1 d a b => exact Laws.Coded.lea1 d a b
  | lea2 d a b => exact Laws.Coded.lea2 d a b
  | lea3 d a b => exact Laws.Coded.lea3 d a b
  | addi d a imm => exact Laws.Coded.addi d a imm
  | andi d a imm => exact Laws.Coded.andi d a imm
  | ori d a imm => exact Laws.Coded.ori d a imm
  | xori d a imm => exact Laws.Coded.xori d a imm
  | slti d a imm => exact Laws.Coded.slti d a imm
  | sltiu d a imm => exact Laws.Coded.sltiu d a imm
  | shli d a amt => exact Laws.Coded.shli d a amt
  | shri d a amt => exact Laws.Coded.shri d a amt
  | srai d a amt => exact Laws.Coded.srai d a amt
  | lih d pos imm => exact Laws.Coded.lih d pos imm
  | li d imm => exact Laws.Coded.li d imm
  | vaddt d a b et mk => exact Laws.Coded.vaddt d a b et mk
  | vsubt d a b et mk => exact Laws.Coded.vsubt d a b et mk
  | vmult d a b et mk => exact Laws.Coded.vmult d a b et mk
  | vmint d a b et mk => exact Laws.Coded.vmint d a b et mk
  | vmaxt d a b et mk => exact Laws.Coded.vmaxt d a b et mk
  | vabs d a et mk => exact Laws.Coded.vabs d a et mk
  | vneg d a et mk => exact Laws.Coded.vneg d a et mk
  | vshlt d a b et mk => exact Laws.Coded.vshlt d a b et mk
  | vshrt d a b et mk => exact Laws.Coded.vshrt d a b et mk
  | vsrat d a b et mk => exact Laws.Coded.vsrat d a b et mk
  | vadds d a b et mk => exact Laws.Coded.vadds d a b et mk
  | vsubs d a b et mk => exact Laws.Coded.vsubs d a b et mk
  | vfsub d a b et mk => exact Laws.Coded.vfsub d a b et mk
  | vfdiv d a b et mk => exact Laws.Coded.vfdiv d a b et mk
  | vfsqrt d a et mk => exact Laws.Coded.vfsqrt d a et mk
  | vfrcp d a et mk => exact Laws.Coded.vfrcp d a et mk
  | vfmint d a b et mk => exact Laws.Coded.vfmint d a b et mk
  | vfmaxt d a b et mk => exact Laws.Coded.vfmaxt d a b et mk
  | vfabs d a et mk => exact Laws.Coded.vfabs d a et mk
  | vfneg d a et mk => exact Laws.Coded.vfneg d a et mk
  | vfmat d a b et mk => exact Laws.Coded.vfmat d a b et mk
  | vcmp d a cond et mk => exact Laws.Coded.vcmp d a cond et mk
  | mand md ma mb et => exact Laws.Coded.mand md ma mb et
  | mor md ma mb et => exact Laws.Coded.mor md ma mb et
  | mxor md ma mb et => exact Laws.Coded.mxor md ma mb et
  | mnot md ma et => exact Laws.Coded.mnot md ma et
  | mpopc sd ma et => exact Laws.Coded.mpopc sd ma et
  | mfirst sd ma et => exact Laws.Coded.mfirst sd ma et
  | vcvt d a dt et rm => exact Laws.Coded.vcvt d a dt et rm
  | vsplat d sa et mk => exact Laws.Coded.vsplat d sa et mk
  | vext sd a sb et => exact Laws.Coded.vext sd a sb et
  | vins d sa sb et => exact Laws.Coded.vins d sa sb et
  | vredadd sd a et mk => exact Laws.Coded.vredadd sd a et mk
  | vredmin sd a et mk => exact Laws.Coded.vredmin sd a et mk
  | vredmax sd a et mk => exact Laws.Coded.vredmax sd a et mk
  | vscan d a et mk => exact Laws.Coded.vscan d a et mk
  | vperm d a b et mk => exact Laws.Coded.vperm d a b et mk
  | vcompress d a mb et mk => exact Laws.Coded.vcompress d a mb et mk
  | vld d sa et mk => exact Laws.Coded.vld d sa et mk
  | vst d sa et mk => exact Laws.Coded.vst d sa et mk
  | vlds d sa sb et mk => exact Laws.Coded.vlds d sa sb et mk
  | vsts d sa sb et mk => exact Laws.Coded.vsts d sa sb et mk
  | vgath d sa b et mk => exact Laws.Coded.vgath d sa b et mk
  | vscat d sa b et mk => exact Laws.Coded.vscat d sa b et mk
  | vsread d q => exact Laws.Coded.vsread d q
  | ldb d a imm => exact Laws.Coded.ldb d a imm
  | ldbs d a imm => exact Laws.Coded.ldbs d a imm
  | ldh d a imm => exact Laws.Coded.ldh d a imm
  | ldhs d a imm => exact Laws.Coded.ldhs d a imm
  | ldw d a imm => exact Laws.Coded.ldw d a imm
  | ldws d a imm => exact Laws.Coded.ldws d a imm
  | ldd d a imm => exact Laws.Coded.ldd d a imm
  | stb d a imm => exact Laws.Coded.stb d a imm
  | sth d a imm => exact Laws.Coded.sth d a imm
  | stw d a imm => exact Laws.Coded.stw d a imm
  | std d a imm => exact Laws.Coded.std d a imm
  | lda d a scope size => exact Laws.Coded.lda d a scope size
  | stl d a scope size => exact Laws.Coded.stl d a scope size
  | fst d a b scope order size => exact Laws.Coded.fst d a b scope order size
  | fence scope order => exact Laws.Coded.fence scope order
  | amoadd d a b scope order size => exact Laws.Coded.amoadd d a b scope order size
  | amoand d a b scope order size => exact Laws.Coded.amoand d a b scope order size
  | amoor d a b scope order size => exact Laws.Coded.amoor d a b scope order size
  | amoxor d a b scope order size => exact Laws.Coded.amoxor d a b scope order size
  | amosmin d a b scope order size => exact Laws.Coded.amosmin d a b scope order size
  | amosmax d a b scope order size => exact Laws.Coded.amosmax d a b scope order size
  | amoumin d a b scope order size => exact Laws.Coded.amoumin d a b scope order size
  | amoumax d a b scope order size => exact Laws.Coded.amoumax d a b scope order size
  | amoswap d a b scope order size => exact Laws.Coded.amoswap d a b scope order size
  | amocas d a b scope order size => exact Laws.Coded.amocas d a b scope order size
  | amofadd d a b scope order => exact Laws.Coded.amofadd d a b scope order
  | amocas128 d a b scope order => exact Laws.Coded.amocas128 d a b scope order
  | nnew d a b scope order => exact Laws.Coded.nnew d a b scope order
  | nkill d a scope order sync => exact Laws.Coded.nkill d a scope order sync
  | nres d a b scope order => exact Laws.Coded.nres d a b scope order
  | ncas d a b scope order live => exact Laws.Coded.ncas d a b scope order live
  | nwait d a scope => exact Laws.Coded.nwait d a scope
  | waita d a b scope => exact Laws.Coded.waita d a b scope
  | wake d a b scope order => exact Laws.Coded.wake d a b scope order
  | bara d a => exact Laws.Coded.bara d a
  | barw d a b => exact Laws.Coded.barw d a b
  | beq a b off => exact Laws.Coded.beq a b off
  | bne a b off => exact Laws.Coded.bne a b off
  | blt a b off => exact Laws.Coded.blt a b off
  | bge a b off => exact Laws.Coded.bge a b off
  | bltu a b off => exact Laws.Coded.bltu a b off
  | bgeu a b off => exact Laws.Coded.bgeu a b off
  | jmp off => exact Laws.Coded.jmp off
  | call fsz off => exact Laws.Coded.call fsz off
  | jr a => exact Laws.Coded.jr a
  | jalr a => exact Laws.Coded.jalr a
  | ret => exact Laws.Coded.ret
  | loop a off => exact Laws.Coded.loop a off
  | spawn d a b => exact Laws.Coded.spawn d a b
  | send d a b => exact Laws.Coded.send d a b
  | recv d a => exact Laws.Coded.recv d a
  | setprio d a => exact Laws.Coded.setprio d a
  | taskname d a => exact Laws.Coded.taskname d a
  | sread d q => exact Laws.Coded.sread d q
  | speek d q => exact Laws.Coded.speek d q
  | sstat d q => exact Laws.Coded.sstat d q
  | sdrop q => exact Laws.Coded.sdrop q
  | chld vs => exact Laws.Coded.chld vs
  | cmdq vs eng n chk => exact Laws.Coded.cmdq vs eng n chk
  | tokacq d a => exact Laws.Coded.tokacq d a
  | tokrel d a => exact Laws.Coded.tokrel d a
  | vadd d a b twist mk => exact Laws.Coded.vadd d a b twist mk
  | vsub d a b twist mk => exact Laws.Coded.vsub d a b twist mk
  | vmul d a b twist mk => exact Laws.Coded.vmul d a b twist mk
  | vmac d a b twist mk => exact Laws.Coded.vmac d a b twist mk
  | vand d a b twist mk => exact Laws.Coded.vand d a b twist mk
  | vor d a b twist mk => exact Laws.Coded.vor d a b twist mk
  | vxor d a b twist mk => exact Laws.Coded.vxor d a b twist mk
  | vshl d a b twist mk => exact Laws.Coded.vshl d a b twist mk
  | vshr d a b twist mk => exact Laws.Coded.vshr d a b twist mk
  | vmin d a b twist mk => exact Laws.Coded.vmin d a b twist mk
  | vmax d a b twist mk => exact Laws.Coded.vmax d a b twist mk
  | vfadd d a b twist mk => exact Laws.Coded.vfadd d a b twist mk
  | vfmul d a b twist mk => exact Laws.Coded.vfmul d a b twist mk
  | vfma d a b twist mk => exact Laws.Coded.vfma d a b twist mk
  | vsel d a b twist mk => exact Laws.Coded.vsel d a b twist mk
  | vmov d b twist mk => exact Laws.Coded.vmov d b twist mk
  | _ => exact fun _ h => nomatch h

/-- Settles O3: the word's major opcode selects the table that decodes it, and the encoder puts the fields read back in their places. -/
theorem decodeThenEncode : Obligations.DecodeThenEncode := by
  intro w i h
  obtain ⟨hf, hwf⟩ := decode_eq_ok.1 h
  exact ⟨encode_of_decodeFields hf, hwf⟩

/-- Settles O1, by running the decoder on each word. -/
theorem writtenWordsDecode : Obligations.WrittenWordsDecode := by
  refine ⟨rfl, rfl, rfl, rfl, rfl, rfl, rfl, rfl, rfl, rfl, rfl, rfl, rfl, rfl, rfl⟩

namespace Sys2Proof

/-- The three fields of a twist, as the numbers the rule speaks of (R20). -/
theorem twist_fields (tw : BitVec 12) : (tw.extractLsb' 10 2).toNat = tw.toNat / 2 ^ 10 ∧ (tw.extractLsb' 7 3).toNat = tw.toNat / 2 ^ 7 % 8 ∧
    (tw.extractLsb' 0 7).toNat = tw.toNat % 2 ^ 7 := by
  have := tw.isLt
  simp [BitVec.extractLsb'_toNat, Nat.shiftRight_eq_div_pow]
  omega

end Sys2Proof

/-- Settles O14: the three fields of the twist decide which of the rule's cases it is. -/
theorem twistsReadTheirSegment : Obligations.TwistsReadTheirSegment := by
  intro tw
  obtain ⟨h1, h2, h3⟩ := twist_fields tw
  have hlt := tw.isLt
  dsimp only
  have h4 : fld tw.toNat 10 2 = tw.toNat / 2 ^ 10 := Nat.mod_eq_of_lt (by omega)
  have h5 : fld tw.toNat 7 3 = tw.toNat / 2 ^ 7 % 8 := rfl
  have h6 : fld tw.toNat 0 7 = tw.toNat % 2 ^ 7 := by simp [fld]
  constructor
  · unfold twistOk
    rw [h1, h2, h3]
    have : tw.toNat / 2 ^ 10 < 4 := by omega
    generalize tw.toNat / 2 ^ 10 = cls at *
    generalize tw.toNat / 2 ^ 7 % 8 = seg at *
    generalize tw.toNat % 2 ^ 7 = dist at *
    by_cases h : cls = 0
    · simp [h]
    by_cases h' : cls = 2
    · simp [h']; tauto
    · simp [h, h']
  · intro _ i _
    unfold twistIdx
    rw [h4, h5, h6]
    have hc : tw.toNat / 2 ^ 10 < 4 := by omega
    refine ⟨fun h => if_pos h, fun h => ?_, fun h => ?_, fun h => ?_⟩
    all_goals rw [h]; rfl

end

section
/-! SUPPORT. The fields of a fault packet, and the turn of a slot that runs. -/
namespace Sys2Proof.Machine

/-! The fields of a fault packet (R320) -/

theorem clusterOf_coreOf_lt {g : Nat} (h : g < Config.slots) : clusterOf (coreOf g) < 2048 := by
  have hs : g < 4 * (65536 + 64) := h
  unfold clusterOf coreOf
  show (if g / 4 < 65536 then g / 4 / 32 else 32 * (g / 4 - 65536)) < 2048
  split <;> omega

/-- A packet as a number: its fields stand side by side and fill no more than 256 bits. -/
theorem State.packet_fields (s : State) (f : FaultInfo) {g : Nat} (hg : g < Config.slots) :
    fld (s.packet g f).toNat 0 8 = f.cause.toNat ∧ fld (s.packet g f).toNat 8 2 = g % 4 ∧
    fld (s.packet g f).toNat 10 5 = (if isSup (coreOf g) then 0 else coreOf g % 32) ∧
    fld (s.packet g f).toNat 15 11 = clusterOf (coreOf g) ∧ fld (s.packet g f).toNat 26 1 = b2n (s.slot g).through ∧
    fld (s.packet g f).toNat 27 5 = 0 ∧ fld (s.packet g f).toNat 32 48 = (s.slot g).pc.toNat ∧
    fld (s.packet g f).toNat 80 48 = (s.slot g).rstpc.toNat ∧ fld (s.packet g f).toNat 128 64 = f.addr.toNat ∧
    fld (s.packet g f).toNat 192 64 = f.detail.toNat := by
  have hcl := clusterOf_coreOf_lt hg
  have hc : (if isSup (coreOf g) then 0 else coreOf g % 32) < 32 := by split <;> omega
  have hb : b2n (s.slot g).through < 2 := by unfold b2n; split <;> omega
  have h0 := f.cause.isLt
  have h1 := (s.slot g).pc.isLt
  have h2 := (s.slot g).rstpc.isLt
  have h3 := f.addr.isLt
  have h4 := f.detail.isLt
  unfold State.packet fld
  rw [BitVec.toNat_ofNat]
  generalize (if isSup (coreOf g) then 0 else coreOf g % 32) = c at *
  generalize clusterOf (coreOf g) = cl at *
  generalize b2n (s.slot g).through = b at *
  generalize f.cause.toNat = x0 at *
  generalize (s.slot g).pc.toNat = x1 at *
  generalize (s.slot g).rstpc.toNat = x2 at *
  generalize f.addr.toNat = x3 at *
  generalize f.detail.toNat = x4 at *
  clear hg
  refine ⟨?_, ?_, ?_, ?_, ?_, ?_, ?_, ?_, ?_, ?_⟩ <;> omega

/-! The turn of a slot (R252) -/

theorem slotTurn_of_running {s : State} {g : Nat} (hc : ({ s with cur := g } : State).canIssue g = true)
    (hr : (({ s with cur := g } : State).slot g).state = .running)
    (hn : (({ s with cur := g } : State).slot g).restoring = false) :
    s.slotTurn g = if (({ s with cur := g } : State).slot g).begun then ({ s with cur := g } : State).runWord (({ s with cur := g } : State).slot g).word
      else ({ s with cur := g } : State).nextWord := by
  simp [State.slotTurn, hc, hr, hn]

/-- What a step makes of its agent's answer: what follows at once happens. -/
def State.settleAns (s : State) : Ans → Ans
  | .next t => .next (s.settle t)
  | .fault f => .fault f
  | .refused r => .refused r

theorem step_eq_settleAns (s : State) : step s = State.settleAns s (s.onTurn.act s.turn.1.act) := rfl

theorem step_of_slot {s : State} {g : Nat} (ha : s.turn.1.act = .slot g) (hg : g < Config.slots) :
    step s = State.settleAns s (s.onTurn.slotTurn g) := by
  rw [step_eq_settleAns, ha, State.act, if_pos hg]

theorem runWord_of_decode {s : State} {w : W32} {i : Instr} (hd : decode w = .ok i) (ha : s.awaits s.cur i = false) : s.runWord w = exec i s := by
  simp [State.runWord, hd, ha]

end Sys2Proof.Machine
end

section
/-! A step runs the decoded word; a word that is none is ILLEGAL (R24). -/
open Sys2Proof Sys2Proof.Machine Sys2Proof.Claims

/-- Settles O4: running such a word is the precise fault ILLEGAL, so the slot is as `State.freeze` leaves it. -/
theorem undecodableWordIsIllegal : Obligations.UndecodableWordIsIllegal := by
  intro s w e hw
  have hme : (s.freeze s.cur ⟨1, 0, BitVec.zeroExtend 64 w⟩).me = (s.freeze s.cur ⟨1, 0, BitVec.zeroExtend 64 w⟩).slot s.cur := by
    rw [State.me, State.freeze_cur]
  refine ⟨s.freeze s.cur ⟨1, 0, BitVec.zeroExtend 64 w⟩, ?_, ?_⟩
  · unfold State.runWord
    rw [hw]; rfl
  · rw [hme, State.freeze_slot]
    refine ⟨rfl, rfl, rfl, rfl, rfl, rfl, rfl, fun hg => ?_⟩
    obtain ⟨hc, -, -, -, -, -, hpc, -, -, hd⟩ := s.packet_fields ⟨1, 0, BitVec.zeroExtend 64 w⟩ hg
    refine ⟨hc, hpc, hd.trans ?_⟩
    have := w.isLt
    simp; omega

namespace Sys2Proof.Claims

theorem freshWordRuns_holds : freshWordRuns := by
  intro s u v g w i ha hg hc hr hn hb hf hbw hcur hd haw
  have hw : ({ s.onTurn with cur := g } : State).nextWord = v.runWord w := by
    unfold State.nextWord
    simp only [hf, hbw]
  rw [step_of_slot ha hg, slotTurn_of_running hc hr hn, hb, if_neg (by simp), hw, runWord_of_decode hd (by rw [hcur, haw])]
  rfl

theorem begunWordRuns_holds : begunWordRuns := by
  intro s g i ha hg hc hr hn hb hd haw
  rw [step_of_slot ha hg, slotTurn_of_running hc hr hn, hb, if_pos rfl, runWord_of_decode hd haw]
  rfl


end Sys2Proof.Claims

/-- Settles O5: the turn of a running slot is the run of its word, fetched or begun. -/
theorem stepRunsDecodedWord : Obligations.StepRunsDecodedWord := ⟨freshWordRuns_holds, begunWordRuns_holds⟩

end

section
/-! SUPPORT. Every meaning answers a next state: the shared operations do when what follows them does, so every word and every event does,
and so does the turn of a slot that exists. -/
namespace Sys2Proof.Machine

/-- A meaning answers a next state: no fault, no refusal. -/
def Answers (r : Ans) : Prop := ∃ t, r = .next t

@[simp] theorem answers_next (t : State) : Answers (.next t) := ⟨t, rfl⟩

@[simp] theorem answers_ite {c : Prop} [Decidable c] {a b : Ans} : Answers (if c then a else b) ↔ (c → Answers a) ∧ (¬ c → Answers b) := by
  split <;> simp [*]
theorem answers_of_ite {c : Prop} [Decidable c] {a b : Ans} (ha : Answers a) (hb : Answers b) : Answers (if c then a else b) := by
  split
  · exact ha
  · exact hb

/-! The shared operations answer when what follows them does -/

section
variable {s t : State} {k : State → Ans}

@[simp] theorem precise_answers {c : BitVec 8} {a d : W64} : Answers (s.precise c a d) := answers_next _
@[simp] theorem illegal_answers {w : W32} : Answers (s.illegal w) := answers_next _
@[simp] theorem finish_answers {d : BitVec 5} {v : W64} : Answers (s.finish d v) := answers_next _

theorem commitThen_answers (h : ∀ s, Answers (k s)) : Answers (s.commitThen k) := by simp [State.commitThen, h]
@[simp] theorem orEvict_answers {f : FaultInfo} {j : State → State} : Answers (s.orEvict t f j) := by simp [State.orEvict]
theorem orFault_answers {α : Type} {r : Got α} {k : α → Ans} (h : ∀ a, Answers (k a)) : Answers (orFault s r k) := by
  cases r <;> simp [orFault, h]
theorem orFaultAt_answers {α : Type} {r : State × Met α} {k : State → α → Ans} (h : ∀ t a, Answers (k t a)) : Answers (orFaultAt s r k) := by
  obtain ⟨t, r⟩ := r
  cases r <;> simp [orFaultAt, h]
theorem guardGate_answers (h : ∀ s, Answers (k s)) : Answers (s.guardGate k) := by
  unfold State.guardGate
  (repeat' split) <;> simp [h]
theorem suspendFrom_answers (h : ∀ s, Answers (k s)) : Answers (t.suspendFrom s k) := by
  unfold State.suspendFrom
  dsimp only
  (repeat' split) <;> simp [h]
theorem suspend_answers (h : ∀ s, Answers (k s)) : Answers (s.suspend k) := suspendFrom_answers h
theorem migrate_answers {bits : Nat} : Answers (s.migrate bits) := by
  refine guardGate_answers fun s => ?_
  dsimp only
  (repeat' split)
  · exact answers_next _
  · exact answers_next _
  · exact answers_next _
  · exact suspendFrom_answers fun _ => answers_next _
theorem needs_answers {bits : Nat} (h : ∀ s, Answers (k s)) : Answers (s.needs bits k) := by
  simp [State.needs, h, migrate_answers]
theorem operands_answers {fs : List (Option FaultInfo)} {r : Ans} (h : Answers r) : Answers (s.operands fs r) := by
  unfold State.operands
  split <;> simp [h]
theorem parkGate_answers {b : Bool} {r : Ans} (h : Answers r) : Answers (s.parkGate b r) := by
  simp [State.parkGate, h, guardGate_answers]
theorem streamRead_answers {q : BitVec 2} {k : W64 → State → Ans} (h : ∀ v, Answers (k v s)) : Answers (streamRead q k s) := by
  unfold streamRead
  dsimp only
  (repeat' split) <;> simp [h]
@[simp] theorem orStall_answers {r : Met State} : Answers (orStall s r) := by
  cases r <;> simp [orStall]
@[simp] theorem drain_answers {p : Entry → Bool} : Answers (s.drain p) := by simp [State.drain]
@[simp] theorem sendWord_answers {e : Entry} {sc : Scope} : Answers (s.sendWord e sc) := answers_next _
@[simp] theorem sendAmo_answers {f n : Nat} {a : W64} {b e : W128} {d : BitVec 5} {blk : W64} {c : Bool} {sc : Scope} {o : Order} :
    Answers (s.sendAmo f n a b e d blk c sc o) := answers_next _
@[simp] theorem sendName_answers {f : NameFn} {n : W128} {v : W64} {d : BitVec 5} {sc : Scope} {o : Order} :
    Answers (s.sendName f n v d sc o) := answers_next _
@[simp] theorem bufferEntries_answers {es : List Entry} : Answers (s.bufferEntries es) := by
  unfold State.bufferEntries
  (repeat' split) <;> simp
@[simp] theorem bufferEarly_answers {es : List Entry} {p : Entry → Bool} : Answers (s.bufferEarly es p) := by
  unfold State.bufferEarly
  (repeat' split) <;> simp
@[simp] theorem park_answers {on : WaitOn} {d : BitVec 5} {sc : Scope} {a : W64} : Answers (s.park on d sc a) :=
  guardGate_answers fun _ => suspend_answers fun _ => answers_next _
@[simp] theorem afterPiece_answers {c : Nat} {n : Option (Nat × Nat)} {r : State × Met (Option W64)} : Answers (s.afterPiece c n r) := by
  unfold State.afterPiece
  split <;> simp
theorem copyStep_answers {op c : Nat} {body : Cmd → Nat → Nat → State → Ans} (h : ∀ k i o, Answers (body k i o s)) :
    Answers (copyStep op c body s) := by
  unfold copyStep
  (repeat' split) <;> simp [h]
theorem matStep_answers {op c : Nat} {body : Cmd → State → Met State} {after : Cmd → Tile → Nat → State → Met State} :
    Answers (matStep op c body s after) := by
  unfold matStep
  (repeat' split) <;> simp

end

/-! Words that commit, check operands or need features -/

section
variable {s : State} {a b d : BitVec 5}

theorem callStep_answers {n : Nat} {p : Pc} : Answers (callStep n p s) := orFaultAt_answers fun _ _ => answers_next _
theorem execJalr_answers : Answers (execJalr a s) := by
  simp [execJalr, commitThen_answers, callStep_answers]
theorem execRet_answers : Answers (execRet s) := by
  refine commitThen_answers fun s => ?_
  simp [orFaultAt_answers]
theorem execYield_answers : Answers (execYield s) :=
  guardGate_answers fun _ => commitThen_answers fun _ => suspend_answers fun _ => answers_next _
theorem execEndTask_answers : Answers (execEndTask s) :=
  guardGate_answers fun _ => commitThen_answers fun _ => suspend_answers fun _ => by simp
theorem execKsync_answers : Answers (execKsync a s) := by
  simp [execKsync, commitThen_answers]
theorem vecWord_answers {n w : Nat} {d : BitVec 4} {mk : BitVec 2} {f : Slot → Nat → Nat} : Answers (vecWord n w d mk f s) :=
  needs_answers fun _ => answers_next _
theorem maskWord_answers {f : W32 → W32} {d a : BitVec 3} {et : Et} : Answers (maskWord f d a et s) :=
  needs_answers fun _ => answers_next _
theorem reduce_answers {op : Nat} {d a : BitVec 4} {et : Et} {mk : BitVec 2} : Answers (reduce op d a et mk s) :=
  needs_answers fun _ => answers_next _
theorem execVsread_answers {d : BitVec 4} {q : BitVec 2} : Answers (execVsread d q s) := by
  refine needs_answers fun s => ?_
  simp

theorem issueLoad_answers {ea : W64} {n : Nat} {sg : Bool} {acq : Scope} {bl : Bool} : Answers (s.issueLoad ea n sg d acq bl) := by
  simp [State.issueLoad]
theorem loadAt_answers {n : Nat} {sg : Bool} {ea : W64} {acq : Scope} : Answers (loadAt n sg d ea acq s) := by
  unfold loadAt
  dsimp only
  (repeat' split) <;> simp [issueLoad_answers]
theorem storeAt_answers {n v : Nat} {ea : W64} : Answers (storeAt n ea v s) := by
  unfold storeAt
  dsimp only
  (repeat' split) <;> simp
theorem execStl_answers {sc : Scope} {n : BitVec 2} : Answers (execStl d a sc n s) := by
  unfold execStl
  dsimp only
  (repeat' split) <;> simp [commitThen_answers]
theorem execFst_answers {sc : Scope} {o : Order} {n : BitVec 2} : Answers (execFst d a b sc o n s) := by
  simp [execFst, commitThen_answers]
theorem execFence_answers {sc : Scope} {o : Order} : Answers (execFence sc o s) := by
  simp [execFence, commitThen_answers]
theorem vload_answers {d : BitVec 4} {et : Et} {mk : BitVec 2} {c : Bool} {f : Slot → Nat → W64} : Answers (vload d et mk c f s) := by
  refine needs_answers fun s => ?_
  extract_lets g cc x w es
  cases s.elemsFault es w false with
  | some f => exact precise_answers
  | none =>
    refine answers_of_ite drain_answers ?_
    refine answers_of_ite (answers_next _) (answers_of_ite (answers_next _) (answers_of_ite (answers_next _) (answers_of_ite ?_ ?_)))
    · extract_lets
      split <;> exact answers_next _
    · exact answers_of_ite (answers_next _) (answers_next _)
theorem vstore_answers {d : BitVec 4} {et : Et} {mk : BitVec 2} {c : Bool} {f : Slot → Nat → W64} : Answers (vstore d et mk c f s) := by
  refine needs_answers fun s => ?_
  dsimp only
  (repeat' split) <;> simp

theorem amo_answers {f n : Nat} {sc : Scope} {o : Order} : Answers (amo f n d a b sc o s) := by
  unfold amo
  refine answers_of_ite precise_answers (answers_of_ite precise_answers (answers_of_ite precise_answers (answers_of_ite precise_answers
    (operands_answers (answers_of_ite ?_ (commitThen_answers fun s => answers_of_ite (orFault_answers fun _ => ?_) ?_))))))
  · exact answers_of_ite drain_answers (answers_of_ite (answers_next _) (answers_of_ite (answers_next _) bufferEntries_answers))
  · exact answers_of_ite sendWord_answers sendAmo_answers
  · exact answers_of_ite sendWord_answers sendAmo_answers
theorem execTokacq_answers : Answers (execTokacq d a s) := by
  refine needs_answers fun s => operands_answers ?_
  simp
theorem execTokrel_answers : Answers (execTokrel d a s) := by
  refine needs_answers fun s => operands_answers (commitThen_answers fun s => ?_)
  simp

theorem execSpawn_answers : Answers (execSpawn d a b s) := by
  refine operands_answers (commitThen_answers fun s => orFault_answers fun _ => orFault_answers fun _ => ?_)
  simp
theorem execSend_answers : Answers (execSend d a b s) := by
  refine operands_answers (commitThen_answers fun s => ?_)
  simp [orFault_answers]
theorem execRecv_answers : Answers (execRecv d a s) := by
  simp [execRecv, operands_answers, commitThen_answers]
theorem execTaskname_answers : Answers (execTaskname d a s) := by
  refine operands_answers ?_
  dsimp only
  (repeat' split) <;> simp

theorem execNnew_answers {sc : Scope} {o : Order} : Answers (execNnew d a b sc o s) :=
  operands_answers (commitThen_answers fun _ => orFault_answers fun _ => sendName_answers)
theorem execNkill_answers {sc : Scope} {o : Order} {sy : BitVec 1} : Answers (execNkill d a sc o sy s) :=
  operands_answers (commitThen_answers fun _ => orFault_answers fun _ => sendName_answers)
theorem execNres_answers {sc : Scope} {o : Order} : Answers (execNres d a b sc o s) :=
  operands_answers (commitThen_answers fun _ => orFault_answers fun _ => sendName_answers)
theorem execNcas_answers {sc : Scope} {o : Order} {l : BitVec 1} : Answers (execNcas d a b sc o l s) :=
  operands_answers (commitThen_answers fun _ => orFault_answers fun _ => sendAmo_answers)

theorem execWaita_answers {sc : Scope} : Answers (execWaita d a b sc s) := by
  refine operands_answers (parkGate_answers (commitThen_answers fun s => ?_))
  dsimp only
  (repeat' split) <;> simp
theorem execWake_answers {sc : Scope} {o : Order} : Answers (execWake d a b sc o s) := by
  refine operands_answers (commitThen_answers fun s => ?_)
  dsimp only
  (repeat' split) <;> simp
theorem execBara_answers : Answers (execBara d a s) := by
  refine operands_answers (guardGate_answers fun s => commitThen_answers fun s => orFault_answers fun _ => ?_)
  dsimp only
  (repeat' split) <;> simp
theorem execBarw_answers : Answers (execBarw d a b s) := by
  refine operands_answers (parkGate_answers (commitThen_answers fun s => orFault_answers fun _ => ?_))
  dsimp only
  (repeat' split) <;> simp
theorem execNwait_answers {sc : Scope} : Answers (execNwait d a sc s) := by
  refine operands_answers (parkGate_answers (commitThen_answers fun s => orFault_answers fun _ => ?_))
  simp
theorem execChld_answers {vs : BitVec 4} : Answers (execChld vs s) := by
  refine needs_answers fun s => ?_
  simp
theorem execCmdq_answers {vs : BitVec 4} {eng : Eng} {n chk : BitVec 1} : Answers (execCmdq vs eng n chk s) := by
  refine needs_answers fun s => ?_
  simp [commitThen_answers]

end

/-! Commands of the engines -/

section
variable {s : State} {c : Nat}

theorem gathScat_answers {sc : Bool} {k : Cmd} {i : Nat} : Answers (gathScat sc c k i s) := by
  unfold gathScat
  dsimp only
  (repeat' split) <;> simp
theorem execFill_answers : Answers (execFill c s) := copyStep_answers fun _ _ _ => afterPiece_answers
theorem execWload_answers : Answers (execWload c s) := by
  refine copyStep_answers fun k i o => ?_
  dsimp only
  (repeat' split) <;> simp
theorem execPack_answers : Answers (execPack c s) := by
  refine copyStep_answers fun k b _ => ?_
  dsimp only
  (repeat' split) <;> simp

end

/-! Control words and events, one lemma each -/

section
variable {s : State}
theorem execJr_answers {a : BitVec 5} : Answers (execJr a s) := by
  unfold execJr
  dsimp only
  (repeat' split) <;> exact answers_next _
theorem execRdk_answers {d b : BitVec 5} : Answers (execRdk d b s) := by
  unfold execRdk
  (repeat' split) <;> exact answers_next _
theorem execWrk_answers {a b : BitVec 5} : Answers (execWrk a b s) := by
  unfold execWrk
  dsimp only
  (repeat' split) <;> exact answers_next _
theorem execIcinvComplete_answers {g : Nat} : Answers (execIcinvComplete g s) := by
  unfold execIcinvComplete
  dsimp only
  (repeat' split) <;> exact answers_next _
theorem execKsyncComplete_answers {g : Nat} : Answers (execKsyncComplete g s) := by
  unfold execKsyncComplete
  dsimp only
  (repeat' split) <;> exact answers_next _
theorem execDispatch_answers {g : Nat} : Answers (execDispatch g s) := by
  unfold execDispatch
  dsimp only
  (repeat' split) <;> exact answers_next _
theorem execHoldLimit_answers {g : Nat} : Answers (execHoldLimit g s) := by
  unfold execHoldLimit
  dsimp only
  (repeat' split) <;> exact answers_next _
theorem execFaultPacketRelease_answers {d : Nat} : Answers (execFaultPacketRelease d s) := by
  unfold execFaultPacketRelease
  dsimp only
  (repeat' split) <;> exact answers_next _
theorem execCompletionRecordRelease_answers {p : Nat} : Answers (execCompletionRecordRelease p s) := by
  unfold execCompletionRecordRelease
  dsimp only
  (repeat' split) <;> exact answers_next _
theorem execCtxkillComplete_answers : Answers (execCtxkillComplete s) := by
  unfold execCtxkillComplete
  dsimp only
  (repeat' split) <;> exact answers_next _
theorem execTcinvDone_answers {d : Nat} : Answers (execTcinvDone d s) := by
  unfold execTcinvDone
  dsimp only
  (repeat' split) <;> exact answers_next _
theorem execHandOverComplete_answers {d : Nat} : Answers (execHandOverComplete d s) := by
  unfold execHandOverComplete
  dsimp only
  (repeat' split) <;> exact answers_next _
theorem execRetireComplete_answers {d : Nat} : Answers (execRetireComplete d s) := by
  unfold execRetireComplete
  dsimp only
  (repeat' split) <;> exact answers_next _
theorem execMigrationCopyDone_answers {d n : Nat} : Answers (execMigrationCopyDone d n s) := by
  unfold execMigrationCopyDone
  dsimp only
  (repeat' split) <;> exact answers_next _
theorem execWsStateChange_answers {d : Nat} : Answers (execWsStateChange d s) := by
  unfold execWsStateChange
  dsimp only
  (repeat' split) <;> exact answers_next _
theorem execSpawnAppend_answers {n : Nat} : Answers (execSpawnAppend n s) := by
  unfold execSpawnAppend
  dsimp only
  (repeat' split) <;> exact answers_next _
theorem execSendDelivery_answers {n : Nat} : Answers (execSendDelivery n s) := by
  unfold execSendDelivery
  dsimp only
  (repeat' split) <;> exact answers_next _
theorem execSendStatus_answers {g : Nat} : Answers (execSendStatus g s) := by
  unfold execSendStatus
  dsimp only
  (repeat' split) <;> exact answers_next _
theorem execRxring_answers {g w : Nat} {v : W64} : Answers (execRxring g w v s) := by
  unfold execRxring
  (repeat' split) <;> exact answers_next _
theorem execSetprio_answers {d a : BitVec 5} : Answers (execSetprio d a s) := by
  unfold execSetprio
  dsimp only
  (repeat' split) <;> exact answers_next _
theorem execGraphNodeSpawn_answers {n : Nat} : Answers (execGraphNodeSpawn n s) := by
  unfold execGraphNodeSpawn
  dsimp only
  (repeat' split) <;> exact answers_next _
theorem execHomeCorrection_answers {n : Nat} : Answers (execHomeCorrection n s) := by
  unfold execHomeCorrection
  dsimp only
  (repeat' split) <;> exact answers_next _
theorem execHomeRequest_answers {n : Nat} {peer : BitVec 8} : Answers (execHomeRequest n peer s) := by
  unfold execHomeRequest
  dsimp only
  (repeat' split) <;> exact answers_next _
theorem execLocalMemoryRequest_answers {n : Nat} : Answers (execLocalMemoryRequest n s) := by
  unfold execLocalMemoryRequest
  dsimp only
  (repeat' split) <;> exact answers_next _
theorem execWeightStoreRequest_answers {n : Nat} : Answers (execWeightStoreRequest n s) := by
  unfold execWeightStoreRequest
  dsimp only
  (repeat' split) <;> exact answers_next _
theorem execLoadReturn_answers {n : Nat} : Answers (execLoadReturn n s) := by
  unfold execLoadReturn
  dsimp only
  (repeat' split) <;> exact answers_next _
theorem execGuardNote_answers {n : Nat} : Answers (execGuardNote n s) := by
  unfold execGuardNote
  dsimp only
  (repeat' split) <;> exact answers_next _
theorem execCommitComplete_answers {g : Nat} : Answers (execCommitComplete g s) := by
  unfold execCommitComplete
  (repeat' split) <;> exact answers_next _
theorem execCommitRefusal_answers {g : Nat} : Answers (execCommitRefusal g s) := by
  unfold execCommitRefusal
  (repeat' split) <;> exact answers_next _
theorem execAtomicAtNse_answers {n : Nat} {peer : BitVec 8} : Answers (execAtomicAtNse n peer s) := by
  unfold execAtomicAtNse
  dsimp only
  (repeat' split) <;> exact answers_next _
theorem execAtomicReturn_answers {g : Nat} : Answers (execAtomicReturn g s) := by
  unfold execAtomicReturn
  dsimp only
  (repeat' split) <;> exact answers_next _
theorem execTokenRecall_answers {n : Nat} : Answers (execTokenRecall n s) := by
  unfold execTokenRecall
  (repeat' split) <;> exact answers_next _
theorem execNameOpAtSlice_answers {n : Nat} : Answers (execNameOpAtSlice n s) := by
  unfold execNameOpAtSlice
  dsimp only
  (repeat' split) <;> exact answers_next _
theorem execNameOpReturn_answers {g : Nat} : Answers (execNameOpReturn g s) := by
  unfold execNameOpReturn
  dsimp only
  (repeat' split) <;> exact answers_next _
theorem execShootDown_answers {n : Nat} : Answers (execShootDown n s) := by
  unfold execShootDown
  dsimp only
  (repeat' split) <;> exact answers_next _
theorem execShootDownAck_answers {n : Nat} : Answers (execShootDownAck n s) := by
  unfold execShootDownAck
  (repeat' split) <;> exact answers_next _
theorem execSerialBlockReserve_answers {ok : Bool} : Answers (execSerialBlockReserve ok s) := by
  unfold execSerialBlockReserve
  (repeat' split) <;> exact answers_next _
theorem execPark_answers {n : Nat} : Answers (execPark n s) := by
  unfold execPark
  dsimp only
  (repeat' split) <;> exact answers_next _
theorem execDeadlockTrap_answers : Answers (execDeadlockTrap s) := by
  unfold execDeadlockTrap
  dsimp only
  (repeat' split) <;> exact answers_next _
theorem execTmwake_answers {d : Nat} : Answers (execTmwake d s) := by
  unfold execTmwake
  dsimp only
  (repeat' split) <;> exact answers_next _
theorem execChainStep_answers {n : Nat} {peer : BitVec 8} : Answers (execChainStep n peer s) := by
  unfold execChainStep
  dsimp only
  (repeat' split) <;> exact answers_next _
theorem execChainReturn_answers {n : Nat} : Answers (execChainReturn n s) := by
  unfold execChainReturn
  dsimp only
  (repeat' split) <;> exact answers_next _
theorem execCmdqPush_answers {c : Nat} {eng : Eng} : Answers (execCmdqPush c eng s) := by
  unfold execCmdqPush
  dsimp only
  (repeat' split) <;> exact answers_next _
theorem execStageCopyBegin_answers {c : Nat} : Answers (execStageCopyBegin c s) := by
  unfold execStageCopyBegin
  dsimp only
  (repeat' split) <;> exact answers_next _
theorem execCpysItem_answers {c : Nat} : Answers (execCpysItem c s) := by
  unfold execCpysItem
  dsimp only
  (repeat' split) <;> exact answers_next _
theorem execCopyCommandComplete_answers {c : Nat} : Answers (execCopyCommandComplete c s) := by
  unfold execCopyCommandComplete
  cases s.head c .copy with
  | none => exact answers_next _
  | some k =>
    refine answers_of_ite (answers_next _) (answers_of_ite (answers_next _) ?_)
    cases k.phase with
    | stopped => exact answers_next _
    | ran e =>
      cases e with
      | some e => exact answers_next _
      | none =>
        refine answers_of_ite (answers_next _) ?_
        obtain ⟨t, r⟩ := s.raiseFlag c k
        cases r <;> exact answers_next _
    | _ => exact answers_next _
theorem execContributionArrival_answers {n : Nat} : Answers (execContributionArrival n s) := by
  unfold execContributionArrival
  dsimp only
  (repeat' split) <;> exact answers_next _
theorem execTfwdStatusReturn_answers {n : Nat} : Answers (execTfwdStatusReturn n s) := by
  unfold execTfwdStatusReturn
  dsimp only
  (repeat' split) <;> exact answers_next _
theorem execArrayGrant_answers {cl : Nat} {residueOk : Bool} : Answers (execArrayGrant cl residueOk s) := by
  unfold execArrayGrant
  dsimp only
  (repeat' split) <;> exact answers_next _
theorem execStartPermitGrant_answers {d : Nat} : Answers (execStartPermitGrant d s) := by
  unfold execStartPermitGrant
  dsimp only
  (repeat' split) <;> exact answers_next _
theorem execPreemptSave_answers {g : Nat} : Answers (execPreemptSave g s) := by
  unfold execPreemptSave
  dsimp only
  (repeat' split) <;> exact answers_next _
theorem execMpassReplay_answers {c : Nat} : Answers (execMpassReplay c s) := by
  unfold execMpassReplay
  (repeat' split) <;> exact answers_next _
theorem execRailMonitorWindow_answers {d : Nat} : Answers (execRailMonitorWindow d s) := by
  unfold execRailMonitorWindow
  dsimp only
  (repeat' split) <;> exact answers_next _
theorem execGovernorWindow_answers {d : Nat} : Answers (execGovernorWindow d s) := by
  unfold execGovernorWindow
  dsimp only
  (repeat' split) <;> exact answers_next _
theorem execThrottleEntry_answers {d : Nat} : Answers (execThrottleEntry d s) := by
  unfold execThrottleEntry
  dsimp only
  (repeat' split) <;> exact answers_next _
theorem execThrottleExit_answers {d : Nat} : Answers (execThrottleExit d s) := by
  unfold execThrottleExit
  dsimp only
  (repeat' split) <;> exact answers_next _
theorem execLinkRetrain_answers {l : Nat} {ok : Bool} : Answers (execLinkRetrain l ok s) := by
  unfold execLinkRetrain
  dsimp only
  (repeat' split) <;> exact answers_next _
theorem execLinkFlit_answers {l : Nat} {good : Bool} : Answers (execLinkFlit l good s) := by
  unfold execLinkFlit
  dsimp only
  (repeat' split) <;> exact answers_next _
theorem execLinkLost_answers {l : Nat} : Answers (execLinkLost l s) := by
  unfold execLinkLost
  (repeat' split) <;> exact answers_next _
theorem execHqpush_answers {w off : Nat} {v : W64} : Answers (execHqpush w off v s) := by
  unfold execHqpush
  dsimp only
  (repeat' split) <;> exact answers_next _
theorem execHlcreq_answers {p : Nat} {v : W64} : Answers (execHlcreq p v s) := by
  unfold execHlcreq
  dsimp only
  (repeat' split) <;> exact answers_next _
theorem execHattest_answers {p : Nat} {v : W64} : Answers (execHattest p v s) := by
  unfold execHattest
  dsimp only
  (repeat' split) <;> exact answers_next _
theorem execHlcgo_answers {p : Nat} {v : W64} : Answers (execHlcgo p v s) := by
  unfold execHlcgo
  dsimp only
  (repeat' split) <;> exact answers_next _
theorem execHckpt_answers {p : Nat} {v : W64} : Answers (execHckpt p v s) := by
  unfold execHckpt
  dsimp only
  (repeat' split) <;> exact answers_next _
theorem execCheckpointStart_answers {d : Nat} : Answers (execCheckpointStart d s) := by
  unfold execCheckpointStart
  (repeat' split) <;> exact answers_next _
theorem execCheckpointMarker_answers {d i : Nat} : Answers (execCheckpointMarker d i s) := by
  unfold execCheckpointMarker
  dsimp only
  (repeat' split) <;> exact answers_next _
theorem execCheckpointRangeStreamed_answers {r : Nat} : Answers (execCheckpointRangeStreamed r s) := by
  unfold execCheckpointRangeStreamed
  dsimp only
  (repeat' split) <;> exact answers_next _
theorem execCheckpointStreamDone_answers {ok : Bool} : Answers (execCheckpointStreamDone ok s) := by
  unfold execCheckpointStreamDone
  dsimp only
  (repeat' split) <;> exact answers_next _
theorem execRecovery_answers {n : Nat} : Answers (execRecovery n s) := by
  unfold execRecovery
  dsimp only
  (repeat' split) <;> exact answers_next _
theorem execHostAperture_answers {p off n : Nat} {wr : Bool} {v : BitVec 4096} : Answers (execHostAperture p off n wr v s) := by
  unfold execHostAperture
  dsimp only
  (repeat' split) <;> exact answers_next _
theorem execLoadImage_answers {p : Nat} {ctx : BitVec 16} {img : W64} {len : Nat} : Answers (execLoadImage p ctx img len s) := by
  unfold execLoadImage
  dsimp only
  (repeat' split) <;> exact answers_next _

/-- `execWsRefreshStart` is opened as a function, not at its arguments: the kernel would take `refreshGroup` of an open number to its
normal form there. -/
theorem execWsRefreshStart_answers {d : Nat} : Answers (execWsRefreshStart d s) := by
  generalize hf : @execWsRefreshStart = f
  delta execWsRefreshStart at hf
  subst hf
  dsimp only
  generalize refreshGroup (s.wsPhase d) = r
  cases r with
  | some g => exact answers_next _
  | none => exact answers_next _
theorem execWsRefreshEnd_answers {d : Nat} : Answers (execWsRefreshEnd d s) := by
  unfold execWsRefreshEnd
  split <;> exact answers_next _
theorem queueWrite_answers {w off : Nat} {v : W64} : Answers (s.queueWrite w off v) := by
  unfold State.queueWrite
  dsimp only
  split
  · exact answers_next _
  · exact answers_next _
  · exact answers_next _
  · exact execHqpush_answers
theorem portWrite_answers {p off : Nat} {v : W64} : Answers (s.portWrite p off v) := by
  unfold State.portWrite
  dsimp only
  split
  · exact answers_of_ite (answers_next _) (answers_next _)
  · exact answers_next _
  · exact answers_of_ite (answers_next _) (answers_next _)
  · exact answers_of_ite (answers_next _) (answers_next _)
  · exact execHckpt_answers
  · exact answers_of_ite (answers_next _) (answers_next _)
  · exact execHlcreq_answers
  · exact execHattest_answers
  · exact execHlcgo_answers
  · exact answers_next _
theorem execRegisterWrite_answers {addr v : W64} : Answers (execRegisterWrite addr v s) :=
  answers_of_ite (answers_of_ite orStall_answers (answers_next _))
    (answers_of_ite (answers_of_ite queueWrite_answers portWrite_answers) (answers_next _))
end

/-! Words whose meaning is a shared operation applied -/

section
variable {s : State}
theorem vGroup_answers {n : Nat} {f : Nat → Nat → Nat → Nat} {d a b : BitVec 4} {tw : BitVec 12} {mk : BitVec 2} :
    Answers (vGroup n f d a b tw mk s) := vecWord_answers
theorem vGroupF_answers {f : Fl → Fl → Fl → Fl} {d a b : BitVec 4} {tw : BitVec 12} {mk : BitVec 2} : Answers (vGroupF f d a b tw mk s) :=
  vGroup_answers
theorem vxi_answers {f : Et → Nat → Nat → Nat} {d a b : BitVec 4} {et : Et} {mk : BitVec 2} : Answers (vxi f d a b et mk s) := vecWord_answers
theorem vxf_answers {n : Nat} {f : Fl → Fl → Fl → Fl} {d a b : BitVec 4} {et : Et} {mk : BitVec 2} : Answers (vxf n f d a b et mk s) := by
  unfold vxf
  exact vecWord_answers
theorem execTrap_answers {a : BitVec 5} : Answers (execTrap a s) := commitThen_answers fun _ => answers_next _
theorem execHalt_answers {a : BitVec 5} : Answers (execHalt a s) := commitThen_answers fun _ => answers_next _
theorem execCommit_answers : Answers (execCommit s) := commitThen_answers fun _ => answers_next _
theorem execIcinv_answers : Answers (execIcinv s) := commitThen_answers fun _ => answers_next _
theorem execCall_answers {n : BitVec 3} {off : BitVec 23} : Answers (execCall n off s) := commitThen_answers fun _ => callStep_answers
theorem execVcmp_answers {d a c : BitVec 4} {et : Et} {mk : BitVec 2} : Answers (execVcmp d a c et mk s) := needs_answers fun _ => answers_next _
theorem execMpopc_answers {d : BitVec 4} {a : BitVec 3} {et : Et} : Answers (execMpopc d a et s) := needs_answers fun _ => answers_next _
theorem execMfirst_answers {d : BitVec 4} {a : BitVec 3} {et : Et} : Answers (execMfirst d a et s) := needs_answers fun _ => answers_next _
theorem execVcvt_answers {d a : BitVec 4} {dt et : Et} {rm : BitVec 2} : Answers (execVcvt d a dt et rm s) := needs_answers fun _ => answers_next _
theorem execVext_answers {d a b : BitVec 4} {et : Et} : Answers (execVext d a b et s) := needs_answers fun _ => answers_next _
theorem execVins_answers {d a b : BitVec 4} {et : Et} : Answers (execVins d a b et s) := needs_answers fun _ => answers_next _
theorem execVcompress_answers {d a : BitVec 4} {m : BitVec 3} {et : Et} {mk : BitVec 2} :
    Answers (execVcompress d a m et mk s) := needs_answers fun _ => answers_next _
theorem execSread_answers {d : BitVec 5} {q : BitVec 2} : Answers (execSread d q s) := streamRead_answers fun _ => answers_next _
theorem execSpeek_answers {d : BitVec 5} {q : BitVec 2} : Answers (execSpeek d q s) := streamRead_answers fun _ => answers_next _
theorem execCpy_answers {c : Nat} : Answers (execCpy c s) := copyStep_answers fun _ _ _ => afterPiece_answers
theorem execCpys_answers {c : Nat} : Answers (execCpys c s) := copyStep_answers fun _ _ _ => answers_next _
theorem execCseq_answers {c : Nat} : Answers (execCseq c s) := copyStep_answers fun _ _ _ => answers_next _
theorem execGath_answers {c : Nat} : Answers (execGath c s) := copyStep_answers fun _ _ _ => gathScat_answers
theorem execScat_answers {c : Nat} : Answers (execScat c s) := copyStep_answers fun _ _ _ => gathScat_answers
end

/-! From the meaning of a word to the step -/

/-- Every instruction, command and event answers. -/
theorem exec_answers (i : Instr) (s : State) : Answers (exec i s) := by
  cases i with
  | nop | brk | add | sub | and | or | xor | andn | shl | shr | sra | rol | mul | mulh | mulhu | div | divu | rem | remu | min | max | minu | maxu
    | slt | sltu | seq | clz | ctz | popc | sextb | sexth | sextw | zextw | lea1 | lea2 | lea3 | addi | andi | ori | xori | slti | sltiu | shli |
    shri | srai | lih | li | beq | bne | blt | bge | bltu | bgeu | jmp | loop | sstat | sdrop | cperrClear | arrayIdle | mxerrClear | smpctl |
    systab | slotView | dhaltSet | dhaltClear | ctxkill | trstatClear | rmfreeze | gvexempt | moduleReset | powerLoss =>
    exact answers_next _
  | trap => exact execTrap_answers
  | halt => exact execHalt_answers
  | commit => exact execCommit_answers
  | icinv => exact execIcinv_answers
  | yield => exact execYield_answers
  | endTask => exact execEndTask_answers
  | ksync => exact execKsync_answers
  | vaddt | vsubt | vmult | vmint | vmaxt | vabs | vneg | vshlt | vshrt | vsrat | vadds | vsubs =>
    dsimp only [exec, execVaddt, execVsubt, execVmult, execVmint, execVmaxt, execVabs, execVneg, execVshlt, execVshrt, execVsrat, execVadds,
      execVsubs]
    exact vxi_answers
  | vfsub | vfdiv | vfsqrt | vfrcp | vfmint | vfmaxt | vfabs | vfneg | vfmat =>
    dsimp only [exec, execVfsub, execVfdiv, execVfsqrt, execVfrcp, execVfmint, execVfmaxt, execVfabs, execVfneg, execVfmat]
    exact vxf_answers
  | vsplat | vscan | vperm =>
    dsimp only [exec, execVsplat, execVscan, execVperm]
    exact vecWord_answers
  | vadd | vsub | vmul | vmac | vand | vor | vxor | vshl | vshr | vmin | vmax | vsel | vmov =>
    dsimp only [exec, execVadd, execVsub, execVmul, execVmac, execVand, execVor, execVxor, execVshl, execVshr, execVmin, execVmax, execVsel,
      execVmov]
    exact vGroup_answers
  | vfadd | vfmul | vfma =>
    dsimp only [exec, execVfadd, execVfmul, execVfma]
    exact vGroupF_answers
  | vcmp => exact execVcmp_answers
  | mpopc => exact execMpopc_answers
  | mfirst => exact execMfirst_answers
  | vcvt => exact execVcvt_answers
  | vext => exact execVext_answers
  | vins => exact execVins_answers
  | vcompress => exact execVcompress_answers
  | mand | mor | mxor | mnot =>
    dsimp only [exec, execMand, execMor, execMxor, execMnot]
    exact maskWord_answers
  | vredadd | vredmin | vredmax =>
    dsimp only [exec, execVredadd, execVredmin, execVredmax]
    exact reduce_answers
  | vld | vlds | vgath =>
    dsimp only [exec, execVld, execVlds, execVgath]
    exact vload_answers
  | vst | vsts | vscat =>
    dsimp only [exec, execVst, execVsts, execVscat]
    exact vstore_answers
  | vsread => exact execVsread_answers
  | ldb | ldbs | ldh | ldhs | ldw | ldws | ldd | lda =>
    dsimp only [exec, load, execLdb, execLdbs, execLdh, execLdhs, execLdw, execLdws, execLdd, execLda]
    exact loadAt_answers
  | stb | sth | stw | std =>
    dsimp only [exec, store, execStb, execSth, execStw, execStd]
    exact storeAt_answers
  | stl => exact execStl_answers
  | fst => exact execFst_answers
  | fence => exact execFence_answers
  | amoadd | amoand | amoor | amoxor | amosmin | amosmax | amoumin | amoumax | amoswap | amocas | amofadd | amocas128 =>
    dsimp only [exec, execAmoadd, execAmoand, execAmoor, execAmoxor, execAmosmin, execAmosmax, execAmoumin, execAmoumax, execAmoswap, execAmocas,
      execAmofadd, execAmocas128]
    exact amo_answers
  | nnew => exact execNnew_answers
  | nkill => exact execNkill_answers
  | nres => exact execNres_answers
  | ncas => exact execNcas_answers
  | nwait => exact execNwait_answers
  | waita => exact execWaita_answers
  | wake => exact execWake_answers
  | bara => exact execBara_answers
  | barw => exact execBarw_answers
  | call => exact execCall_answers
  | jalr => exact execJalr_answers
  | ret => exact execRet_answers
  | spawn => exact execSpawn_answers
  | send => exact execSend_answers
  | recv => exact execRecv_answers
  | taskname => exact execTaskname_answers
  | sread => exact execSread_answers
  | speek => exact execSpeek_answers
  | chld => exact execChld_answers
  | cmdq => exact execCmdq_answers
  | tokacq => exact execTokacq_answers
  | tokrel => exact execTokrel_answers
  | cpy => exact execCpy_answers
  | cpys => exact execCpys_answers
  | cseq => exact execCseq_answers
  | pack => exact execPack_answers
  | gath => exact execGath_answers
  | scat => exact execScat_answers
  | fill => exact execFill_answers
  | wload => exact execWload_answers
  | mctx | mstg | mpass | tnew | tfwd | tread | tabandon | tstat =>
    dsimp only [exec, execMctx, execMstg, execMpass, execTnew, execTfwd, execTread, execTabandon, execTstat]
    exact matStep_answers
  | grreplay | tcinv | rhreqHandOver | rhreqRetire | migreq | wsrightsRead | wsrightsLoad | resume | restart | kill | preEmpt | step =>
    exact answers_of_ite orStall_answers (answers_next _)
  | rdk => exact execRdk_answers
  | wrk => exact execWrk_answers
  | jr => exact execJr_answers
  | setprio => exact execSetprio_answers
  | copyCommandComplete => exact execCopyCommandComplete_answers
  | stageCopyBegin => exact execStageCopyBegin_answers
  | cpysItem => exact execCpysItem_answers
  | arrayGrant =>
    dsimp only [exec]
    exact execArrayGrant_answers
  | contributionArrival => exact execContributionArrival_answers
  | tfwdStatusReturn => exact execTfwdStatusReturn_answers
  | startPermitGrant => exact execStartPermitGrant_answers
  | mpassReplay => exact execMpassReplay_answers
  | cmdqPush => exact execCmdqPush_answers
  | weightStoreRequest => exact execWeightStoreRequest_answers
  | wsStateChange => exact execWsStateChange_answers
  | preemptSave => exact execPreemptSave_answers
  | faultPacketRelease => exact execFaultPacketRelease_answers
  | completionRecordRelease => exact execCompletionRecordRelease_answers
  | migrationCopyDone => exact execMigrationCopyDone_answers
  | tcinvDone => exact execTcinvDone_answers
  | handOverComplete => exact execHandOverComplete_answers
  | retireComplete => exact execRetireComplete_answers
  | graphNodeSpawn => exact execGraphNodeSpawn_answers
  | tmwake => exact execTmwake_answers
  | loadReturn => exact execLoadReturn_answers
  | homeRequest => exact execHomeRequest_answers
  | homeCorrection => exact execHomeCorrection_answers
  | localMemoryRequest => exact execLocalMemoryRequest_answers
  | guardNote => exact execGuardNote_answers
  | commitComplete => exact execCommitComplete_answers
  | commitRefusal => exact execCommitRefusal_answers
  | atomicAtNse => exact execAtomicAtNse_answers
  | atomicReturn => exact execAtomicReturn_answers
  | tokenRecall => exact execTokenRecall_answers
  | chainStep => exact execChainStep_answers
  | chainReturn => exact execChainReturn_answers
  | nameOpAtSlice => exact execNameOpAtSlice_answers
  | nameOpReturn => exact execNameOpReturn_answers
  | shootDown => exact execShootDown_answers
  | shootDownAck => exact execShootDownAck_answers
  | serialBlockReserve => exact execSerialBlockReserve_answers
  | park => exact execPark_answers
  | spawnAppend => exact execSpawnAppend_answers
  | sendDelivery => exact execSendDelivery_answers
  | sendStatus => exact execSendStatus_answers
  | ksyncComplete => exact execKsyncComplete_answers
  | icinvComplete => exact execIcinvComplete_answers
  | dispatch => exact execDispatch_answers
  | holdLimit => exact execHoldLimit_answers
  | rxring => exact execRxring_answers
  | deadlockTrap => exact execDeadlockTrap_answers
  | wsRefreshStart => exact execWsRefreshStart_answers
  | wsRefreshEnd => exact execWsRefreshEnd_answers
  | ctxkillComplete => exact execCtxkillComplete_answers
  | hckpt => exact execHckpt_answers
  | checkpointStart => exact execCheckpointStart_answers
  | checkpointMarker => exact execCheckpointMarker_answers
  | checkpointStreamDone => exact execCheckpointStreamDone_answers
  | recovery => exact execRecovery_answers
  | railMonitorWindow => exact execRailMonitorWindow_answers
  | linkRetrain => exact execLinkRetrain_answers
  | linkFlit => exact execLinkFlit_answers
  | governorWindow => exact execGovernorWindow_answers
  | throttleEntry => exact execThrottleEntry_answers
  | throttleExit => exact execThrottleExit_answers
  | registerWrite => exact execRegisterWrite_answers
  | hostAperture => exact execHostAperture_answers
  | hqpush => exact execHqpush_answers
  | hlcreq => exact execHlcreq_answers
  | hattest => exact execHattest_answers
  | hlcgo => exact execHlcgo_answers
  | loadImage => exact execLoadImage_answers
  | linkLost => exact execLinkLost_answers
  | checkpointRangeStreamed => exact execCheckpointRangeStreamed_answers

theorem runWord_answers {s : State} {w : W32} : Answers (s.runWord w) := by
  unfold State.runWord
  split
  · exact illegal_answers
  · exact answers_of_ite (answers_next _) (exec_answers _ _)

theorem nextWord_answers {s : State} : Answers s.nextWord := by
  unfold State.nextWord
  dsimp only
  split
  · exact answers_next _
  · exact answers_of_ite (answers_next _) orEvict_answers
  · split
    · exact runWord_answers
    · exact answers_next _
    · exact answers_next _

theorem slotTurn_answers {s : State} {g : Nat} : Answers (s.slotTurn g) := by
  unfold State.slotTurn
  refine answers_of_ite (answers_next _) ?_
  split
  · exact answers_next _
  · exact answers_of_ite (answers_next _) (answers_of_ite runWord_answers nextWord_answers)

/-- An act answers, but for the turn of a slot that does not exist. -/
theorem act_answers {s : State} {a : Act} (h : ∀ g, a = .slot g → g < Config.slots) : Answers (s.act a) := by
  cases a with
  | slot g =>
    rw [State.act, if_pos (h g rfl)]
    exact slotTurn_answers
  | event i => exact answers_of_ite (answers_next _) (exec_answers i s)

theorem step_answers {s : State} (h : ∀ g, s.turn.1.act = .slot g → g < Config.slots) : Answers (step s) := by
  obtain ⟨t, ht⟩ := act_answers (s := s.onTurn) h
  exact ⟨s.settle t, by rw [step_eq_settleAns, ht, State.settleAns]⟩

theorem State.Scheduled.slot_lt {s : State} (hs : s.Scheduled) (g : Nat) (ha : s.turn.1.act = .slot g) : g < Config.slots := by
  rw [State.Scheduled, ha] at hs
  exact hs

end Sys2Proof.Machine
end

section
open Sys2Proof Sys2Proof.Machine Sys2Proof.Claims

/-- Settles O60: an act other than the turn of a slot that does not exist answers, and `step` settles the answer. -/
theorem stepAlwaysAnswers : Obligations.StepAlwaysAnswers := by
  refine ⟨fun s hs => step_answers hs.slot_lt, fun s f hf => ?_⟩
  by_contra hno
  push Not at hno
  obtain ⟨t, ht⟩ := step_answers hno
  rw [hf] at ht
  nomatch ht

end

/-! SUPPORT. The push check, a push and the outcomes of CMDQ (R27 to R32). -/

section
namespace Sys2Proof.Machine

/-! The push check (R30) -/

theorem opDefined_iff {op : Nat} : opDefined op = true ↔ (1 ≤ op ∧ op ≤ 8) ∨ (0x20 ≤ op ∧ op ≤ 0x27) := by
  simp [opDefined]

theorem opWords_of_defined {op : Nat} (h : opDefined op = true) : opWords op = if op ∈ [1, 2, 3, 4, 5, 0x22, 0x24] then 2 else 1 := by
  rw [opDefined_iff] at h
  simp only [opWords, List.mem_cons, List.not_mem_nil, or_false, Bool.or_eq_true, decide_eq_true_eq, beq_iff_eq]
  split <;> split <;> omega

theorem owner_of_defined {op : Nat} (h : opDefined op = true) : op / 32 = if op < 0x20 then 0 else 1 := by
  rw [opDefined_iff] at h
  split <;> omega

theorem code_toNat (eng : Eng) : eng.code.toNat = if eng = .copy then 0 else 1 := by cases eng <;> rfl

section
variable {w n : Nat} {eng : Eng}
theorem pushCheck_one (h : opDefined (bits w 7 0) ≠ true) : pushCheck w eng n = 1 := by
  rw [pushCheck, Bool.eq_false_iff.mpr h]; rfl
theorem pushCheck_two (h1 : opDefined (bits w 7 0) = true) (h2 : bits w 11 8 ≠ bits w 7 0 / 32) : pushCheck w eng n = 2 := by
  simp [pushCheck, h1, h2]
theorem pushCheck_three (h1 : opDefined (bits w 7 0) = true) (h2 : bits w 11 8 = bits w 7 0 / 32) (h3 : bits w 11 8 ≠ eng.code.toNat) :
    pushCheck w eng n = 3 := by
  simp only [pushCheck, h1, ← h2]
  simp [h3]
theorem pushCheck_four (h1 : opDefined (bits w 7 0) = true) (h2 : bits w 11 8 = bits w 7 0 / 32) (h3 : bits w 11 8 = eng.code.toNat)
    (h4 : n + 1 ≠ opWords (bits w 7 0)) : pushCheck w eng n = 4 := by
  simp only [pushCheck, h1, ← h2, ← h3]
  simp [h4]
theorem pushCheck_five (h1 : opDefined (bits w 7 0) = true) (h2 : bits w 11 8 = bits w 7 0 / 32) (h3 : bits w 11 8 = eng.code.toNat)
    (h4 : n + 1 = opWords (bits w 7 0)) (h5 : ¬ (bits w 23 19 = 0 ∧ bits w 18 16 < 6)) : pushCheck w eng n = 5 := by
  have h : (bits w 23 19 != 0 || decide (6 ≤ bits w 18 16)) = true := by
    simp only [Bool.or_eq_true, bne_iff_ne, decide_eq_true_eq]
    omega
  simp only [pushCheck, h1, ← h2, ← h3, h4, h]
  simp
end

/-- Where steps 1 to 5 pass, step 6 decides. -/
theorem pushCheck_six {w n : Nat} {eng : Eng} (h1 : opDefined (bits w 7 0) = true) (h2 : bits w 11 8 = bits w 7 0 / 32)
    (h3 : bits w 11 8 = eng.code.toNat) (h4 : n + 1 = opWords (bits w 7 0)) (h5 : bits w 23 19 = 0) (h6 : bits w 18 16 < 6) :
    pushCheck w eng n = if fieldsOk (bits w 7 0) w then 0 else 6 := by
  have h6' : ¬ 6 ≤ bits w 18 16 := by omega
  unfold pushCheck
  simp only [h1, ← h2, ← h3, h4, h5, h6']
  cases fieldsOk (bits w 7 0) w <;> simp

theorem bits_flags (w : Nat) : bits w 12 12 = bits w 15 12 % 2 ∧ bits w 15 13 = bits w 15 12 / 2 ∧ bits w 15 14 = bits w 15 12 / 4 ∧ bits w 15 12 < 16 := by
  simp only [bits, fld]
  omega

/-- The flags that a mask leaves free. -/
theorem flags_none (w : Nat) : bits w 15 12 &&& 0 = bits w 15 12 ↔ bits w 15 12 = 0 := by
  rw [Nat.and_zero, eq_comm]
theorem flags_one (w : Nat) : bits w 15 12 &&& 1 = bits w 15 12 ↔ bits w 15 13 = 0 := by
  obtain ⟨-, h, -, hlt⟩ := bits_flags w
  rw [h, Nat.and_one_is_mod]
  omega
theorem flags_two (w : Nat) : bits w 15 12 &&& 2 = bits w 15 12 ↔ bits w 12 12 = 0 ∧ bits w 15 14 = 0 := by
  obtain ⟨h, -, h', hlt⟩ := bits_flags w
  rw [h, h']
  generalize bits w 15 12 = f at hlt ⊢
  revert f
  decide

theorem bit_iff (w k : Nat) : bit w k = true ↔ bits w k k = 1 := by
  rw [bit, bits, Nat.add_sub_cancel_left, beq_iff_eq]

/-- The plane counts that a format accepts (R136). -/
theorem planesOk_iff (f p : Nat) : planesOk f p = true ↔
    (f, p) ∈ [(0, 1), (1, 1), (2, 2), (3, 3), (4, 4), (5, 4), (6, 6), (7, 8), (8, 8), (9, 12), (10, 16)] ∨ 11 ≤ f ∧ f ≤ 19 ∧ 2 ≤ p ∧ p ≤ 32 := by
  by_cases h : 11 ≤ f
  · obtain ⟨m, rfl⟩ := Nat.exists_eq_add_of_le' h
    rw [show planesOk (m + 11) p = decide (m + 11 ≤ 19 ∧ 2 ≤ p ∧ p ≤ 32) from rfl]
    simp
  · have : f < 11 := by omega
    interval_cases f <;> simp [planesOk]

/-! Step 6 of the push check, for the commands of one word -/

section
variable (w : Nat)

theorem fieldsOk_fill : fieldsOk 0x06 w = true ↔ bits w 12 12 = 0 ∧ bits w 15 14 = 0 ∧ bits w 127 96 ≠ 0 ∧
    (bits w 13 13 = 1 ∨ bits w 194 192 = 0) ∧ bits w 255 195 = 0 := by
  simp only [fieldsOk, Bool.and_eq_true, Bool.or_eq_true, flags_two, bit_iff, bne_iff_ne, beq_iff_eq, and_assoc]
theorem fieldsOk_wload : fieldsOk 0x07 w = true ↔ bits w 15 12 = 0 ∧ bits w 127 96 % 64 = 0 ∧ bits w 159 128 % 64 = 0 ∧ bits w 159 128 ≠ 0 ∧
    bits w 127 96 + bits w 159 128 ≤ 2 ^ 29 ∧ bits w 255 160 = 0 := by
  simp only [fieldsOk, Bool.and_eq_true, decide_eq_true_eq, flags_none, bne_iff_ne, beq_iff_eq, and_assoc]
  omega
theorem fieldsOk_cseq : fieldsOk 0x08 w = true ↔ bits w 15 13 = 0 ∧ (bits w 12 12 = 1 ∨ bits w 95 32 = 0) ∧ bits w 255 96 = 0 := by
  simp only [fieldsOk, Bool.and_eq_true, Bool.or_eq_true, flags_one, bit_iff, beq_iff_eq, and_assoc]
theorem fieldsOk_mctx : fieldsOk 0x20 w = true ↔ bits w 15 12 = 0 ∧ planesOk (bits w 100 96) (bits w 111 106) = true ∧
    planesOk (bits w 105 101) (bits w 117 112) = true ∧ (bits w 118 118 = 1 → bits w 100 96 ≤ 10 ∧ bits w 105 101 ≤ 10) ∧ bits w 255 119 = 0 := by
  simp only [fieldsOk, Bool.and_eq_true, Bool.or_eq_true, Bool.not_eq_true', ← Bool.not_eq_true, flags_none, bit_iff, decide_eq_true_eq, beq_iff_eq,
    and_assoc, imp_iff_not_or]
theorem fieldsOk_tnew : fieldsOk 0x23 w = true ↔ bits w 15 12 = 0 ∧ 1 ≤ bits w 38 32 ∧ bits w 38 32 ≤ 64 ∧ 1 ≤ bits w 46 39 ∧ bits w 46 39 ≤ 128 ∧
    bits w 63 48 = 0 ∧ bits w 95 64 ≠ 0 ∧ bits w 127 96 = 0 ∧ bits w 191 128 ≠ 0 ∧ bits w 255 192 = 0 := by
  simp only [fieldsOk, Bool.and_eq_true, decide_eq_true_eq, flags_none, bne_iff_ne, beq_iff_eq, and_assoc, Nat.one_le_iff_ne_zero]
theorem fieldsOk_tread : fieldsOk 0x25 w = true ↔ bits w 15 13 = 0 ∧ bits w 225 224 ≠ 3 ∧ bits w 231 226 = 0 ∧ bits w 255 232 % 4 = 0 := by
  simp only [fieldsOk, Bool.and_eq_true, flags_one, bne_iff_ne, beq_iff_eq, and_assoc]
theorem fieldsOk_tabandon : fieldsOk 0x26 w = true ↔ bits w 15 12 = 0 ∧ bits w 255 224 = 0 := by
  simp only [fieldsOk, Bool.and_eq_true, flags_none, beq_iff_eq]
theorem fieldsOk_tstat : fieldsOk 0x27 w = true ↔ bits w 15 12 = 0 ∧ bits w 223 160 ≠ 0 ∧ bits w 255 224 = 0 := by
  simp only [fieldsOk, Bool.and_eq_true, flags_none, bne_iff_ne, beq_iff_eq, and_assoc]
end

/-- Where steps 1 to 5 pass and the fields of the opcode are right exactly if `fine`, `fine` decides between 0 and 6. -/
theorem pushCheck_six_iff {w n o : Nat} {eng : Eng} {fine : Prop} (hf : fieldsOk o w = true ↔ fine) (h1 : opDefined (bits w 7 0) = true)
    (h2 : bits w 11 8 = bits w 7 0 / 32) (h3 : bits w 11 8 = eng.code.toNat) (h4 : n + 1 = opWords (bits w 7 0)) (h5 : bits w 23 19 = 0)
    (h6 : bits w 18 16 < 6) (ho : bits w 7 0 = o) : (fine → pushCheck w eng n = 0) ∧ (¬ fine → pushCheck w eng n = 6) := by
  subst ho
  rw [pushCheck_six h1 h2 h3 h4 h5 h6, ← hf]
  exact ⟨fun h => if_pos h, fun h => if_neg h⟩

end Sys2Proof.Machine
end

section
open Sys2Proof Sys2Proof.Machine Sys2Proof.Claims

theorem pushChecks_holds : Claims.pushChecks := by
  intro w n eng at_ op known owner mine words head clean step free planes six
  have hd : opDefined op = true ↔ known := opDefined_iff
  have ho : known → owner = op / 32 := fun h => (owner_of_defined (hd.2 h)).symm
  have hw : known → words = opWords op := fun h => (opWords_of_defined (hd.2 h)).symm
  have hm : mine = eng.code.toNat := (code_toNat eng).symm
  have hh : head → opDefined op = true ∧ at_ 11 8 = op / 32 ∧ at_ 11 8 = eng.code.toNat ∧ n + 1 = opWords op := fun ⟨hk, he, hem, hn⟩ =>
    ⟨hd.2 hk, he.trans (ho hk), he.trans (hem.trans hm), hn.trans (hw hk)⟩
  have hs : ∀ {o : Nat} {fine : Prop}, (fieldsOk o w = true ↔ fine) → six o fine := fun hf h ⟨h5, h6⟩ hop => by
    obtain ⟨h1, h2, h3, h4⟩ := hh h
    exact pushCheck_six_iff hf h1 h2 h3 h4 h5 h6 hop
  refine ⟨fun hk => pushCheck_one (mt hd.1 hk), fun hk he => pushCheck_two (hd.2 hk) (ho hk ▸ he),
    fun hk he hem => pushCheck_three (hd.2 hk) (he.trans (ho hk)) fun h => hem (he.symm.trans (h.trans hm.symm)),
    fun hk he hem hn => pushCheck_four (hd.2 hk) (he.trans (ho hk)) (he.trans (hem.trans hm)) (hw hk ▸ hn), fun h hc => ?_, fun h hc => ?_,
    hs (fieldsOk_fill w), hs (fieldsOk_wload w), hs (fieldsOk_cseq w), hs ?_, hs (fieldsOk_tnew w), hs (fieldsOk_tread w), hs (fieldsOk_tabandon w),
    hs (fieldsOk_tstat w)⟩
  · obtain ⟨h1, h2, h3, h4⟩ := hh h
    exact pushCheck_five h1 h2 h3 h4 hc
  · obtain ⟨h1, h2, h3, h4⟩ := hh h
    have h6 : step = if fieldsOk op w then 0 else 6 := pushCheck_six h1 h2 h3 h4 hc.1 hc.2
    rw [h6]
    split
    · exact .inl rfl
    · exact .inr rfl
  · rw [fieldsOk_mctx, planesOk_iff, planesOk_iff]
    rfl
end

section
namespace Sys2Proof.Claims
open Sys2Proof.Machine

/-! What changes nothing but the running slot and the trace of its core -/

theorem OnlyMeTraced.cur {s t : State} (h : OnlyMeTraced s t) : t.cur = s.cur := (congrArg (fun u : State => u.cur) h.1 :)
theorem OnlyMeTraced.mem {s t : State} (h : OnlyMeTraced s t) : t.mem = s.mem := (congrArg (fun u : State => u.mem) h.1 :)
theorem OnlyMeTraced.cycle {s t : State} (h : OnlyMeTraced s t) : t.cycle = s.cycle := (congrArg (fun u : State => u.cycle) h.1 :)

theorem OnlyMeTraced.queue {s t : State} (h : OnlyMeTraced s t) (c : Nat) (eng : Eng) : t.queue c eng = s.queue c eng := by
  obtain ⟨-, -, hc⟩ := h
  have hq : (t.core c).copyQ = (s.core c).copyQ := (congrArg (fun k : Core => k.copyQ) (hc c).1 :)
  have hm : (t.core c).mxQ = (s.core c).mxQ := (congrArg (fun k : Core => k.mxQ) (hc c).1 :)
  rw [State.queue, hq, hm]
  rfl

theorem OnlyMeTraced.refl (s : State) : OnlyMeTraced s s := ⟨rfl, fun _ _ => rfl, fun _ => ⟨rfl, fun _ => rfl⟩⟩

theorem OnlyMeTraced.modMe {s t : State} (h : OnlyMeTraced s t) (f : Slot → Slot) : OnlyMeTraced s (t.modMe f) := by
  have hcur := h.cur
  obtain ⟨hs, hg, hc⟩ := h
  exact ⟨hs, fun g hne => (State.slot_modMe t f (hcur ▸ hne)).trans (hg g hne), hc⟩

theorem OnlyMeTraced.trace (s : State) (kind : Nat) (pc : Pc) (aux : Nat) (data value : W64) :
    OnlyMeTraced s (s.trace s.cur kind pc aux data value) := by
  refine ⟨rfl, fun _ _ => rfl, fun c => ?_⟩
  rw [State.trace, State.core_modCore]
  split
  · next h => exact ⟨h ▸ rfl, fun hne => absurd h hne⟩
  · exact ⟨rfl, fun _ => rfl⟩

theorem OnlyMeTraced.atWord (s : State) : OnlyMeTraced s s.atWord := by
  unfold State.atWord
  split
  · exact .refl s
  · exact ((OnlyMeTraced.trace s ..).modMe _).modMe _

theorem Slot.atWord_eq (x : Slot) : x.atWord = AtWord x := rfl

end Sys2Proof.Claims
end

section
namespace Sys2Proof.Machine
open Sys2Proof.Claims

/-! A push (R27) -/

section
variable (s : State) (g : Nat) (eng : Eng) (w : W512) (two : Bool)

/-- The number that the next push of slot `x` to a queue gets. -/
def nextSeq (eng : Eng) (x : Slot) : W64 := (if eng = .copy then x.cpNum else x.mxNum) + 1

theorem queue_modQueue (c : Nat) (f : Queue → Queue) : (s.modQueue c eng f).queue c eng = f (s.queue c eng) := by
  cases eng <;> simp [State.queue, State.modQueue]

theorem cmds_modQueue (c : Nat) {f : Queue → Queue} (h : ∀ q, (f q).cmds = q.cmds) : ((s.modQueue c eng f).queue c eng).cmds = (s.queue c eng).cmds := by
  rw [queue_modQueue, h]

theorem push_seq : (s.push g eng w two).2 = nextSeq eng (s.slot g) := rfl
theorem push_mem : (s.push g eng w two).1.mem = s.mem := rfl
theorem push_cur : (s.push g eng w two).1.cur = s.cur := rfl

/-- The queue after a push: the command stands last, its slot waits no more. -/
theorem push_queue : ∃ k : Cmd, (s.push g eng w two).1.queue (coreOf g) eng =
      { s.queue (coreOf g) eng with cmds := (s.queue (coreOf g) eng).cmds ++ [k],
                                    waiters := (s.queue (coreOf g) eng).waiters.filter fun j => j.1 != g % 4 } ∧
    k.w = w ∧ k.two = two ∧ k.g = g ∧ k.seq = nextSeq eng (s.slot g) ∧ k.ctx = (s.slot g).ctx ∧ k.retire = false ∧ k.phase = .fresh := by
  refine ⟨⟨w, two, g, nextSeq eng (s.slot g), (s.slot g).ctx, false, .fresh, if fld w.toNat 16 3 = 0 then [] else s.live (s.slot g).obs,
    (s.slot g).task⟩, ?_, rfl, rfl, rfl, rfl, rfl, rfl, rfl⟩
  cases eng <;> simp [State.push, State.queue, State.modQueue, State.trace, nextSeq]

theorem push_slot_other {j : Nat} (h : j ≠ g) : (s.push g eng w two).1.slot j = s.slot j := State.slot_modSlot_other _ _ h

/-- The slot after its push: the number counted, the pc and the restart point past the word. -/
theorem push_slot_self : (s.push g eng w two).1.slot g =
    { s.slot g with
      cpNum := if eng = .copy then nextSeq eng (s.slot g) else (s.slot g).cpNum,
      mxNum := if eng = .copy then (s.slot g).mxNum else nextSeq eng (s.slot g),
      stepRep := (BitVec.ofNat 16 (2 + eng.code.toNat * 2 ^ 8), nextSeq eng (s.slot g)),
      pc := (s.slot g).pc + 4, rstpc := (s.slot g).pc + 4, seg := (s.slot g).seg + 1, begun := false, stamped := false,
      stepDone := (s.slot g).stepping } := by
  cases eng <;> simp [State.push, State.modQueue, nextSeq, Slot.next, Slot.goto, Slot.moved]

end

/-! A slot that runs on -/

theorem run_queue (s : State) (g c : Nat) (eng : Eng) : (s.run g).queue c eng = s.queue c eng := rfl
theorem run_slot_self (s : State) (g : Nat) : (s.run g).slot g = { s.slot g with woken := (s.slot g).streamHeld, state := .running, hold := .none } :=
  (State.slot_modSlot_self s g fun x => { x with woken := x.streamHeld, state := .running, hold := .none } :)
theorem run_slot_other (s : State) {g j : Nat} (h : j ≠ g) : (s.run g).slot j = s.slot j := 
  (State.slot_modSlot_other s (fun x => { x with woken := x.streamHeld, state := .running, hold := .none }) h :)

/-! The outcomes of CMDQ (R27, R30, R32) -/

section
variable {s : State} {vs : BitVec 4} {eng : Eng} {n chk : BitVec 1}

/-- The command that CMDQ takes from its vector registers. -/
def cmdqWord (s : State) (vs : BitVec 4) (n : BitVec 1) : W512 :=
  BitVec.ofNat 512 ((s.me.vr vs).toNat + if n = 1 then (s.me.vr (vs + 1)).toNat * 2 ^ 256 else 0)

theorem cmdq_needs (h : eng = .matrix → Has s 16) (k : State → Ans) : s.needs (if eng = .matrix then 16 else 0) k = k s := by
  refine State.needs_has s _ k ?_
  split
  · next he => exact h he
  · simp [maskHas]

theorem execCmdq_bad (h : eng = .matrix → Has s 16) (hp : pushCheck (cmdqWord s vs n).toNat eng n.toNat ≠ 0) :
    execCmdq vs eng n chk s =
      s.precise 0x0B (w64 (pushCheck (cmdqWord s vs n).toNat eng n.toNat + bits (cmdqWord s vs n).toNat 31 24 * 2 ^ 8)) 0 := by
  rw [execCmdq, cmdq_needs h]
  exact if_pos hp

theorem execCmdq_good (h : eng = .matrix → Has s 16) (hp : pushCheck (cmdqWord s vs n).toNat eng n.toNat = 0) (hq : Quiet s) :
    execCmdq vs eng n chk s =
      let u := s.atWord
      let room := decide (n.toNat + 1 ≤ (u.queue (coreOf u.cur) eng).room)
      if chk = 1 ∧ ! room then .next ((u.modMe fun x => x.setS 7 (-1)).modMe fun x => x.next.moved)
      else if chk = 0 ∧ ! room then
        .next ((if u.me.hold == .room eng then u else u.modQueue (coreOf u.cur) eng fun q =>
          { q with waiters := q.waiters.filter (fun j => j.1 != u.cur % 4) ++ [(u.cur % 4, n.toNat + 1, cmdqWord s vs n)] }).holdFor (.room eng))
      else
        let r := u.push u.cur eng (cmdqWord s vs n) (n == 1)
        .next (if chk = 1 then r.1.modMe fun x => x.setS 7 r.2 else r.1) := by
  obtain ⟨h1, h2, h3, h4⟩ := hq
  rw [execCmdq, cmdq_needs h]
  refine (if_neg (not_not.mpr hp)).trans ?_
  rw [State.commitThen_quiet s _ h1 h2 h3 h4]
  rfl

theorem execCmdq_push (h : eng = .matrix → Has s 16) (hp : pushCheck (cmdqWord s vs n).toNat eng n.toNat = 0) (hq : Quiet s)
    (hr : n.toNat + 1 ≤ (s.queue (coreOf s.cur) eng).room) :
    execCmdq vs eng n chk s =
      let r := s.atWord.push s.cur eng (cmdqWord s vs n) (n == 1)
      .next (if chk = 1 then r.1.modMe fun x => x.setS 7 r.2 else r.1) := by
  have hu := OnlyMeTraced.atWord s
  rw [execCmdq_good h hp hq]
  simp [hu.queue, hr]

theorem execCmdq_full (h : eng = .matrix → Has s 16) (hp : pushCheck (cmdqWord s vs n).toNat eng n.toNat = 0) (hq : Quiet s)
    (hr : ¬ n.toNat + 1 ≤ (s.queue (coreOf s.cur) eng).room) (hc : chk = 1) :
    execCmdq vs eng n chk s = .next ((s.atWord.modMe fun x => x.setS 7 (-1)).modMe fun x => x.next.moved) := by
  have hu := OnlyMeTraced.atWord s
  rw [execCmdq_good h hp hq]
  simp [hu.queue, hr, hc]

theorem execCmdq_held (h : eng = .matrix → Has s 16) (hp : pushCheck (cmdqWord s vs n).toNat eng n.toNat = 0) (hq : Quiet s)
    (hr : ¬ n.toNat + 1 ≤ (s.queue (coreOf s.cur) eng).room) (hc : chk = 0) :
    execCmdq vs eng n chk s = .next ((if s.atWord.me.hold == .room eng then s.atWord else s.atWord.modQueue (coreOf s.cur) eng fun q =>
      { q with waiters := q.waiters.filter (fun j => j.1 != s.cur % 4) ++ [(s.cur % 4, n.toNat + 1, cmdqWord s vs n)] }).holdFor (.room eng)) := by
  have hu := OnlyMeTraced.atWord s
  rw [execCmdq_good h hp hq]
  simp [hu.queue, hr, hc]
end

/-- What a commit leaves of the slot for the words after it. -/
theorem AtWord_fields (x : Slot) : (AtWord x).pc = x.pc ∧ (AtWord x).cpNum = x.cpNum ∧ (AtWord x).mxNum = x.mxNum ∧ (AtWord x).ctx = x.ctx ∧
    (AtWord x).v = x.v ∧ ∀ r, (AtWord x).s r = x.s r := by
  unfold AtWord
  split
  · exact ⟨rfl, rfl, rfl, rfl, rfl, fun _ => rfl⟩
  · exact ⟨rfl, rfl, rfl, rfl, rfl, fun _ => rfl⟩

end Sys2Proof.Machine
end

section
open Sys2Proof Sys2Proof.Machine Sys2Proof.Claims

/-- What the push of CMDQ makes of the state, before s7 is written. -/
theorem cmdq_pushed (s : State) (eng : Eng) (w : W512) (two : Bool) :
    let t := (s.atWord.push s.cur eng w two).1
    let seq := nextSeq eng s.me
    (∃ k, (t.queue (coreOf s.cur) eng).cmds = (s.queue (coreOf s.cur) eng).cmds ++ [k] ∧ k.w = w ∧ k.two = two ∧ k.g = s.cur ∧ k.seq = seq ∧
      k.ctx = s.me.ctx ∧ k.retire = false ∧ k.phase = .fresh) ∧
    (s.atWord.push s.cur eng w two).2 = seq ∧ t.mem = s.mem ∧ t.cur = s.cur ∧ (∀ g, g ≠ s.cur → t.slot g = s.slot g) ∧
    t.me.pc = s.me.pc + 4 ∧ t.me.rstpc = s.me.pc + 4 ∧
    (if eng = .copy then t.me.cpNum = seq ∧ t.me.mxNum = s.me.mxNum else t.me.mxNum = seq ∧ t.me.cpNum = s.me.cpNum) ∧
    (∀ r, t.me.s r = s.me.s r) ∧ t.me.v = s.me.v := by
  intro t seq
  have hu := OnlyMeTraced.atWord s
  have hslot : s.atWord.slot s.cur = AtWord s.me := by
    rw [← Slot.atWord_eq, ← State.atWord_me, State.me, hu.cur]
  obtain ⟨hpc, hcp, hmx, hctx, hv, hreg⟩ := AtWord_fields s.me
  have hseq : nextSeq eng (AtWord s.me) = seq := by
    unfold nextSeq
    rw [hcp, hmx]
    rfl
  obtain ⟨k, hqueue, hw, htwo, hg, hk, hkc, hret, hph⟩ := push_queue s.atWord s.cur eng w two
  have hcur : t.cur = s.cur := hu.cur
  have hme : t.me = _ := (congrArg t.slot hcur).trans (push_slot_self s.atWord s.cur eng w two)
  rw [hslot, hseq, hpc, hcp, hmx] at hme
  rw [hslot, hseq] at hk
  rw [hslot, hctx] at hkc
  rw [hu.queue] at hqueue
  refine ⟨⟨k, congrArg (fun q : Queue => q.cmds) hqueue, hw, htwo, hg, hk, hkc, hret, hph⟩, ?_, hu.mem, hcur,
    fun g hne => (push_slot_other s.atWord s.cur eng w two hne).trans (hu.2.1 g hne), ?_, ?_, ?_, fun r => ?_, ?_⟩
  · rw [push_seq, hslot, hseq]
  · rw [hme]
  · rw [hme]
  · rw [hme]
    cases eng <;> exact ⟨rfl, rfl⟩
  · rw [hme]
    exact hreg r
  · rw [hme]
    exact hv

theorem holdFor_queue (t : State) (h : Hold) (c : Nat) (eng : Eng) : (t.holdFor h).queue c eng = t.queue c eng := rfl

theorem holdFor_fields (t : State) (h : Hold) : (t.holdFor h).me.state = .held ∧ (t.holdFor h).me.hold = h ∧ (t.holdFor h).me.pc = t.me.pc ∧
    (t.holdFor h).me.heldSince = t.cycle := by
  simp [State.holdFor]

theorem commandsPushed_holds : commandsPushed := by
  intro s vs eng n chk h w c check room seq
  have hu := OnlyMeTraced.atWord s
  have hme := State.atWord_me s
  rw [Slot.atWord_eq] at hme
  obtain ⟨hpc, hcp, hmx, hctx, hv, hreg⟩ := AtWord_fields s.me
  refine ⟨fun hp => execCmdq_bad h hp, fun hp hq hr => ?_, fun hp hq hc hr => ⟨_, execCmdq_full h hp hq hr hc, ?_⟩,
    fun hp hq hc hr => ⟨_, execCmdq_held h hp hq hr hc, ?_⟩⟩
  · obtain ⟨⟨k, hk⟩, hseq, hmem, hcur, hother, htpc, hrst, hnum, hs, htv⟩ := cmdq_pushed s eng (cmdqWord s vs n) (n == 1)
    have hexec := execCmdq_push (chk := chk) h hp hq hr
    dsimp only at hexec
    rw [hseq] at hexec
    refine ⟨_, k, hexec, ?_⟩
    by_cases hc : chk = 1
    · rw [if_pos hc, State.me_modMe]
      obtain ⟨h1, h2, h3, h4, h5, h6, h7, h8⟩ := hk
      refine ⟨hmem, h1, h2, h3, h4, h5, h6, h7, h8, fun g hg => ?_, ?_⟩
      · rw [State.slot_modMe _ _ (hcur ▸ hg), hother g hg]
      · simp only [Slot.setS_pc, Slot.setS_rstpc, Slot.setS_cpNum, Slot.setS_mxNum, Slot.setS_v, Slot.s_setS]
        refine ⟨htpc, hrst, hnum, fun r => ?_, htv⟩
        rw [hs r]
        simp [hc]
        rfl
    · rw [if_neg hc]
      obtain ⟨h1, h2, h3, h4, h5, h6, h7, h8⟩ := hk
      exact ⟨hmem, h1, h2, h3, h4, h5, h6, h7, h8, hother, htpc, hrst, hnum, fun r => (hs r).trans (if_neg fun hx => hc hx.1).symm, htv⟩
  · refine ⟨(hu.modMe _).modMe _, ?_, fun r => ?_⟩
    · rw [State.me_modMe, State.me_modMe, hme]
      unfold Committed AtWord
      split
      · rfl
      · rfl
    · rw [State.me_modMe, State.me_modMe, hme]
      exact (Slot.s_setS (AtWord s.me) 7 r (-1)).trans (by rw [hreg r]; rfl)
  · have hpc' : s.atWord.me.pc = s.me.pc := hme ▸ hpc
    have hq := congrArg (fun q : Queue => q.cmds) (hu.queue c eng)
    split
    · obtain ⟨h1, h2, h3, h4⟩ := holdFor_fields s.atWord (.room eng)
      exact ⟨hu.mem, hq, h1, h2, h3.trans hpc', h4.trans hu.cycle⟩
    · obtain ⟨h1, h2, h3, h4⟩ := holdFor_fields (s.atWord.modQueue c eng _) (.room eng)
      refine ⟨hu.mem, Eq.trans ?_ hq, h1, h2, h3.trans hpc', h4.trans hu.cycle⟩
      rw [holdFor_queue]
      exact cmds_modQueue s.atWord eng c fun _ => rfl
end

section
open Sys2Proof Sys2Proof.Machine Sys2Proof.Claims

theorem waitingPushes_holds : waitingPushes := by
  intro s c k n w eng rest hwait hk hroom hpre hqua hpau hmx
  have hcore : coreOf (4 * c + k) = c := by unfold coreOf; omega
  have hmod : (4 * c + k) % 4 = k := by omega
  have hexec : exec (.cmdqPush c eng) s = .next ((s.push (4 * c + k) eng w (n == 2)).1.run (4 * c + k)) := by
    show execCmdqPush c eng s = _
    have hm : ¬ (eng = .matrix ∧ (s.cluster (clusterOf c)).matrixQuarantined = true) := fun ⟨he, hq⟩ => by simp [hmx he] at hq
    unfold execCmdqPush
    rw [hwait]
    dsimp only
    rw [if_neg, if_neg hm]
    simp [hpre, hqua, hpau, hroom]
  obtain ⟨q, hqueue, hw, -, hg, -, -, -, hph⟩ := push_queue s (4 * c + k) eng w (n == 2)
  have hself := push_slot_self s (4 * c + k) eng w (n == 2)
  rw [hcore, hmod] at hqueue
  have hrun := run_slot_self (s.push (4 * c + k) eng w (n == 2)).1 (4 * c + k)
  rw [hself] at hrun
  refine ⟨_, q, hexec, rfl, congrArg (fun q : Queue => q.cmds) hqueue, hw, hg, hph, by rw [hrun],
    by rw [hrun], by rw [hrun], fun x hx => ?_, fun g hne => ?_⟩
  · rw [run_queue, hqueue] at hx
    simpa using (List.mem_filter.mp hx).2
  · rw [run_slot_other _ hne, push_slot_other _ _ _ _ _ hne]

/-- Settles O40: the push check step by step, the outcomes of CMDQ, and the push that waits longest. -/
theorem commandPushes : Obligations.CommandPushes := ⟨pushChecks_holds, commandsPushed_holds, waitingPushes_holds⟩
end
section
/-! SUPPORT. What a fault makes of its slot, and the packet it sends (R320, R322). -/
namespace Sys2Proof.Machine

/-! Taking a fault (R320, R322) -/

/-- The state in which the packet of a fault goes to the ring: the slot frozen, the fault counted. -/
def State.frozen (s : State) (g : Nat) (f : FaultInfo) : State :=
  (s.trace g 7 (s.slot g).pc 0 (w64 f.cause.toNat) 0).modSlot g fun x =>
    let x := if x.preempting then x.status 4 else { x with busy := false }
    { x with state := .frozen, hold := .none, await := .none, mode := .none, lastCause := f.cause, faults := x.faults + 1,
             stepping := false, stepDone := false, begun := false, stamped := false, prevBlock := none,
             sig := if 0x0F ≤ f.cause.toNat ∧ f.cause.toNat ≤ 0x11 then x.sig.filter fun r => r.left == 0 else none, inspect := f.cause == 0x11 }

theorem State.freeze_eq (s : State) (g : Nat) (f : FaultInfo) :
    s.freeze g f = (s.frozen g f).sendPacket (dieOf (coreOf g)) g (s.packet g f) := rfl

theorem State.frozen_slot (s : State) (g : Nat) (f : FaultInfo) : ((s.frozen g f).slot g).packet = (s.slot g).packet ∧
    ((s.frozen g f).slot g).faults = (s.slot g).faults + 1 ∧ ((s.frozen g f).slot g).state = .frozen ∧ ((s.frozen g f).slot g).lastCause = f.cause := by
  unfold State.frozen
  rw [State.slot_modSlot_self, State.trace_slot]
  dsimp only
  split
  · exact ⟨rfl, rfl, rfl, rfl⟩
  · exact ⟨rfl, rfl, rfl, rfl⟩

/-- A TRAP, a BRK or a HALT, by its number. -/
theorem executed_cause (c : BitVec 8) : (0x0F ≤ c.toNat ∧ c.toNat ≤ 0x11) ↔ c = 0x0F ∨ c = 0x10 ∨ c = 0x11 := by
  constructor
  · rintro ⟨h1, h2⟩
    rcases (by omega : c.toNat = 0x0F ∨ c.toNat = 0x10 ∨ c.toNat = 0x11) with h | h | h
    · exact .inl (BitVec.eq_of_toNat_eq h)
    · exact .inr (.inl (BitVec.eq_of_toNat_eq h))
    · exact .inr (.inr (BitVec.eq_of_toNat_eq h))
  · rintro (rfl | rfl | rfl) <;> decide

theorem isSup_coreOf (g : Nat) : (if isSup (coreOf g) then 0 else coreOf g % 32) = if coreOf g < Config.cores then coreOf g % 32 else 0 := by
  unfold isSup
  by_cases h : coreOf g < Config.cores
  · have : ¬ Config.cores ≤ coreOf g := Nat.not_le.mpr h
    simp [h, this]
  · have : Config.cores ≤ coreOf g := Nat.not_lt.mp h
    simp [h, this]

/-- What a fault makes of its slot, and the packet it sends. -/
theorem freeze_takes (s : State) (g : Nat) (f : FaultInfo) :
    let x := s.slot g
    let t := s.freeze g f
    let p := (s.packet g f).toNat
    (∃ u : State, t = u.sendPacket (dieOf (coreOf g)) g (s.packet g f) ∧ u.mem = s.mem ∧ u.dies = s.dies ∧ (u.slot g).packet = x.packet ∧
      (u.slot g).faults = x.faults + 1) ∧
    t.slot g = { x with state := .frozen, hold := .none, await := .none, mode := .none, lastCause := f.cause, faults := x.faults + 1,
                        stepping := false, stepDone := false, begun := false, stamped := false, sig := (t.slot g).sig, prevBlock := none,
                        inspect := (f.cause == 0x11), busy := false, preempting := false,
                        cmdStatus := if x.preempting then 4 else x.cmdStatus, packet := (t.slot g).packet } ∧
    (t.slot g).sig = (if f.cause = 0x0F ∨ f.cause = 0x10 ∨ f.cause = 0x11 then x.sig.filter fun r => r.left == 0 else none) ∧
    (g < Config.slots → fld p 0 8 = f.cause.toNat ∧ fld p 8 2 = g % 4 ∧ fld p 15 11 = clusterOf (coreOf g) ∧ fld p 26 1 = b2n x.through ∧
      fld p 27 5 = 0 ∧ fld p 32 48 = x.pc.toNat ∧ fld p 80 48 = x.rstpc.toNat ∧ fld p 128 64 = f.addr.toNat ∧ fld p 192 64 = f.detail.toNat ∧
      fld p 10 5 = if coreOf g < Config.cores then coreOf g % 32 else 0) := by
  intro x t p
  obtain ⟨hpk, hfa, -, -⟩ := State.frozen_slot s g f
  have hslot := State.freeze_slot s g f
  have hsig : (t.slot g).sig = if 0x0F ≤ f.cause.toNat ∧ f.cause.toNat ≤ 0x11 then x.sig.filter fun r => r.left == 0 else none :=
    congrArg (fun y : Slot => y.sig) hslot
  refine ⟨⟨s.frozen g f, State.freeze_eq s g f, rfl, rfl, hpk, hfa⟩, ?_, ?_, fun hg => ?_⟩
  · rw [hsig]
    exact hslot
  · rw [hsig]
    exact if_congr (executed_cause f.cause) rfl rfl
  · obtain ⟨h0, h8, h10, h15, h26, h27, h32, h80, h128, h192⟩ := State.packet_fields s f hg
    exact ⟨h0, h8, h15, h26, h27, h32, h80, h128, h192, h10.trans (isSup_coreOf g)⟩

end Sys2Proof.Machine
end

section
/-! SUPPORT. What accesses and writes leave of the held packets, the quarantines and the tasks. -/
namespace Sys2Proof.Machine

/-! What an access of global memory and a write leave alone: the packets that dies hold, the quarantines, and that a slot has a task -/

/-- No die's held packets, no core's quarantine has changed, and no slot has lost its task. -/
structure Passive (s t : State) : Prop where
  fqheld : ∀ d, (t.die d).fqheld = (s.die d).fqheld
  quarantined : ∀ c, (t.core c).quarantined = (s.core c).quarantined
  task : ∀ g, (s.slot g).state ≠ .empty → (t.slot g).state ≠ .empty

namespace Passive

theorem refl (s : State) : Passive s s := ⟨fun _ => rfl, fun _ => rfl, fun _ h => h⟩

theorem trans {s t u : State} (h : Passive s t) (k : Passive t u) : Passive s u :=
  ⟨fun d => (k.fqheld d).trans (h.fqheld d), fun c => (k.quarantined c).trans (h.quarantined c), fun g hg => k.task g (h.task g hg)⟩

theorem of_eq {s t : State} (hd : t.dies = s.dies) (hc : t.cores = s.cores) (hs : t.slots = s.slots) : Passive s t := by
  refine ⟨fun d => ?_, fun c => ?_, fun g h => ?_⟩
  · show (Tab.get _ t.dies d).fqheld = (Tab.get _ s.dies d).fqheld
    rw [hd]
  · show (Tab.get _ t.cores c).quarantined = (Tab.get _ s.cores c).quarantined
    rw [hc]
  · show (Tab.get _ t.slots g).state ≠ _
    rw [hs]
    exact h

theorem modDie (s : State) (d : Nat) {f : Die → Die} (hf : ∀ x, (f x).fqheld = x.fqheld) : Passive s (s.modDie d f) := by
  refine ⟨fun j => ?_, fun _ => rfl, fun _ h => h⟩
  rw [State.die_modDie]
  split
  · next h => rw [hf, h]
  · rfl

theorem modDie_of {s t : State} (h : Passive s t) (d : Nat) {f : Die → Die} (hf : ∀ x, (f x).fqheld = x.fqheld) : Passive s (t.modDie d f) :=
  h.trans (modDie t d hf)

theorem modCore (s : State) (c : Nat) {f : Core → Core} (hf : ∀ x, (f x).quarantined = x.quarantined) : Passive s (s.modCore c f) := by
  refine ⟨fun _ => rfl, fun j => ?_, fun _ h => h⟩
  rw [State.core_modCore]
  split
  · next h => rw [hf, h]
  · rfl

theorem modSlot (s : State) (g : Nat) {f : Slot → Slot} (hf : ∀ x : Slot, x.state ≠ .empty → (f x).state ≠ .empty) : Passive s (s.modSlot g f) := by
  refine ⟨fun _ => rfl, fun _ => rfl, fun j h => ?_⟩
  rw [State.slot_modSlot]
  split
  · next hj => exact hf _ (hj ▸ h)
  · exact h

theorem trace (s : State) (g kind : Nat) (pc : Pc) (aux : Nat) (data value : W64) : Passive s (s.trace g kind pc aux data value) :=
  modCore s _ fun _ => rfl

theorem run (s : State) (g : Nat) : Passive s (s.run g) :=
  (modSlot s g (f := fun x => { x with woken := x.streamHeld, state := .running, hold := .none }) fun _ _ => by simp).trans (of_eq rfl rfl rfl)

theorem wakeHeld (s : State) (g : Nat) (d : BitVec 5) (v : W64) (obs got : List Nat) : Passive s (s.wakeHeld g d v obs got) :=
  (modSlot s g fun x h => by simpa [Slot.moved, Slot.next, Slot.goto] using h).trans (run _ g)

/-- The waiters of a word: HELD slots run, wait lists and parked stitches change. -/
theorem wake (s : State) (k n : Nat) : Passive s (s.wake k n) := by
  unfold State.wake
  dsimp only
  generalize h1 : List.foldl _ s s.slots = s1
  have H1 : Passive s s1 := by
    subst h1
    refine foldl_keeps (Passive s) _ (fun t e ht => ?_) _ _ (refl s)
    split
    · split
      · exact ht.trans (run ..)
      · split
        · exact ht.trans (wakeHeld ..)
        · exact ht
    · exact ht
  generalize h2 : List.foldl _ s1 s1.cores = s2
  have H2 : Passive s s2 := by
    subst h2
    refine foldl_keeps (Passive s) _ (fun t e ht => ?_) _ _ H1
    split
    · exact ht
    · exact ht.trans (modCore t _ fun _ => by rfl)
  generalize h3 : List.foldl _ s2 s2.parked = s3
  have H3 : Passive s s3 := by
    subst h3
    refine foldl_keeps (Passive s) _ (fun t p ht => ?_) _ _ H2
    split
    · split
      · exact ht.trans (of_eq rfl rfl rfl)
      · split
        · exact ht.trans (of_eq rfl rfl rfl)
        · exact ht
    · exact ht
  exact H3.trans (of_eq rfl rfl rfl)

theorem write (s : State) (k n v : Nat) (ri : List RelInfo) : Passive s (s.write k n v ri) := by
  unfold State.write
  split
  · exact refl s
  · exact (of_eq rfl rfl rfl : Passive s (((s.put k n v).cover k n).relWrite k n false ri)).trans (wake _ k n)

theorem sample (s : State) (d : Nat) (ctx : BitVec 16) (va cl : Nat) (peer : Bool) (type : Nat) : Passive s (s.sample d ctx va cl peer type) := by
  unfold State.sample
  dsimp only
  split
  · exact refl s
  split
  · exact modDie s d fun _ => by rfl
  split
  · exact ((modDie s d fun _ => by rfl).trans (write ..)).trans (modDie _ d fun _ => by rfl)
  · exact (modDie s d fun _ => by rfl).trans (modDie _ d fun _ => by rfl)

/-- A leaf whose marks change is written back. -/
theorem put_of_not {c : Prop} [Decidable c] {s t : State} {k n v : Nat} (h : Passive s t) : Passive s (if c then t else t.put k n v) := by
  split
  · exact h
  · exact h.trans (of_eq rfl rfl rfl)

theorem translate (s : State) (d va : Nat) (ctx : BitVec 16) (kind : Kind) : Passive s (s.translate d ctx va kind).1 := by
  unfold State.translate
  have hw : Passive s (s.modDie d fun x => { x with walkcnt := x.walkcnt + 1 }) := modDie s d fun _ => by rfl
  split
  · dsimp only
    split
    · exact refl s
    · split
      · exact refl s
      · exact refl s
  · dsimp only
    split
    · exact hw
    · split
      · exact hw
      · split
        · exact hw
        · dsimp only
          exact modDie_of (put_of_not hw) d fun _ => by rfl

/-- The state in which an access that is performed, or ends with a fault, leaves the machine. -/
def Got (s : State) : Sys2Proof.Machine.Got (State × Nat) → Prop
  | .ok (t, _) => Passive s t
  | .bad t _ => Passive s t
  | .wait _ => True

theorem atHome (s : State) (d cl n type : Nat) (ctx : BitVec 16) (ea : W64) (kind : Kind) (peer : Bool) :
    Got s (s.atHome d cl ctx ea n kind peer type) := by
  unfold State.atHome
  dsimp only
  split
  · trivial
  · split
    · trivial
    · have h := translate s d (fld ea.toNat 0 52) ctx kind
      split
      · next ht => rw [ht] at h; exact h
      · next ht =>
        rw [ht] at h
        split
        · exact h
        · split
          · trivial
          · exact h.trans (sample ..)

theorem regionHome (s : State) (cl : Nat) (ctx : BitVec 16) (va : Nat) : Passive s (s.regionHome cl ctx va).1 := by
  unfold State.regionHome
  dsimp only
  repeat' split
  all_goals exact of_eq rfl rfl rfl

theorem corrected (s : State) (cl : Nat) (r : RhEntry) : Passive s (s.corrected cl r) := of_eq rfl rfl rfl

theorem reach (cl : Nat) (ctx : BitVec 16) (va : Nat) : ∀ (f : Nat) (s : State) (h : Nat), Passive s (s.reach cl ctx va f h).1
  | 0, s, h => refl s
  | f + 1, s, h => by
    unfold State.reach
    split
    · exact refl s
    · split
      · exact refl s
      · have hf := modDie s h (f := fun x => { x with fwdcnt := x.fwdcnt + 1 }) fun _ => rfl
        exact (hf.trans (corrected ..)).trans (reach cl ctx va f _ _)

theorem findHome (s : State) (cl : Nat) (ctx : BitVec 16) (ea : W64) : Passive s (s.findHome cl ctx ea).1 := by
  unfold State.findHome
  dsimp only
  have h1 := regionHome s cl ctx (fld ea.toNat 0 52)
  split
  · next hr => rw [hr] at h1; exact h1
  · next u x hr =>
    rw [hr] at h1
    have h2 := reach cl ctx (fld ea.toNat 0 52) 64 u x
    split
    · next hr' => rw [hr'] at h2; exact h1.trans h2
    · next hr' => rw [hr'] at h2; exact h1.trans h2

theorem global (s : State) (cl n type : Nat) (ctx : BitVec 16) (ea : W64) (kind : Kind) : Got s (s.global cl ctx ea n kind type) := by
  unfold State.global
  have h := findHome s cl ctx ea
  split
  · next hr => rw [hr] at h; exact h
  · next u x hr =>
    rw [hr] at h
    have k := atHome u x cl n type ctx ea kind false
    revert k
    cases u.atHome x cl ctx ea n kind false type with
    | ok a => exact fun k => h.trans k
    | bad t f => exact fun k => h.trans k
    | wait ks => exact fun _ => trivial

theorem wantRanges (s : State) (rs : List Nat) : Passive s (s.wantRanges rs) := by
  unfold State.wantRanges
  split
  · exact refl s
  · exact of_eq rfl rfl rfl

theorem ckWant (s : State) (ks : List Nat) : Passive s (s.ckWant ks) := wantRanges ..

theorem sysRead (s : State) (d va n : Nat) : Passive s (s.sysRead d va n).1 := by
  unfold State.sysRead
  have k := global s (32 * d) n 0 0 (mkAddr 4 va) .read
  revert k
  cases s.global (32 * d) 0 (mkAddr 4 va) n .read 0 with
  | ok a => exact fun k => k
  | bad t f => exact fun k => k
  | wait ks => exact fun _ => ckWant ..

theorem sysWrite (s : State) (d va n v : Nat) (r : Bool) : Passive s (s.sysWrite d va n v r).1 := by
  unfold State.sysWrite
  have k := global s (32 * d) n 1 0 (mkAddr 4 va) .write
  revert k
  cases s.global (32 * d) 0 (mkAddr 4 va) n .write 1 with
  | ok a => exact fun k => Passive.trans k (write ..)
  | bad t f => exact fun k => k
  | wait ks => exact fun _ => ckWant ..

theorem mirror (s : State) (g : Nat) (p : W256) : Passive s (s.mirror g p) := by
  unfold State.mirror
  split
  · exact (write ..).trans (write ..)
  · exact refl s

end Passive

end Sys2Proof.Machine
end

section
/-! SUPPORT. The packet on its way to the ring of its die (R322, R323). -/
namespace Sys2Proof.Machine

/-! A packet on its way to the ring (R322, R323) -/

section
variable {s : State} {d g : Nat} {pkt : W256}

/-- A packet that is kept: in the die's queue while that holds fewer than 64, else in its slot. -/
theorem State.keepPacket_kept (s : State) (d : Nat) {g : Nat} (pkt : W256) (hg : g < Config.slots) :
    ((s.die d).fqheld.length < 64 → ((s.keepPacket d g pkt).die d).fqheld = (s.die d).fqheld ++ [(g, pkt)]) ∧
    (64 ≤ (s.die d).fqheld.length → ((s.keepPacket d g pkt).die d).fqheld = (s.die d).fqheld ∧ ((s.keepPacket d g pkt).slot g).packet = some pkt) ∧
    (s.keepPacket d g pkt).mem = s.mem := by
  have hn : ¬ Config.slots ≤ g := Nat.not_le.mpr hg
  unfold State.keepPacket
  by_cases hl : (s.die d).fqheld.length < 64
  · rw [if_pos (by simp [hl])]
    refine ⟨fun _ => ?_, fun h => absurd hl (Nat.not_lt.mpr h), rfl⟩
    rw [State.die_modDie_self]
  · rw [if_neg (by simp [hl, hn])]
    refine ⟨fun h => absurd h hl, fun _ => ⟨rfl, ?_⟩, rfl⟩
    rw [State.slot_modSlot_self]

theorem State.sendPacket_behind (h : (s.die d).fqheld ≠ []) : s.sendPacket d g pkt = s.keepPacket d g pkt := by
  rw [State.sendPacket, if_neg (by simpa using h)]

theorem State.sendPacket_off (h : (s.die d).fqctl.toNat % 2 = 0) : s.sendPacket d g pkt = s.keepPacket d g pkt := by
  have hb : bit (s.die d).fqctl.toNat 0 = false := by simp [bit, fld, h]
  have hr : s.ringWrite d g pkt = (s, false) := by
    unfold State.ringWrite
    simp [hb]
  unfold State.sendPacket
  rw [hr]
  simp

theorem State.sendPacket_refused {v : State} (h : (s.die d).fqheld = []) (hr : s.ringWrite d g pkt = (v, false)) :
    s.sendPacket d g pkt = v.keepPacket d g pkt := by
  rw [State.sendPacket, if_pos (by rw [h]; rfl), hr]

theorem State.sendPacket_taken {v : State} (h : (s.die d).fqheld = []) (hr : s.ringWrite d g pkt = (v, true)) : s.sendPacket d g pkt = v := by
  rw [State.sendPacket, if_pos (by rw [h]; rfl), hr]

/-- Where the mirror of a slot lies. -/
theorem pageKey_mirror (g : Nat) : pageKey g 0x40 = localKey (coreOf g) (0x27040 + 0x400 * (g % 4)) ∧
    pageKey g 0x60 = localKey (coreOf g) (0x27040 + 0x400 * (g % 4)) + 32 := by
  unfold pageKey localKey
  omega

/-- Where the ring's head, its tail and its entries lie. -/
def ringBase (x : Die) : Nat := fld x.fqbase.toNat 6 46 * 64
/-- The entries of the ring. -/
def ringSize (x : Die) : Nat := 2 ^ fld x.fqctl.toNat 8 5

variable {u v w z : State} {head tail : Nat}

/-- The ring is full: nothing is written. -/
theorem State.ringWrite_full (hon : (s.die d).fqctl.toNat % 2 = 1) (hck : s.ckHold (pageKey g 0x40) = false)
    (hh : s.sysRead d (ringBase (s.die d)) 8 = (u, some head)) (ht : u.sysRead d (ringBase (s.die d) + 8) 8 = (v, some tail))
    (hfull : (head + 2 ^ 64 - tail) % 2 ^ 64 = ringSize (s.die d)) : s.ringWrite d g pkt = (v, false) := by
  have hb : bit (s.die d).fqctl.toNat 0 = true := by simp [bit, fld, hon]
  unfold ringBase at hh ht
  unfold ringSize at hfull
  unfold State.ringWrite
  simp only [hb, hck, hh, ht, hfull]
  simp

/-- The ring has room: the entry, the head, the count and the mirror. -/
theorem State.ringWrite_done (hon : (s.die d).fqctl.toNat % 2 = 1) (hck : s.ckHold (pageKey g 0x40) = false)
    (hh : s.sysRead d (ringBase (s.die d)) 8 = (u, some head)) (ht : u.sysRead d (ringBase (s.die d) + 8) 8 = (v, some tail))
    (hroom : (head + 2 ^ 64 - tail) % 2 ^ 64 ≠ ringSize (s.die d))
    (hw : v.sysWrite d (ringBase (s.die d) + 64 + 32 * (head % ringSize (s.die d))) 32 pkt.toNat false = (w, true))
    (hz : w.sysWrite d (ringBase (s.die d)) 8 (head + 1) true = (z, true)) :
    s.ringWrite d g pkt = ((z.modDie d fun x => { x with fqsent := x.fqsent + 1 }).mirror g pkt, true) := by
  have hb : bit (s.die d).fqctl.toNat 0 = true := by simp [bit, fld, hon]
  unfold ringBase at hh ht hw hz
  unfold ringSize at hroom hw
  unfold State.ringWrite
  simp only [hb, hck, hh, ht, hroom, hw, hz]
  simp
end

/-- The mirror of a slot after it has received a packet: the packet, the fault count, nothing else of memory. -/
theorem State.mirror_mem (s : State) {g : Nat} (pkt : W256) (hg : g < Config.slots) :
    let k := localKey (coreOf g) (0x27040 + 0x400 * (g % 4))
    (s.mirror g pkt).dies = s.dies ∧ (s.mirror g pkt).nat k 32 = pkt.toNat ∧ (s.mirror g pkt).nat (k + 32) 8 = (s.slot g).faults.toNat ∧
      ∀ j, j < k ∨ k + 40 ≤ j → (s.mirror g pkt).mem.get 0 j = s.mem.get 0 j := by
  intro k
  obtain ⟨h1, h2⟩ := pageKey_mirror g
  have hmem : (s.mirror g pkt).mem = memPut (memPut s.mem k 32 pkt.toNat) (k + 32) 8 (s.slot g).faults.toNat := by
    unfold State.mirror
    rw [if_pos hg, State.write_mem, State.write_mem, h1, h2]
  refine ⟨?_, ?_, ?_, fun j hj => ?_⟩
  · unfold State.mirror
    rw [if_pos hg]
    exact (State.write_frame ..).2.2.2.2.trans (State.write_frame ..).2.2.2.2
  · show memNat (s.mirror g pkt).mem k 32 = _
    rw [hmem, memNat_congr 32 (m' := memPut s.mem k 32 pkt.toNat) k fun i hi => by rw [get_memPut, if_neg (by omega)], memNat_memPut]
    exact Nat.mod_eq_of_lt (pkt.isLt.trans_eq (by norm_num))
  · show memNat (s.mirror g pkt).mem (k + 32) 8 = _
    rw [hmem, memNat_memPut]
    exact Nat.mod_eq_of_lt ((s.slot g).faults.isLt.trans_le (by norm_num))
  · rw [hmem, get_memPut, get_memPut, if_neg (by omega), if_neg (by omega)]

end Sys2Proof.Machine
end

section
open Sys2Proof Sys2Proof.Machine Sys2Proof.Claims

theorem packetsSent_holds : packetsSent := by
  intro s d g pkt hg x t base n mir kept
  obtain ⟨hk, -⟩ := pageKey_mirror g
  have hkeep : ∀ v : State, (v.die d).fqheld = x.fqheld → kept (v.keepPacket d g pkt) := fun v hv => by
    obtain ⟨h1, h2, -⟩ := State.keepPacket_kept v d pkt hg
    rw [hv] at h1 h2
    exact ⟨h1, h2⟩
  refine ⟨fun h => ?_, fun hnil hon hck u v w z head tail hu hv _ _ => ?_⟩
  · have ht : t = s.keepPacket d g pkt := h.elim State.sendPacket_behind State.sendPacket_off
    rw [ht]
    exact ⟨hkeep s rfl, (State.keepPacket_kept s d pkt hg).2.2⟩
  · have hck' : s.ckHold (pageKey g 0x40) = false := (congrArg s.ckHold hk).trans hck
    have kv : Passive s v := by
      have k1 := Passive.sysRead s d base 8
      have k2 := Passive.sysRead u d (base + 8) 8
      rw [hu] at k1
      rw [hv] at k2
      exact k1.trans k2
    refine ⟨fun hfull => ?_, fun hroom hw hz => ?_⟩
    · have ht : t = v.keepPacket d g pkt := State.sendPacket_refused hnil (State.ringWrite_full hon hck' hu hv hfull)
      rw [ht]
      exact hkeep v (kv.fqheld d)
    · have kw := Passive.sysWrite v d (base + 64 + 32 * (head % n)) 32 pkt.toNat false
      have kz := Passive.sysWrite w d base 8 (head + 1) true
      rw [hw] at kw
      rw [hz] at kz
      have ht : t = (z.modDie d fun x => { x with fqsent := x.fqsent + 1 }).mirror g pkt :=
        State.sendPacket_taken hnil (State.ringWrite_done hon hck' hu hv hroom hw hz)
      obtain ⟨hdies, hp, hf, hother⟩ := State.mirror_mem (z.modDie d fun x => { x with fqsent := x.fqsent + 1 }) pkt hg
      have hd : t.die d = { z.die d with fqsent := (z.die d).fqsent + 1 } := by
        rw [ht]
        exact (congrArg (fun l : Tab Die => l.get Die.reset d) hdies).trans (State.die_modDie_self ..)
      refine ⟨?_, ?_, ht ▸ hp, ht ▸ hf, ht ▸ hother⟩
      · rw [hd]
        exact (((kv.trans kw).trans kz).fqheld d).trans hnil
      · rw [hd]
end

section
/-! SUPPORT. The fates of a fault that a target returned (R93, R258 to R260, R340). -/
namespace Sys2Proof.Machine

/-! A segment that is abandoned (R93, R119, R258) -/

theorem State.slot_of_mem (s : State) (m : Tab Byte) (g : Nat) : ({ s with mem := m } : State).slot g = s.slot g := rfl
theorem State.slot_of_requests (s : State) (l : List LoadReq) (o : List OutEntry) (a : List AmoReq) (g : Nat) :
    ({ s with loads := l, out := o, amos := a } : State).slot g = s.slot g := rfl

/-- What is left of a slot whose segment is abandoned, but for the stream registers that its chains had bound. -/
theorem State.abandon_slot (s : State) (g : Nat) : (s.abandon g).slot g =
    { s.slot g with q := ((s.dropChains g).slot g).q, buf := [], pc := (s.slot g).rstpc, await := .none, mode := .none, seg := (s.slot g).seg + 1,
                    begun := false, stamped := false, sig := none, prevBlock := none } := by
  have hd : (s.dropChains g).slot g = { s.slot g with q := ((s.dropChains g).slot g).q } := by
    unfold State.dropChains
    dsimp only
    rw [State.slot_modSlot_self]
    rfl
  unfold State.abandon
  dsimp only
  rw [State.slot_modSlot_self]
  conv_lhs => rw [State.slot_of_requests, hd]

/-! The context in memory (R331) -/

/-- Fields that lie off byte `j` leave it. -/
theorem foldl_memPut_off {l : List (Nat × Nat × Nat)} {base j : Nat} : ∀ {m : Tab Byte}, (∀ f ∈ l, j < base + f.1 ∨ base + f.1 + f.2.1 ≤ j) →
    (l.foldl (fun m f => memPut m (base + f.1) f.2.1 f.2.2) m).get 0 j = m.get 0 j := by
  induction l with
  | nil => exact fun _ => rfl
  | cons f l ih =>
    intro m h
    obtain ⟨hf, hl⟩ := List.forall_mem_cons.mp h
    rw [List.foldl_cons, ih hl, get_memPut, if_neg (by omega)]

/-- Memory holds a field at its place that stood there or is among those written, where no other of these meets it. -/
theorem memNat_foldl_memPut {l : List (Nat × Nat × Nat)} {base o n v : Nat} : ∀ {m : Tab Byte},
    (∀ f ∈ l, f = (o, n, v) ∨ f.1 + f.2.1 ≤ o ∨ o + n ≤ f.1) → memNat m (base + o) n = v % 256 ^ n ∨ (o, n, v) ∈ l →
    memNat (l.foldl (fun m f => memPut m (base + f.1) f.2.1 f.2.2) m) (base + o) n = v % 256 ^ n := by
  induction l with
  | nil => exact fun _ h => h.resolve_right List.not_mem_nil
  | cons f l ih =>
    intro m hoff hm
    obtain ⟨hf, hl⟩ := List.forall_mem_cons.mp hoff
    rw [List.foldl_cons]
    refine ih hl ?_
    by_cases he : f = (o, n, v)
    · left
      rw [he, memNat_memPut]
    · have hout := hf.resolve_left he
      refine hm.imp (fun h => ?_) fun h => (List.mem_cons.mp h).resolve_left fun e => he e.symm
      rw [← h]
      refine memNat_congr n (base + o) fun i hi => ?_
      rw [get_memPut, if_neg (by omega)]

/-- Where the fields of a context lie: that of the pc and that of the restart point apart from all others, none beyond 0x700. -/
theorem Slot.fields_place (x : Slot) (chains : Nat) (mx : Nat → Bool) : ∀ f ∈ x.fields chains mx,
    (f = (0x38, 8, x.pc.toNat) ∨ f.1 + f.2.1 ≤ 0x38 ∨ 0x38 + 8 ≤ f.1) ∧ (f = (0x40, 8, x.rstpc.toNat) ∨ f.1 + f.2.1 ≤ 0x40 ∨ 0x40 + 8 ≤ f.1) ∧
      f.1 + f.2.1 ≤ 0x700 := by
  simp only [Slot.fields, List.forall_mem_append, List.forall_mem_map, List.forall_mem_cons, List.mem_range]
  refine ⟨⟨⟨⟨⟨fun i hi => ?_, ?_⟩, fun i hi => ?_⟩, ?_⟩, fun i hi => ?_⟩, fun i hi => ?_⟩
  · omega
  · simp
  · omega
  · simp
  · omega
  · omega

theorem Slot.pc_mem_fields (x : Slot) (chains : Nat) (mx : Nat → Bool) :
    (0x38, 8, x.pc.toNat) ∈ x.fields chains mx ∧ (0x40, 8, x.rstpc.toNat) ∈ x.fields chains mx := by
  simp [Slot.fields]

/-- A saved context: pc and restart point at their places, nothing beyond its 0x700 bytes. -/
theorem Slot.save_mem (x : Slot) (chains : Nat) (mx : Nat → Bool) (base : Nat) (m : Tab Byte) :
    memNat (x.save chains mx base m) (base + 0x38) 8 = x.pc.toNat ∧ memNat (x.save chains mx base m) (base + 0x40) 8 = x.rstpc.toNat ∧
    ∀ j, j < base ∨ base + 0x700 ≤ j → (x.save chains mx base m).get 0 j = m.get 0 j := by
  have hp := x.fields_place chains mx
  obtain ⟨hpc, hrst⟩ := x.pc_mem_fields chains mx
  refine ⟨?_, ?_, fun j hj => foldl_memPut_off fun f hf => ?_⟩
  · refine (memNat_foldl_memPut (fun f hf => (hp f hf).1) (.inr hpc)).trans ?_
    exact Nat.mod_eq_of_lt (x.pc.isLt.trans_le (by norm_num))
  · refine (memNat_foldl_memPut (fun f hf => (hp f hf).2.1) (.inr hrst)).trans ?_
    exact Nat.mod_eq_of_lt (x.rstpc.isLt.trans_le (by norm_num))
  · obtain ⟨-, -, h⟩ := hp f hf
    omega

/-! The fates of a fault that a target returned (R93, R258 to R260, R340) -/

theorem fld_zero (x n : Nat) : fld x 0 n = x % 2 ^ n := by rw [fld, pow_zero, Nat.div_one]

section
variable {s : State} {g : Nat} {f : FaultInfo} {ipc : Pc}

theorem State.targetFault_through (h : (s.slot g).through = true) : s.targetFault g f ipc =
    (({ s with loads := s.loads.filter (fun l => l.g != g), out := s.out.filter (fun o => o.g != g) } : State).modSlot g fun x =>
      { x with pc := ipc, buf := [] }).freeze g ⟨0x0D, f.addr, w64 (f.cause.toNat + f.detail.toNat % 2 ^ 4 * 2 ^ 8)⟩ := by
  rw [State.targetFault, if_pos h, fld_zero]
  rfl

theorem State.targetFault_off (h : (s.slot g).through = false) : s.targetFault g f ipc =
    if f.cause = 7 then s.poisonFault g f.addr else (s.abandon g).wordFault g f := by
  rw [State.targetFault, if_neg (by simp [h])]

theorem State.wordFault_absent (hc : f.cause = 4) (hd : f.detail.toNat % 2 ^ 4 = 3) (hn : (s.slot g).npre = false) :
    s.wordFault g f = s.evict g f.addr (fld f.detail.toNat 4 3) :=
  if_pos ⟨hc, (fld_zero ..).trans hd, by simp [hn]⟩

theorem State.wordFault_other (h : ¬ (f.cause = 4 ∧ f.detail.toNat % 2 ^ 4 = 3) ∨ (s.slot g).npre = true) : s.wordFault g f = s.freeze g f := by
  refine if_neg fun ⟨hc, hd, hn⟩ => ?_
  rw [fld_zero] at hd
  exact h.elim (fun h => h ⟨hc, hd⟩) hn
end

/-- How often the segment has now met the poison of a line. -/
def Slot.poisonCount (x : Slot) (line : W64) : Nat := if x.paddr = line ∧ x.prest ≠ 0 then x.prest.toNat + 1 else 1

theorem State.poisonFault_eq (s : State) (g : Nat) (ea : W64) : s.poisonFault g ea =
    if (s.slot g).poisonCount (lineOf ea) < 3 then
      ((s.abandon g).modSlot g fun x =>
        let x := if x.preempting then x.status 4 else x
        { x with prest := BitVec.ofNat 2 ((s.slot g).poisonCount (lineOf ea)), paddr := lineOf ea, psince := true, stepDone := false }).run g
    else ((s.abandon g).modSlot g fun x => { x with psince := true }).freeze g ⟨7, lineOf ea, 2⟩ := by
  have h : (if ((s.abandon g).slot g).paddr = lineOf ea ∧ ((s.abandon g).slot g).prest ≠ 0 then ((s.abandon g).slot g).prest.toNat + 1 else 1) =
      (s.slot g).poisonCount (lineOf ea) := by
    rw [State.abandon_slot]
    rfl
  unfold State.poisonFault
  dsimp only
  rw [h]

/-- A context saved: the slot is PREEMPTED, its registers stand; pc and restart point lie at their places in memory. -/
theorem State.saveContext_keeps (s : State) (g : Nat) :
    let x := s.slot g
    let y := (s.saveContext g).slot g
    y.state = .preempted ∧ y.pc = x.pc ∧ y.rstpc = x.rstpc ∧ y.buf = x.buf ∧ (∀ r, y.s r = x.s r) ∧ y.lastCause = x.lastCause ∧ y.faults = x.faults ∧
    (s.saveContext g).nat (ctxKey g + 0x38) 8 = x.pc.toNat ∧ (s.saveContext g).nat (ctxKey g + 0x40) 8 = x.rstpc.toNat ∧
    ∀ j, j < ctxKey g ∨ ctxKey g + 0x700 ≤ j → (s.saveContext g).mem.get 0 j = s.mem.get 0 j := by
  intro x y
  obtain ⟨m1, m2, m3⟩ := x.save_mem (s.chainsOf g) (s.mxOf g x.task) (ctxKey g) s.mem
  have hy : y = { x with state := .preempted, hold := .none, await := .none, mode := .none, stepping := false, stepDone := false, begun := false,
                         stamped := false, sig := none, prevBlock := none } := by
    show (s.saveContext g).slot g = _
    unfold State.saveContext
    dsimp only
    rw [State.slot_modSlot_self, State.slot_of_mem]
  have hm : (s.saveContext g).mem = x.save (s.chainsOf g) (s.mxOf g x.task) (ctxKey g) s.mem := by
    unfold State.saveContext
    rw [State.modSlot_mem]
  rw [← hm] at m1 m2 m3
  rw [hy]
  exact ⟨rfl, rfl, rfl, rfl, fun _ => rfl, rfl, rfl, m1, m2, m3⟩

/-- The slot of an eviction with its cause and count, its context not saved yet. -/
def State.paged (s : State) (g : Nat) : State :=
  (s.trace g 7 (s.slot g).pc 0 5 0).modSlot g fun x =>
    let x := if x.preempting then x.status 4 else { x with busy := false }
    { x with lastCause := 5, faults := x.faults + 1 }

theorem State.paged_slot (s : State) (g : Nat) :
    let x := s.slot g
    let y := (s.paged g).slot g
    y.pc = x.pc ∧ y.rstpc = x.rstpc ∧ y.buf = x.buf ∧ (∀ r, y.s r = x.s r) ∧ y.lastCause = 5 ∧ y.faults = x.faults + 1 := by
  unfold State.paged
  dsimp only
  rw [State.slot_modSlot_self, State.trace_slot]
  split
  · exact ⟨rfl, rfl, rfl, fun _ => rfl, rfl, rfl⟩
  · exact ⟨rfl, rfl, rfl, fun _ => rfl, rfl, rfl⟩

theorem State.evict_eq (s : State) (g : Nat) (va : W64) (lvl : Nat) :
    s.evict g va lvl = ((s.paged g).saveContext g).sendPacket (dieOf (coreOf g)) g (s.packet g ⟨5, va, w64 (lvl * 16)⟩) := rfl

section
variable {s : State} {g : Nat} {f : FaultInfo}

/-- What the slot keeps of a segment that is abandoned. -/
theorem State.abandon_gives (s : State) (g : Nat) : ((s.abandon g).slot g).pc = (s.slot g).rstpc ∧ ((s.abandon g).slot g).faults = (s.slot g).faults ∧
    ((s.abandon g).slot g).npre = (s.slot g).npre ∧
    ((s.abandon g).slot g).rstpc = (s.slot g).rstpc ∧ ((s.abandon g).slot g).buf = [] ∧ ∀ r, ((s.abandon g).slot g).s r = (s.slot g).s r := by
  rw [State.abandon_slot]
  exact ⟨rfl, rfl, rfl, rfl, rfl, fun _ => rfl⟩

theorem State.abandon_mem (s : State) (g : Nat) : (s.abandon g).mem = s.mem := by
  unfold State.abandon State.dropChains
  rfl

/-- Poison met for the first or the second time: the segment runs again. -/
theorem poison_restarts (h : (s.slot g).poisonCount (lineOf f.addr) < 3) : let y := (s.poisonFault g f.addr).slot g
    y.state = .running ∧ y.pc = (s.slot g).rstpc ∧ y.prest.toNat = (s.slot g).poisonCount (lineOf f.addr) ∧
    (y.rstpc = (s.slot g).rstpc ∧ y.buf = [] ∧ ∀ r, y.s r = (s.slot g).s r) ∧ (s.poisonFault g f.addr).mem = s.mem := by
  obtain ⟨hpc, -, -, hgiven⟩ := State.abandon_gives s g
  have hcount : (BitVec.ofNat 2 ((s.slot g).poisonCount (lineOf f.addr))).toNat = (s.slot g).poisonCount (lineOf f.addr) :=
    (BitVec.toNat_ofNat ..).trans (Nat.mod_eq_of_lt (Nat.lt_of_lt_of_le h (by norm_num)))
  rw [State.poisonFault_eq, if_pos h, run_slot_self, State.run_mem, State.modSlot_mem, State.abandon_mem, State.slot_modSlot_self]
  dsimp only
  split
  · exact ⟨rfl, hpc, hcount, hgiven, rfl⟩
  · exact ⟨rfl, hpc, hcount, hgiven, rfl⟩

/-- The third time: the slot freezes at its restart point. -/
theorem poison_freezes (h : ¬ (s.slot g).poisonCount (lineOf f.addr) < 3) : ∃ u : State, s.poisonFault g f.addr = u.freeze g ⟨7, lineOf f.addr, 2⟩ ∧
    (u.slot g).pc = (s.slot g).rstpc ∧ ((u.slot g).rstpc = (s.slot g).rstpc ∧ (u.slot g).buf = [] ∧ ∀ r, (u.slot g).s r = (s.slot g).s r) ∧
    u.mem = s.mem := by
  obtain ⟨hpc, -, -, hgiven⟩ := State.abandon_gives s g
  rw [State.poisonFault_eq, if_neg h]
  refine ⟨(s.abandon g).modSlot g fun x => { x with psince := true }, rfl, ?_⟩
  rw [State.slot_modSlot_self, State.modSlot_mem]
  exact ⟨hpc, hgiven, State.abandon_mem s g⟩

/-- A page that is not present: the context saved at the restart point, the paging packet sent. -/
theorem absent_evicts (hg : g < Config.slots) (hc : f.cause = 4) (hd : f.detail.toNat % 2 ^ 4 = 3) (hn : (s.slot g).npre = false) :
    ∃ (u : State) (p : W256), (s.abandon g).wordFault g f = u.sendPacket (dieOf (coreOf g)) g p ∧ (u.slot g).state = .preempted ∧
      (u.slot g).pc = (s.slot g).rstpc ∧ ((u.slot g).rstpc = (s.slot g).rstpc ∧ (u.slot g).buf = [] ∧ ∀ r, (u.slot g).s r = (s.slot g).s r) ∧
      (u.slot g).lastCause = 5 ∧ (u.slot g).faults = (s.slot g).faults + 1 ∧ u.nat (ctxKey g + 0x38) 8 = (s.slot g).rstpc.toNat ∧
      u.nat (ctxKey g + 0x40) 8 = (s.slot g).rstpc.toNat ∧ (∀ j, j < ctxKey g ∨ ctxKey g + 0x700 ≤ j → u.mem.get 0 j = s.mem.get 0 j) ∧
      p.toNat % 2 ^ 8 = 5 ∧ p.toNat / 2 ^ 32 % 2 ^ 48 = (s.slot g).rstpc.toNat ∧ p.toNat / 2 ^ 128 % 2 ^ 64 = f.addr.toNat := by
  obtain ⟨hpc, hfa, hnp, g1, g2, g3⟩ := State.abandon_gives s g
  rw [State.wordFault_absent hc hd (hnp.trans hn), State.evict_eq]
  obtain ⟨p1, p2, p3, p4, p5, p6⟩ := State.paged_slot (s.abandon g) g
  obtain ⟨c1, c2, c3, c4, c5, c6, c7, m1, m2, m3⟩ := State.saveContext_keeps ((s.abandon g).paged g) g
  obtain ⟨k0, -, -, -, -, -, k32, -, k128, -⟩ := State.packet_fields (s.abandon g) ⟨5, f.addr, w64 (fld f.detail.toNat 4 3 * 16)⟩ hg
  have hr := p2.trans g1
  have hp := p1.trans hpc
  exact ⟨_, _, rfl, c1, c2.trans hp, ⟨c3.trans hr, c4.trans (p3.trans g2), fun r => (c5 r).trans ((p4 r).trans (g3 r))⟩, c6.trans p5,
    c7.trans (p6.trans (congrArg (· + 1) hfa)), m1.trans (congrArg BitVec.toNat hp), m2.trans (congrArg BitVec.toNat hr), m3,
    (fld_zero ..).symm.trans k0, k32.trans (congrArg BitVec.toNat hpc), k128⟩
end

end Sys2Proof.Machine
end

section
open Sys2Proof Sys2Proof.Machine Sys2Proof.Claims

theorem targetFates_holds : targetFates := by
  intro s g f ipc hg x t absent times given
  have ht : x.through = false → t = if f.cause = 7 then s.poisonFault g f.addr else (s.abandon g).wordFault g f := fun h =>
    State.targetFault_off h
  obtain ⟨hpc, -, hnp, hgiven⟩ := State.abandon_gives s g
  refine ⟨fun h => ⟨_, State.targetFault_through h, ?_, ?_⟩, fun h hc hn => ?_, fun h hc hn => ?_, fun h ha hp => ?_, fun h hc hp => ?_⟩
  · rw [State.modSlot_mem]
  · rw [State.slot_modSlot_self, State.slot_of_requests]
  · rw [ht h, if_pos hc]
    exact poison_restarts hn
  · rw [ht h, if_pos hc]
    exact poison_freezes (Nat.not_lt.mpr hn)
  · rw [ht h, if_neg (by rw [ha.1]; decide)]
    exact absent_evicts hg ha.1 ha.2 hp
  · rw [ht h, if_neg hc, State.wordFault_other (hp.imp_right hnp.trans)]
    exact ⟨_, rfl, hpc, hgiven, State.abandon_mem s g⟩
end

section
/-! SUPPORT. Blocks under a signature, and a core under suspicion (R341, R342, R344). -/
namespace Sys2Proof.Machine

/-! What the freezing of one slot leaves of the others (R320, R344) -/

/-- No core's quarantine has changed, no slot has lost its task, and a slot that SIGCHK has stopped is stopped. -/
structure Standing (s t : State) : Prop where
  quarantined : ∀ c, (t.core c).quarantined = (s.core c).quarantined
  task : ∀ j, (s.slot j).state ≠ .empty → (t.slot j).state ≠ .empty
  stopped : ∀ j, (s.slot j).state = .frozen → (s.slot j).lastCause = 0x13 → (t.slot j).state = .frozen ∧ (t.slot j).lastCause = 0x13

namespace Standing

theorem refl (s : State) : Standing s s := ⟨fun _ => rfl, fun _ h => h, fun _ h k => ⟨h, k⟩⟩

theorem trans {s t u : State} (h : Standing s t) (k : Standing t u) : Standing s u :=
  ⟨fun c => (k.quarantined c).trans (h.quarantined c), fun j hj => k.task j (h.task j hj),
    fun j hf hc => (h.stopped j hf hc).elim (k.stopped j)⟩

theorem of_passive {s t : State} (h : Passive s t) (k : SlotsKept s t) : Standing s t := by
  refine ⟨h.quarantined, h.task, fun j hf hc => ?_⟩
  rw [k.2 j (by rw [hf]; decide)]
  exact ⟨hf, hc⟩

end Standing

theorem Passive.ringWrite (s : State) (d g : Nat) (p : W256) : Passive s (s.ringWrite d g p).1 := by
  unfold State.ringWrite
  dsimp only
  have rd : ∀ (u t : State) (va n : Nat) (v : Option Nat), Passive s u → u.sysRead d va n = (t, v) → Passive s t := fun u t va n v hu h => by
    have k := hu.trans (Passive.sysRead u d va n)
    rwa [h] at k
  have wr : ∀ (u t : State) (va n v : Nat) (r b : Bool), Passive s u → u.sysWrite d va n v r = (t, b) → Passive s t := fun u t va n v r b hu h => by
    have k := hu.trans (Passive.sysWrite u d va n v r)
    rwa [h] at k
  split
  · exact .refl s
  split
  · exact .ckWant ..
  split
  · next h1 => exact rd _ _ _ _ _ (.refl s) h1
  next h1 =>
  have k1 := rd _ _ _ _ _ (.refl s) h1
  split
  · next h2 => exact rd _ _ _ _ _ k1 h2
  next h2 =>
  have k2 := rd _ _ _ _ _ k1 h2
  split
  · exact k2
  split
  · next h3 => exact wr _ _ _ _ _ _ _ k2 h3
  next h3 =>
  have k3 := wr _ _ _ _ _ _ _ k2 h3
  split
  · next h4 => exact wr _ _ _ _ _ _ _ k3 h4
  next h4 =>
  exact ((wr _ _ _ _ _ _ _ k3 h4).trans (.modDie _ d fun _ => by rfl)).trans (.mirror ..)

namespace Standing

theorem keepPacket (s : State) (d g : Nat) (p : W256) : Standing s (s.keepPacket d g p) := by
  refine ⟨fun c => ?_, fun j h => ?_, fun j h k => ?_⟩
  · unfold State.keepPacket
    split
    · rfl
    · rfl
  · rw [State.keepPacket_slot]
    exact h
  · rw [State.keepPacket_slot]
    exact ⟨h, k⟩

theorem sendPacket (s : State) (d g : Nat) (p : W256) : Standing s (s.sendPacket d g p) := by
  have hr := of_passive (Passive.ringWrite s d g p) (SlotsKept.ringWrite s d g p)
  unfold State.sendPacket
  split
  · split
    · next h => rw [h] at hr; exact hr
    · next h => rw [h] at hr; exact hr.trans (keepPacket ..)
  · exact keepPacket ..

/-- SIGCHK at one slot: that one is stopped, the others stand. -/
theorem freeze (s : State) (g : Nat) {f : FaultInfo} (hf : f.cause = 0x13) : Standing s (s.freeze g f) := by
  refine Standing.trans ⟨fun c => ?_, fun j h => ?_, fun j h k => ?_⟩ (sendPacket (s.frozen g f) (dieOf (coreOf g)) g (s.packet g f))
  · exact (Passive.trace s g 7 (s.slot g).pc 0 (w64 f.cause.toNat) 0).quarantined c
  · by_cases hj : j = g
    · subst hj
      rw [(State.frozen_slot s j f).2.2.1]
      decide
    · unfold State.frozen
      rw [State.slot_modSlot_other _ _ hj, State.trace_slot]
      exact h
  · by_cases hj : j = g
    · subst hj
      obtain ⟨-, -, hs, hc⟩ := State.frozen_slot s j f
      exact ⟨hs, hc.trans hf⟩
    · unfold State.frozen
      rw [State.slot_modSlot_other _ _ hj, State.trace_slot]
      exact ⟨h, k⟩

end Standing

/-- A slot that SIGCHK freezes is stopped. -/
theorem State.freeze_stopped (s : State) (g : Nat) {f : FaultInfo} (hf : f.cause = 0x13) :
    ((s.freeze g f).slot g).state = .frozen ∧ ((s.freeze g f).slot g).lastCause = 0x13 := by
  rw [State.freeze_slot]
  exact ⟨rfl, hf⟩

/-! A unit under suspicion (R344) -/

theorem State.sigFreeze_stopped {s : State} {g : Nat} (detail : W64) (h : (s.slot g).state ≠ .empty) :
    ((s.sigFreeze g detail).slot g).state = .frozen ∧ ((s.sigFreeze g detail).slot g).lastCause = 0x13 := by
  unfold State.sigFreeze
  split
  · next he => exact absurd he h
  · exact State.freeze_stopped _ g rfl
  · exact State.freeze_stopped _ g rfl

theorem Standing.sigFreeze (s : State) (g : Nat) (detail : W64) : Standing s (s.sigFreeze g detail) := by
  have hstop := State.sigFreeze_stopped (s := s) (g := g) detail
  unfold State.sigFreeze at hstop ⊢
  split
  · exact refl s
  · next hp =>
    rw [hp] at hstop
    have hs := hstop (by decide)
    have hr : ∀ j, j ≠ g → (s.restoreContext g).slot j = s.slot j := fun j hj => State.slot_modSlot_other _ _ hj
    have hf := Standing.freeze (s.restoreContext g) g (f := ⟨0x13, 0, detail⟩) rfl
    refine ⟨hf.quarantined, fun j h => ?_, fun j h k => ?_⟩
    · by_cases hj : j = g
      · rw [hj, hs.1]
        decide
      · exact hf.task j (by rwa [hr j hj])
    · by_cases hj : j = g
      · rw [hj]
        exact hs
      · exact hf.stopped j (by rwa [hr j hj]) (by rwa [hr j hj])
  · exact Standing.freeze s g rfl

/-- Slot `4 c + k` of a core under suspicion, unless it is the one whose block was judged. -/
def State.sigFreezeBeside (c g : Nat) (detail : W64) (s : State) (k : Nat) : State :=
  if 4 * c + k = g then s else s.sigFreeze (4 * c + k) detail

theorem State.quarantineCore_eq (s : State) (c g : Nat) (detail : W64) : s.quarantineCore c g detail =
    (List.range 4).foldl (State.sigFreezeBeside c g detail) (s.modCore c fun k => { k with quarantined := true }) := rfl

theorem Standing.sigFreezeBeside (s : State) (c g : Nat) (detail : W64) (k : Nat) : Standing s (s.sigFreezeBeside c g detail k) := by
  unfold State.sigFreezeBeside
  split
  · exact refl s
  · exact sigFreeze ..

theorem foldl_sigFreezeBeside (c g : Nat) (detail : W64) : ∀ (l : List Nat) (s : State),
    Standing s (l.foldl (State.sigFreezeBeside c g detail) s) ∧
    ∀ k ∈ l, 4 * c + k ≠ g → (s.slot (4 * c + k)).state ≠ .empty →
      ((l.foldl (State.sigFreezeBeside c g detail) s).slot (4 * c + k)).state = .frozen
  | [], s => ⟨.refl s, fun k hk => absurd hk List.not_mem_nil⟩
  | i :: l, s => by
    obtain ⟨hl, hf⟩ := foldl_sigFreezeBeside c g detail l (s.sigFreezeBeside c g detail i)
    have hi := Standing.sigFreezeBeside s c g detail i
    refine ⟨hi.trans hl, fun k hk hg h => ?_⟩
    rcases List.mem_cons.mp hk with rfl | hk
    · have hs : s.sigFreezeBeside c g detail k = s.sigFreeze (4 * c + k) detail := if_neg hg
      obtain ⟨h1, h2⟩ := State.sigFreeze_stopped detail h
      rw [← hs] at h1 h2
      exact (hl.stopped _ h1 h2).1
    · exact hf k hk hg (hi.task _ h)

theorem State.askKill_killing (s : State) (k : BitVec 16 × Nat × W64) : (s.askKill k).killing.isSome = true := by
  unfold State.askKill
  split
  · next h => exact h
  · rfl

theorem State.askKill_frame (s : State) (k : BitVec 16 × Nat × W64) : (s.askKill k).slots = s.slots ∧ (s.askKill k).cores = s.cores := by
  unfold State.askKill
  split
  · exact ⟨rfl, rfl⟩
  · exact ⟨rfl, rfl⟩

/-- The state of a mismatch before the kill is asked for. -/
def State.suspected (s : State) (g : Nat) (detail : W64) : State := (s.sigFreeze g detail).quarantineCore (coreOf g) g detail

theorem State.mismatch_core (s : State) {g : Nat} (ctx : BitVec 16) (h : (s.slot g).state ≠ .empty) :
    let d := unitDetail (clusterOf (coreOf g)) (coreOf g) 0
    s.mismatch g 0 ctx = if (s.slot g).ctx = 0 then s.suspected g d else (s.suspected g d).askKill ((s.slot g).ctx, 2, d) := by
  intro d
  unfold State.mismatch
  dsimp only
  rw [if_neg h]
  rfl

/-- A core under suspicion: the slot stopped, the core quarantined, its other tasks frozen. -/
theorem State.suspected_stops (s : State) {g : Nat} (detail : W64) (h : (s.slot g).state ≠ .empty) :
    ((s.suspected g detail).slot g).state = .frozen ∧ ((s.suspected g detail).slot g).lastCause = 0x13 ∧
    ((s.suspected g detail).core (coreOf g)).quarantined = true ∧
    ∀ k, k < 4 → (s.slot (4 * coreOf g + k)).state ≠ .empty → ((s.suspected g detail).slot (4 * coreOf g + k)).state = .frozen := by
  obtain ⟨h1, h2⟩ := State.sigFreeze_stopped detail h
  obtain ⟨hst, hbeside⟩ := foldl_sigFreezeBeside (coreOf g) g detail (List.range 4)
    ((s.sigFreeze g detail).modCore (coreOf g) fun k => { k with quarantined := true })
  rw [← State.quarantineCore_eq] at hst hbeside
  obtain ⟨hs, hc⟩ := hst.stopped g h1 h2
  refine ⟨hs, hc, (hst.quarantined _).trans ?_, fun k hk hne => ?_⟩
  · rw [State.core_modCore, if_pos rfl]
  · by_cases hg : 4 * coreOf g + k = g
    · rw [hg]
      exact hs
    · exact hbeside k (List.mem_range.mpr hk) hg ((Standing.sigFreeze s g detail).task _ hne)

theorem State.mismatch_stops (s : State) {g : Nat} (ctx : BitVec 16) (h : (s.slot g).state ≠ .empty) :
    let t := s.mismatch g 0 ctx
    (t.slot g).state = .frozen ∧ (t.slot g).lastCause = 0x13 ∧ (t.core (coreOf g)).quarantined = true ∧
    (∀ k, k < 4 → (s.slot (4 * coreOf g + k)).state ≠ .empty → (t.slot (4 * coreOf g + k)).state = .frozen) ∧
    ((s.slot g).ctx ≠ 0 → t.killing.isSome = true) := by
  intro t
  have ht : t = _ := State.mismatch_core s ctx h
  have hs := State.suspected_stops s (unitDetail (clusterOf (coreOf g)) (coreOf g) 0) h
  obtain ⟨h1, h2, h3, h4⟩ := hs
  by_cases hc : (s.slot g).ctx = 0
  · rw [ht, if_pos hc]
    exact ⟨h1, h2, h3, h4, fun hn => absurd hc hn⟩
  · rw [ht, if_neg hc]
    obtain ⟨hsl, hco⟩ := State.askKill_frame (s.suspected g (unitDetail (clusterOf (coreOf g)) (coreOf g) 0))
      ((s.slot g).ctx, 2, unitDetail (clusterOf (coreOf g)) (coreOf g) 0)
    have hslot : ∀ j, (State.askKill _ _).slot j = _ := fun j => congrArg (fun l : Tab Slot => l.get Slot.reset j) hsl
    have hcore : ∀ j, (State.askKill _ _).core j = _ := fun j => congrArg (fun l : Tab Core => l.get Core.reset j) hco
    rw [hslot, hcore]
    exact ⟨h1, h2, h3, fun k hk hne => by rw [hslot]; exact h4 k hk hne, fun _ => State.askKill_killing ..⟩

/-! Blocks under a signature (R341, R342) -/

section
variable {s u : State} {g text len table e : Nat} {r : SigRun} (w : W32)

/-- Whether a word is a JR, which leaves no predecessor. -/
def isJr (w : W32) : Bool := match decode w with | .ok (.jr _) => true | _ => false

/-- A block's check after a word of it has begun. -/
def SigRun.after (r : SigRun) (w : W32) : SigRun := { r with left := r.left - 1, fold := foldItem r.fold (depItem w), jr := isJr w }

/-- Whether the block that was left is known and no predecessor of entry `e`. -/
def unlisted (prev : Option Nat) (e : Nat) : Bool := match prev with
  | some a => fld e 48 1 == 0 && decide (fld e 49 3 ≤ 4) && ! (List.range (fld e 49 3)).any fun i => fld e (128 + 32 * i) 32 == a
  | none => false

theorem unlisted_iff (prev : Option Nat) (e : Nat) : unlisted prev e = true ↔ ∃ a, prev = some a ∧ e / 2 ^ 48 % 2 = 0 ∧ e / 2 ^ 49 % 2 ^ 3 ≤ 4 ∧
    ∀ k, k < e / 2 ^ 49 % 2 ^ 3 → e / 2 ^ (128 + 32 * k) % 2 ^ 32 ≠ a := by
  cases prev with
  | none => simp [unlisted]
  | some a =>
    have hk : decide (fld e 49 3 ≤ 4) = true ↔ fld e 49 3 ≤ 4 := decide_eq_true_iff
    simp only [unlisted, Bool.and_eq_true, hk]
    simp [fld, and_assoc]

theorem State.sigStart_within (h : s.sigWindow (dieOf (coreOf g)) (s.slot g).ctx (s.slot g).pc = some (text, len, table))
    (hr : (s.slot g).sig = some r) : s.sigStart g w = .ok (s.modSlot g fun x => { x with sig := some (r.after w) }) := by
  unfold State.sigStart
  simp only [h, hr]
  rfl

theorem State.sigStart_enters (h : s.sigWindow (dieOf (coreOf g)) (s.slot g).ctx (s.slot g).pc = some (text, len, table))
    (hr : (s.slot g).sig = none)
    (he : s.checkEntry (clusterOf (coreOf g)) (s.slot g).ctx table ((s.slot g).pc.toNat - text) 0 (len / 4 + 1) = .ok (u, some e))
    (hoff : fld e 0 32 = (s.slot g).pc.toNat - text) :
    s.sigStart g w = .ok (u.modSlot g fun x => { x with
      sig := some (SigRun.after ⟨(s.slot g).ctx, (s.slot g).pc.toNat - text, fld e 32 16, BitVec.ofNat 32 (fld e 64 32), BitVec.ofNat 32 (fld e 96 32),
        unlisted (s.slot g).prevBlock e, false⟩ w) }) := by
  unfold State.sigStart
  simp only [h, hr, he, hoff, ne_eq, not_true_eq_false, if_false]
  rfl

/-- A block that has ended, judged. -/
theorem State.sigEnd_judged (h : (s.slot g).sig = some r) (hl : r.left = 0) (hb : (s.slot g).begun = false) :
    let t := s.modSlot g fun x => { x with sig := none, prevBlock := if r.jr then none else some r.start }
    s.sigEnd g = if r.bad ∨ r.fold ≠ r.want then t.mismatch g 0 r.ctx else t := by
  intro t
  unfold State.sigEnd
  simp only [h, hl, hb]
  rfl
end

theorem ofNat_fld (e lo : Nat) : BitVec.ofNat 32 (fld e lo 32) = BitVec.ofNat 32 (e / 2 ^ lo) :=
  BitVec.eq_of_toNat_eq (by simp [fld])

end Sys2Proof.Machine
end

section
open Sys2Proof Sys2Proof.Machine Sys2Proof.Claims

theorem blocksJudged_holds : blocksJudged := by
  intro s g _ x c item
  refine ⟨fun w r place hp hr => ?_, fun w text len table u e hp hr he hoff => ?_, fun r hr hl hb => ?_⟩
  · obtain ⟨text, len, table⟩ := place
    refine ⟨_, r.after w, State.sigStart_within w hp hr, State.modSlot_mem .., ?_, rfl, rfl, rfl, rfl, rfl⟩
    rw [State.slot_modSlot_self]
  · refine ⟨_, _, State.sigStart_enters w hp hr he ((fld_zero ..).trans hoff), congrArg Slot.sig (State.slot_modSlot_self ..), rfl, ?_,
      ofNat_fld e 96, unlisted_iff x.prevBlock e⟩
    exact congrArg (fun f => item f w) (ofNat_fld e 64)
  · intro t
    have ht : t = _ := State.sigEnd_judged hr hl hb
    have hx := State.slot_modSlot_self s g fun x => { x with sig := none, prevBlock := if r.jr then none else some r.start }
    have hother : ∀ j, ((s.modSlot g fun x => { x with sig := none, prevBlock := if r.jr then none else some r.start }).slot j).state =
        (s.slot j).state := fun j => by
      rw [State.slot_modSlot]
      split
      · next hj => rw [hj]
      · rfl
    refine ⟨fun hgood hfold => ?_, fun hbad hne => ?_⟩
    · rw [ht, if_neg (by simp [hgood, hfold]), hx]
      exact ⟨rfl, State.modSlot_mem .., rfl⟩
    · rw [ht, if_pos hbad]
      obtain ⟨h1, h2, h3, h4, h5⟩ := State.mismatch_stops _ r.ctx ((hother g).trans_ne hne)
      exact ⟨h1, h2, h3, fun k hk hk' => h4 k hk ((hother _).trans_ne hk'), fun _ hctx => h5 (by rw [hx]; exact hctx)⟩
end

section
/-! SUPPORT. The save of a window leaves the rest of its slot (R178, R179). -/
namespace Sys2Proof.Machine

/-! What the save of a window leaves of the slots (R178, R179) -/

/-- An access that leaves the state `st a`, or ends with a fault, changes no slot that is not HELD. -/
def Got.spares {α : Type} (s : State) (st : α → State) : Got α → Prop
  | .ok a => SlotsKept s (st a)
  | .bad t _ => SlotsKept s t
  | .wait _ => True

theorem Got.spares_global (s : State) (cl n type : Nat) (ctx : BitVec 16) (ea : W64) (kind : Kind) :
    Got.spares s Prod.fst (s.global cl ctx ea n kind type) := by
  have k := Got.kept_global s cl n type ctx ea kind
  revert k
  cases s.global cl ctx ea n kind type with
  | ok a => exact id
  | bad t f => exact id
  | wait h => exact id

theorem SlotsKept.modQueue (s : State) (c : Nat) (eng : Eng) (f : Queue → Queue) : SlotsKept s (s.modQueue c eng f) := .of_eq rfl rfl

theorem SlotsKept.leave (s : State) (c : Nat) (eng : Eng) (rel : Bool) : SlotsKept s (s.leave c eng rel) := by
  unfold State.leave
  split
  · exact .refl s
  · exact (SlotsKept.write ..).trans (.modQueue ..)

theorem SlotsKept.clearErr (s : State) (g : Nat) (eng : Eng) : SlotsKept s (s.clearErr g eng) := by
  unfold State.clearErr
  dsimp only
  generalize pageKey g _ = k
  split
  · exact .refl s
  · split
    · split
      · exact .write ..
      · split
        · exact (SlotsKept.write ..).trans (.leave ..)
        · exact (SlotsKept.write ..).trans (.modQueue ..)
    · exact .write ..

theorem SlotsKept.writeLocal (s : State) (ctx : BitVec 16) (ea : W64) (n v : Nat) (ri : List RelInfo) : SlotsKept s (s.writeLocal ctx ea n v ri) := by
  unfold State.writeLocal
  dsimp only
  split
  · exact .write ..
  · split
    · split
      · exact .clearErr ..
      · exact .refl s
    · split
      · exact .clearErr ..
      · exact .refl s
    · exact (SlotsKept.write ..).trans (.write ..)
    · exact .refl s

theorem SlotsKept.guarded (s : State) (g : Nat) (ea : W64) (n kind : Nat) : SlotsKept s (s.guarded g ea n kind) := by
  unfold State.guarded
  dsimp only
  split
  · exact .of_eq rfl rfl
  · exact .refl s

theorem SlotsKept.fillPeer (s : State) (key : Nat) : SlotsKept s (s.fillPeer key) := by
  unfold State.fillPeer
  refine (SlotsKept.of_eq rfl rfl : SlotsKept s { s with poison := s.poison.set 0 (key / 64) 0 }).trans ?_
  generalize ({ s with poison := s.poison.set 0 (key / 64) 0 } : State) = u
  refine foldl_keeps (SlotsKept u) _ (fun t i ht => ht.trans ?_) _ _ (.refl u)
  exact .of_eq rfl rfl

theorem SlotsKept.peerLine (s : State) (key : Nat) (o : BitVec 8) : SlotsKept s (s.peerLine key o) := by
  unfold State.peerLine
  dsimp only
  split
  · exact (SlotsKept.fillPeer s key).trans (.of_eq rfl rfl)
  · exact .fillPeer s key

theorem Got.spares_atPeer (s : State) (d id : Nat) (ctx : BitVec 16) (ea : W64) (kind : Kind) (o : BitVec 8) :
    Got.spares s Prod.fst (s.atPeer d id ctx ea kind o) := by
  unfold State.atPeer
  dsimp only
  split
  · exact .refl s
  · split
    · split
      · exact .refl s
      · split
        · show SlotsKept s (if _ then _ else _)
          split
          · exact .of_eq rfl rfl
          · exact .refl s
        · split
          · exact .refl s
          · exact (SlotsKept.peerLine ..).trans (.of_eq rfl rfl)
    · split
      · exact .refl s
      · exact .peerLine ..

theorem Got.spares_access (s : State) (g n type : Nat) (ctx : BitVec 16) (desc : Tab (BitVec 128)) (ea : W64) :
    Got.spares s Prod.fst (s.access g ctx desc ea n .write type) := by
  have hfree : SlotsKept s s.free.2 := .of_eq rfl rfl
  unfold State.access
  dsimp only
  split
  · exact .refl s
  · split
    · split
      · exact .refl s
      · split
        · trivial
        · exact .refl s
    · split
      · exact Got.spares_global ..
      · trivial
    · split
      · exact .refl s
      · split
        · trivial
        · exact .refl s
    · split
      · trivial
      · exact Got.spares_atPeer s.free.2 ..
    · exact .refl s

theorem Got.spares_writeAt (s : State) (g n v : Nat) (ea : W64) : Got.spares s id (s.writeAt g ea n v) := by
  unfold State.writeAt
  dsimp only
  have k := Got.spares_access s g n 1 (s.slot g).ctx (s.slot g).descs ea
  split
  · next h =>
    rw [h] at k
    split
    · split
      · exact k.trans ((SlotsKept.writeLocal ..).trans (.guarded ..))
      · exact k
    · exact k.trans (.write ..)
  · next h => rw [h] at k; exact k
  · trivial

theorem Got.spares_word8 (s : State) (g : Nat) (ea v : W64) : Got.spares s Prod.fst (s.word8 g ea (some v)) := by
  unfold State.word8
  have k := Got.spares_writeAt s g 8 v.toNat ea
  dsimp only
  split
  · exact .refl s
  · split
    · next h => rw [h] at k; exact k
    · next h => rw [h] at k; exact k
    · trivial

theorem SlotsKept.storeRun (s : State) (g : Nat) (ea : W64) (f : Nat → W64) : ∀ n, SlotsKept s (s.storeRun g ea f n).1
  | 0 => .refl s
  | n + 1 => by
    have k := SlotsKept.storeRun s g ea f n
    unfold State.storeRun
    split
    · next u _ h =>
      rw [h] at k
      have w := Got.spares_word8 u g (ea + w64 (8 * n)) (f n)
      split
      · next h' => rw [h'] at w; exact k.trans w
      · next h' => rw [h'] at w; exact k.trans w
      · exact k
    · exact k

/-- Slot `g` has changed in no more than its frame pointer and the entries that its window holds. -/
def Saved (g : Nat) (s t : State) : Prop := t.cur = s.cur ∧ t.slot g = { s.slot g with fsp := (t.slot g).fsp, res := (t.slot g).res }

namespace Saved
variable {g : Nat} {s t u : State}

theorem refl (g : Nat) (s : State) : Saved g s s := ⟨rfl, rfl⟩

theorem trans (h : Saved g s t) (k : Saved g t u) : Saved g s u := by
  obtain ⟨h1, h2⟩ := h
  obtain ⟨k1, k2⟩ := k
  refine ⟨k1.trans h1, ?_⟩
  rw [h2] at k2
  exact k2

theorem state (h : Saved g s t) : (t.slot g).state = (s.slot g).state := by rw [h.2]

theorem of_kept (h : SlotsKept s t) (hs : (s.slot g).state ≠ .held) : Saved g s t := by
  refine ⟨h.1, ?_⟩
  rw [h.2 g hs]

theorem modSlot (h : Saved g s t) (f : Slot → W64) (r : Slot → BitVec 7) :
    Saved g s (t.modSlot g fun y => { y with fsp := f y, res := r y }) := by
  refine ⟨h.1, ?_⟩
  rw [State.slot_modSlot_self, h.2]

theorem storeRun (h : Saved g s t) (hs : (s.slot g).state ≠ .held) (ea : W64) (f : Nat → W64) (n : Nat) : Saved g s (t.storeRun g ea f n).1 :=
  h.trans (of_kept (.storeRun t g ea f n) (h.state ▸ hs))

theorem spill (hs : (s.slot g).state ≠ .held) (n : Nat) : Saved g s (s.spill g n).1 := by
  unfold State.spill
  dsimp only
  have k := (refl g s).storeRun hs (s.slot g).fsp (fun i => (s.slot g).win.get 0 (((s.slot g).wb.toNat + 128 - (s.slot g).res.toNat + i) % 128)) n
  split
  · exact .refl g s
  · split
    · exact .refl g s
    · split
      · next h =>
        rw [h] at k
        exact k.modSlot (fun x => x.fsp + w64 (8 * n)) fun x => x.res - BitVec.ofNat 7 n
      · exact k

/-- The save of R179 leaves the rest of a slot that is not HELD as it is. -/
theorem saveWindow (hs : (s.slot g).state ≠ .held) : Saved g s (s.saveWindow g).1 := by
  unfold State.saveWindow
  dsimp only
  have k := spill hs (s.slot g).res.toNat
  split
  · exact .refl g s
  · split
    · next u _ h =>
      rw [h] at k
      have r := k.storeRun hs (u.slot g).fsp (fun i => (s.slot g).s (BitVec.ofNat 5 (12 + i))) 20
      split
      · next v _ h' =>
        rw [h'] at r
        have r' := r.modSlot (fun _ => (u.slot g).fsp + 160) Slot.res
        split
        · exact r'
        · have q := r'.storeRun hs ((u.slot g).fsp + 160) (fun i => w64 (fld (s.slot g).name.toNat (64 * i) 64)) 2
          split
          · next h'' => rw [h''] at q; exact q
          · next h'' => rw [h''] at q; exact q.modSlot (fun _ => (s.slot g).fsp) fun _ => (s.slot g).res
      · next h' => rw [h'] at r; exact r.modSlot (fun _ => (s.slot g).fsp) fun _ => (s.slot g).res
    · next h => rw [h] at k; exact k.modSlot (fun _ => (s.slot g).fsp) fun _ => (s.slot g).res

end Saved

end Sys2Proof.Machine
end

section
/-! SUPPORT. Feature migration: the segment abandoned, the placement, the stitch (R26, R253, R261). -/
namespace Sys2Proof.Machine

/-! A word that its core lacks the features for (R24, R26) -/

section
variable {s : State} {i : Instr} {need : Nat}

theorem vecWord_needs (bits w : Nat) (d : BitVec 4) (mk : BitVec 2) (f : Slot → Nat → Nat) (s : State) :
    ∃ k, vecWord bits w d mk f s = s.needs bits k := ⟨_, rfl⟩

theorem execVfdiv_needs (d a b : BitVec 4) (et : Et) (mk : BitVec 2) (s : State) : ∃ k, execVfdiv d a b et mk s = s.needs (etFeat et + 8) k := by
  unfold execVfdiv vxf
  exact vecWord_needs ..

theorem execVcvt_needs (d a : BitVec 4) (dt et : Et) (rm : BitVec 2) (s : State) : ∃ k, execVcvt d a dt et rm s = s.needs (etFeat et ||| etFeat dt) k :=
  ⟨_, rfl⟩

theorem execVadd_needs (d a b : BitVec 4) (tw : BitVec 12) (mk : BitVec 2) (s : State) : ∃ k, execVadd d a b tw mk s = s.needs 1 k := by
  unfold execVadd vGroup
  exact vecWord_needs ..

theorem execVsread_needs (d : BitVec 4) (q : BitVec 2) (s : State) : ∃ k, execVsread d q s = s.needs 1 k := ⟨_, rfl⟩
theorem execCmdq_needs (vs : BitVec 4) (n chk : BitVec 1) (s : State) : ∃ k, execCmdq vs .matrix n chk s = s.needs 16 k := ⟨_, rfl⟩
theorem execChld_needs (vs : BitVec 4) (s : State) : ∃ k, execChld vs s = s.needs 32 k := ⟨_, rfl⟩
theorem execTokacq_needs (d a : BitVec 5) (s : State) : ∃ k, execTokacq d a s = s.needs 64 k := ⟨_, rfl⟩
theorem execTokrel_needs (d a : BitVec 5) (s : State) : ∃ k, execTokrel d a s = s.needs 64 k := ⟨_, rfl⟩

theorem exec_of_requires (h : Claims.requires i need) (s : State) : ∃ k, exec i s = s.needs need k := by
  rcases h with ⟨d, a, b, tw, mk, rfl, rfl⟩ | ⟨d, q, rfl, rfl⟩ | ⟨d, a, b, mk, h⟩ | ⟨d, a, rm, h⟩ | ⟨vs, n, chk, rfl, rfl⟩ | ⟨vs, rfl, rfl⟩ |
    ⟨d, a, h, rfl⟩
  · exact execVadd_needs d a b tw mk s
  · exact execVsread_needs d q s
  · rcases h with ⟨rfl, rfl⟩ | ⟨rfl, rfl⟩ | ⟨rfl, rfl⟩
    · exact execVfdiv_needs d a b .fp32 mk s
    · exact execVfdiv_needs d a b .fp16 mk s
    · exact execVfdiv_needs d a b .bf16 mk s
  · rcases h with ⟨rfl, rfl⟩ | ⟨rfl, rfl⟩
    · exact execVcvt_needs d a .fp32 .i8 rm s
    · exact execVcvt_needs d a .fp16 .fp32 rm s
  · exact execCmdq_needs vs n chk s
  · exact execChld_needs vs s
  · rcases h with rfl | rfl
    · exact execTokacq_needs d a s
    · exact execTokrel_needs d a s

/-- The feature bits of R26 lie in a byte. -/
theorem requires_lt (h : Claims.requires i need) : need < 256 := by
  rcases h with ⟨_, _, _, _, _, -, rfl⟩ | ⟨_, _, -, rfl⟩ | ⟨_, _, _, _, ⟨-, rfl⟩ | ⟨-, rfl⟩ | ⟨-, rfl⟩⟩ | ⟨_, _, _, ⟨-, rfl⟩ | ⟨-, rfl⟩⟩ |
    ⟨_, _, _, -, rfl⟩ | ⟨_, -, rfl⟩ | ⟨_, _, -, rfl⟩
  all_goals decide

theorem exec_migrates (h : Claims.requires i need) (hl : maskHas (s.coreFeat (coreOf s.cur)) need = false) : exec i s = s.migrate need := by
  obtain ⟨k, hk⟩ := exec_of_requires h s
  rw [hk, State.needs, if_neg (by simp [hl])]
end

/-! The task made ready to leave (R261) -/

/-- The mask of a task with the bits that core `c` lacks. -/
def State.wantFeat (s : State) (bits : Nat) : Nat := s.me.feat.toNat ||| (bits - (bits &&& s.coreFeat (coreOf s.cur)))

/-- The running slot's segment abandoned, write-through mode left, the missing bits in its mask. -/
def State.setOff (s : State) (bits : Nat) : State :=
  (((s.abandon s.cur).modMe fun x => { x with sent := 0 }).commitDone s.cur).modMe fun x =>
    { x with feat := BitVec.ofNat 32 (x.feat.toNat ||| (bits - (bits &&& s.coreFeat (coreOf s.cur)))) }

section
variable (s : State) (bits : Nat)

theorem State.wantFeat_toNat {bits : Nat} (h : bits < 256) : (BitVec.ofNat 32 (s.wantFeat bits)).toNat = s.wantFeat bits := by
  have hlt : s.wantFeat bits < 2 ^ 32 := Nat.or_lt_two_pow s.me.feat.isLt (lt_of_le_of_lt (Nat.sub_le ..) (h.trans (by norm_num)))
  exact (BitVec.toNat_ofNat ..).trans (Nat.mod_eq_of_lt hlt)

theorem State.abandon_frame (g : Nat) : (s.abandon g).cur = s.cur ∧ (s.abandon g).mem = s.mem ∧ (s.abandon g).clusters = s.clusters ∧
    (s.abandon g).cores = s.cores ∧ (s.abandon g).chains = s.chains.filter fun c => ¬ (c.g == g && c.seg == (s.slot g).seg) := by
  unfold State.abandon State.dropChains
  exact ⟨rfl, rfl, rfl, rfl, rfl⟩

theorem State.commitDone_frame (g : Nat) : (s.commitDone g).cur = s.cur ∧ (s.commitDone g).mem = s.mem ∧ (s.commitDone g).clusters = s.clusters ∧
    (s.commitDone g).chains = s.chains := by
  unfold State.commitDone
  exact ⟨rfl, rfl, rfl, rfl⟩

theorem State.setOff_frame : (s.setOff bits).cur = s.cur ∧ (s.setOff bits).mem = s.mem ∧ (s.setOff bits).clusters = s.clusters ∧
    (s.setOff bits).chains = s.chains.filter fun c => ¬ (c.g == s.cur && c.seg == s.me.seg) := by
  obtain ⟨h1, h2, h3, -, h4⟩ := s.abandon_frame s.cur
  obtain ⟨k1, k2, k3, k4⟩ := ((s.abandon s.cur).modMe fun x => { x with sent := 0 }).commitDone_frame s.cur
  exact ⟨(State.modMe_cur ..).trans (k1.trans ((State.modMe_cur ..).trans h1)), (State.modMe_mem ..).trans (k2.trans ((State.modMe_mem ..).trans h2)),
    (State.modMe_clusters ..).trans (k3.trans ((State.modMe_clusters ..).trans h3)),
    (State.modMe_chains ..).trans (k4.trans ((State.modMe_chains ..).trans h4))⟩

/-- The slot of a segment abandoned and a commit done. -/
theorem State.commitDone_abandon_slot : let x := s.me
    (((s.abandon s.cur).modMe fun x => { x with sent := 0 }).commitDone s.cur).slot s.cur = { x with
      q := ((s.dropChains s.cur).slot s.cur).q, buf := [], pc := x.rstpc, await := .none, mode := .none, seg := x.seg + 1 + 1, begun := false,
      stamped := false, sig := none, prevBlock := none, through := false, prest := if x.psince then x.prest else 0, psince := false, sent := 0 } := by
  intro x
  have h : ((s.abandon s.cur).modMe fun x => { x with sent := 0 }).slot s.cur = { (s.abandon s.cur).slot s.cur with sent := 0 } :=
    State.slot_modSlot_self ..
  unfold State.commitDone
  dsimp only
  rw [State.slot_modSlot_self, State.trace_slot, h, State.abandon_slot]
  rfl

theorem State.setOff_me : let x := s.me
    (s.setOff bits).me = { x with
      q := ((s.dropChains s.cur).slot s.cur).q, buf := [], pc := x.rstpc, await := .none, mode := .none, seg := x.seg + 1 + 1, begun := false,
      stamped := false, sig := none, prevBlock := none, through := false, prest := if x.psince then x.prest else 0, psince := false, sent := 0,
      feat := BitVec.ofNat 32 (s.wantFeat bits) } := by
  intro x
  have hc : (((s.abandon s.cur).modMe fun x => { x with sent := 0 }).commitDone s.cur).cur = s.cur :=
    (State.commitDone_frame ..).1.trans ((State.modMe_cur ..).trans (s.abandon_frame s.cur).1)
  unfold State.setOff
  rw [State.me_modMe, State.me, hc, s.commitDone_abandon_slot]
  rfl

/-- The cores but for their traces, and so their features. -/
theorem State.setOff_core (c : Nat) : ((s.setOff bits).core c).feat = (s.core c).feat ∧
    ((s.setOff bits).core c).quarantined = (s.core c).quarantined := by
  have ha : ∀ c, (s.abandon s.cur).core c = s.core c := fun c => congrArg (fun l : Tab Core => l.get Core.reset c) (s.abandon_frame s.cur).2.2.2.1
  unfold State.setOff State.commitDone
  dsimp only
  rw [State.modMe_core, State.modSlot_core]
  unfold State.trace
  rw [State.core_modCore, State.modMe_core, State.modMe_core, ha, ha]
  split
  · next hc =>
    rw [hc]
    exact ⟨rfl, rfl⟩
  · exact ⟨rfl, rfl⟩

theorem State.setOff_cluster (k : Nat) : (s.setOff bits).cluster k = s.cluster k :=
  congrArg (fun l : Tab Cluster => l.get Cluster.reset k) (s.setOff_frame bits).2.2.1

theorem State.setOff_coreFeat (c : Nat) : (s.setOff bits).coreFeat c = s.coreFeat c := by
  unfold State.coreFeat
  rw [(s.setOff_core bits c).1, State.setOff_cluster]

theorem State.setOff_enabled (c : Nat) : (s.setOff bits).enabled c = s.enabled c := by
  unfold State.enabled
  rw [(s.setOff_core bits c).2, State.setOff_cluster]
end

theorem anyFrom_iff (p : Nat → Bool) : ∀ n i, anyFrom p n i = true ↔ ∃ k, i ≤ k ∧ k < i + n ∧ p k = true
  | 0, i => by simp [anyFrom]; omega
  | n + 1, i => by
    rw [anyFrom, Bool.or_eq_true, anyFrom_iff p n (i + 1)]
    constructor
    · rintro (h | ⟨k, h1, h2, h⟩)
      · exact ⟨i, le_refl i, by omega, h⟩
      · exact ⟨k, by omega, by omega, h⟩
    · rintro ⟨k, h1, h2, h⟩
      rcases Nat.eq_or_lt_of_le h1 with rfl | h1
      · exact .inl h
      · exact .inr ⟨k, h1, by omega, h⟩

theorem State.placeable_iff (s : State) (sc cl c : Nat) (frame : W64) (feat : Nat) : s.placeable sc cl c frame feat = true ↔
    ∃ k, k < Config.cores ∧ inPlace sc cl c k = true ∧ frameAllows frame k = true ∧ s.enabled k = true ∧ maskHas (s.coreFeat k) feat = true := by
  unfold State.placeable
  rw [anyFrom_iff]
  simp [and_assoc]

/-! The suspension (R253, R254) -/

/-- The task joins the ready list of the cluster of core `c`, its slot EMPTY from then on. -/
def State.rejoin (was : State) (c : Nat) (s : State) : Ans :=
  .next ((s.ready (clusterOf c) (s.stitch s.cur s.me.pc 0) c s.me.obs s.me.seen s.me.fence).vacateAt s.cur (was.me.pc + 4))

theorem State.guardGate_open {s : State} (k : State → Ans) (hg : s.me.guard = none) (hm : s.me.mode = .none) (hn : ∀ n ∈ s.notes, n.g ≠ s.cur)
    (hs : s.storing s.cur = false) : s.guardGate k = k s := by
  have h : (s.notes.any fun n => n.g == s.cur) = false := by simpa using hn
  simp [State.guardGate, hg, hm, h, hs]

section
variable {s : State} {bits : Nat} (hg : s.me.guard = none) (hm : s.me.mode = .none) (hn : ∀ n ∈ s.notes, n.g ≠ s.cur)
  (hs : s.storing s.cur = false) (hc : ∀ k ∈ s.chains, k.g ≠ s.cur)
include hg hm hn hs hc

theorem State.migrate_eq : s.migrate bits =
    if (s.setOff bits).me.fsp = 0 ∨ ¬ (s.setOff bits).placeable (fld (s.setOff bits).me.place.toNat 0 3) (clusterOf (coreOf s.cur))
      (coreOf s.cur) (rewrite (coreOf s.cur) (s.setOff bits).me.fsp) (s.setOff bits).me.feat.toNat
    then .next ((s.setOff bits).freeze (s.setOff bits).cur ⟨0x0E, 0, BitVec.zeroExtend 64 (s.setOff bits).me.feat⟩)
    else s.suspendFrom (s.setOff bits) (s.rejoin (coreOf s.cur)) := by
  have h : (s.chains.any fun c => c.g == s.cur && c.seg != s.me.seg) = false := by
    simpa using fun k hk hkc => absurd hkc (hc k hk)
  unfold State.migrate
  rw [State.guardGate_open _ hg hm hn hs, if_neg (by simp [hs]), if_neg (by simp [h])]
  rfl

omit hg hm hn hs in
theorem State.setOff_chainsOf : (s.setOff bits).chainsOf (s.setOff bits).cur = 0 := by
  unfold State.chainsOf
  rw [(s.setOff_frame bits).2.2.2, (s.setOff_frame bits).1, List.length_eq_zero_iff, List.filter_eq_nil_iff]
  intro k hk
  simpa using hc k (List.mem_filter.mp hk).1
end

section
variable {s t u : State} {k : State → Ans} (hc : t.chainsOf t.cur = 0)
include hc

theorem State.suspendFrom_saved (h : (t.modMe Slot.endCpys).saveWindow t.cur = (u, .ok ())) : s.suspendFrom t k = k u := by
  unfold State.suspendFrom
  rw [if_neg (by simp [hc])]
  dsimp only
  rw [State.modMe_cur, h]

theorem State.suspendFrom_failed {f : FaultInfo} (h : (t.modMe Slot.endCpys).saveWindow t.cur = (u, .bad f))
    (he : s.evictWaits s.cur f = false) : s.suspendFrom t k = .next (u.wordFault u.cur f) := by
  unfold State.suspendFrom
  rw [if_neg (by simp [hc])]
  dsimp only
  rw [State.modMe_cur, h]
  dsimp only
  rw [State.orEvict, if_neg (by simp [he])]
end

/-- The fields of a stitch. -/
theorem State.stitch_fields (s : State) (g : Nat) (pc : Pc) : let st := s.stitch g pc 0
    stPc st = pc.toNat ∧ stState st = 0 ∧ stPrio st = (s.slot g).prio.toNat ∧ stFeat st = (s.slot g).feat.toNat ∧ stCtx st = (s.slot g).ctx := by
  have hb : b2n (s.slot g).named < 2 := by unfold b2n; split <;> omega
  have h0 := pc.isLt
  have h1 := (s.slot g).prio.isLt
  have h2 := (rewrite (coreOf g) (s.slot g).fsp).isLt
  have h3 := (s.slot g).feat.isLt
  have h4 := (s.slot g).ctx.isLt
  have h5 := (s.slot g).eclass.isLt
  have h6 := (s.slot g).place.isLt
  have h7 := ((s.slot g).s 8).isLt
  have h8 := ((s.slot g).s 9).isLt
  have h9 := ((s.slot g).s 10).isLt
  have h10 := ((s.slot g).s 11).isLt
  have hctx : ∀ n, n = (s.slot g).ctx.toNat → BitVec.ofNat 16 n = (s.slot g).ctx := fun n h => by rw [h, BitVec.ofNat_toNat, BitVec.setWidth_eq]
  intro st
  suffices h : fld st.toNat 0 48 = pc.toNat ∧ fld st.toNat 48 4 = 0 ∧ fld st.toNat 52 4 = (s.slot g).prio.toNat ∧
      fld st.toNat 128 32 = (s.slot g).feat.toNat ∧ fld st.toNat 160 16 = (s.slot g).ctx.toNat by
    obtain ⟨f1, f2, f3, f4, f5⟩ := h
    exact ⟨f1, f2, f3, f4, hctx _ f5⟩
  show fld (BitVec.toNat (BitVec.ofNat 512 _)) 0 48 = _ ∧ fld (BitVec.toNat (BitVec.ofNat 512 _)) 48 4 = _ ∧ fld (BitVec.toNat (BitVec.ofNat 512 _)) 52 4 = _ ∧
    fld (BitVec.toNat (BitVec.ofNat 512 _)) 128 32 = _ ∧ fld (BitVec.toNat (BitVec.ofNat 512 _)) 160 16 = _
  rw [BitVec.toNat_ofNat]
  unfold fld
  generalize b2n (s.slot g).named = b at *
  generalize pc.toNat = x0 at *
  generalize (s.slot g).prio.toNat = x1 at *
  generalize (rewrite (coreOf g) (s.slot g).fsp).toNat = x2 at *
  generalize (s.slot g).feat.toNat = x3 at *
  generalize (s.slot g).ctx.toNat = x4 at *
  generalize (s.slot g).eclass.toNat = x5 at *
  generalize (s.slot g).place.toNat = x6 at *
  generalize ((s.slot g).s 8).toNat = x7 at *
  generalize ((s.slot g).s 9).toNat = x8 at *
  generalize ((s.slot g).s 10).toNat = x9 at *
  generalize ((s.slot g).s 11).toNat = x10 at *
  refine ⟨?_, ?_, ?_, ?_, ?_⟩ <;> omega

/-- A slot that is left, no step under way. -/
theorem State.vacateAt_still (s : State) (g : Nat) (next : Pc) (h : (s.slot g).stepping = false) :
    (s.vacateAt g next).cur = s.cur ∧ (s.vacateAt g next).mem = s.mem ∧ (s.vacateAt g next).clusters = s.clusters ∧
    ((s.vacateAt g next).slot g).state = .empty := by
  have hv : s.vacateAt g next = s.modSlot g fun x => if x.preempting then x.vacate.status 1 else x.vacate := by
    unfold State.vacateAt
    dsimp only
    rw [if_pos (by simp [h])]
  rw [hv]
  refine ⟨rfl, rfl, rfl, ?_⟩
  rw [State.slot_modSlot_self]
  split
  · rfl
  · rfl

end Sys2Proof.Machine
end

section
/-! SUPPORT. The save that waits, the task that leaves, and the fault taken. -/
namespace Sys2Proof.Machine

/-! A save that waits for an older request (R82, R178) -/

section
variable {s t : State} {g : Nat} {ea : W64} {f : Nat → W64} {ks : List Nat}

/-- A run of stores whose first word waits, waits. -/
theorem State.storeRun_waits (h : s.word8 g ea (some (f 0)) = .wait ks) : ∀ n, (s.storeRun g ea f (n + 1)).2 = .wait ks
  | 0 => by
    have h0 : ea + w64 (8 * 0) = ea := BitVec.add_zero ea
    unfold State.storeRun State.storeRun
    dsimp only
    rw [h0, h]
  | n + 1 => by
    have ih := State.storeRun_waits h n
    unfold State.storeRun
    generalize s.storeRun g ea f (n + 1) = r at ih
    obtain ⟨u, m⟩ := r
    subst ih
    rfl

/-- A write of global memory waits while an older request of the cluster to its line is on its way. -/
theorem State.word8_behind (v : W64) (ha : ea.toNat % 8 = 0) (hok : addrOk (isSup (coreOf g)) ea = true) (hc : s.canon (coreOf g) ea = ea)
    (ht : tagOf ea = 4) (hf : s.first (s.nowItem (clusterOf (coreOf g)) (s.slot g).ctx ea) = false) : s.word8 g ea (some v) = .wait [] := by
  have hacc : s.access g (s.slot g).ctx (s.slot g).descs ea 8 .write 1 = .wait [] := by
    unfold State.access
    simp [hok, hc, ht, hf]
  have hw : s.writeAt g ea 8 v.toNat = .wait [] := by
    unfold State.writeAt
    simp [hacc]
  unfold State.word8
  simp [ha, hw]
end

/-- The line of global memory at 0. -/
def zeroLine : W64 := mkAddr 4 0

/-- Slot `g` with an empty window and its frame at 0 of global memory, a load of its cluster on its way there. -/
def State.stalled (s : State) (g : Nat) : State :=
  State.modSlot { s with
    nextId := 1, loads := [⟨0, 0, g, clusterOf (coreOf g), (s.slot g).ctx, zeroLine, 8, 0, 0, .scalar 0 false, 0, false, .none, 0, false, none⟩] } g
    fun x => { x with fsp := zeroLine, fslim := zeroLine, res := 0 }

theorem State.stalled_slot (s : State) (g : Nat) : (s.stalled g).slot g = { s.slot g with fsp := zeroLine, fslim := zeroLine, res := 0 } :=
  State.slot_modSlot_self ..

theorem State.stalled_not_first {s t : State} {g : Nat} (hl : t.loads = (s.stalled g).loads) (hn : t.nextId = 1) (hc : (t.slot g).ctx = (s.slot g).ctx) :
    t.first (t.nowItem (clusterOf (coreOf g)) (t.slot g).ctx zeroLine) = false := by
  have hmem : (⟨0, clusterOf (coreOf g), (s.slot g).ctx, 0, zeroLine⟩ : Item) ∈ t.items := by
    unfold State.items
    rw [hl]
    simp [State.stalled]
  unfold State.first
  rw [Bool.and_eq_false_iff, Bool.and_eq_false_iff]
  refine .inl (.inl (List.all_eq_false.mpr ⟨_, hmem, ?_⟩))
  simp [State.nowItem, sameLine, hn, hc]

/-- A spill of no entries. -/
theorem State.spill_none {s : State} {g : Nat} (h0 : (s.slot g).fsp ≠ 0) (hl : (s.slot g).fsp.toNat ≤ (s.slot g).fslim.toNat) :
    s.spill g 0 = (s.modSlot g fun x => { x with fsp := x.fsp + w64 (8 * 0), res := x.res - BitVec.ofNat 7 0 }, .ok ()) := by
  unfold State.spill
  dsimp only
  rw [if_neg h0, if_neg (by omega)]
  rfl

/-- The save of a stalled slot waits. -/
theorem State.stalled_saveWindow (s : State) (g : Nat) : ((s.stalled g).saveWindow g).2 = .wait [] := by
  have hx := s.stalled_slot g
  have hfsp : ((s.stalled g).slot g).fsp = zeroLine := by rw [hx]
  have hres : ((s.stalled g).slot g).res.toNat = 0 := by rw [hx]; rfl
  have h0 : ((s.stalled g).slot g).fsp ≠ 0 := by rw [hfsp]; decide
  have hsp := State.spill_none h0 (by rw [hx])
  generalize hu : (s.stalled g).modSlot g (fun x => { x with fsp := x.fsp + w64 (8 * 0), res := x.res - BitVec.ofNat 7 0 }) = u at hsp
  have hslot : u.slot g = { (s.stalled g).slot g with fsp := zeroLine, res := ((s.stalled g).slot g).res - BitVec.ofNat 7 0 } := by
    rw [← hu, State.slot_modSlot_self, hx]
    rfl
  have hw : ∀ v, u.word8 g zeroLine (some v) = .wait [] := fun v => by
    refine State.word8_behind v (by decide) ?_ ?_ (by decide) (State.stalled_not_first (s := s) ?_ ?_ ?_)
    · cases isSup (coreOf g)
      · decide
      · decide
    · unfold State.canon
      rw [if_neg (by decide), if_neg (by decide), if_neg fun h => absurd h.1 (by decide)]
    · rw [← hu]
      rfl
    · rw [← hu]
      rfl
    · rw [hslot, hx]
  have hrun := State.storeRun_waits (f := fun i => ((s.stalled g).slot g).s (BitVec.ofNat 5 (12 + i))) (hw _) 19
  have hfsp' : (u.slot g).fsp = zeroLine := by rw [hslot]
  unfold State.saveWindow
  dsimp only
  rw [if_neg h0, hres, hsp]
  dsimp only
  rw [hfsp']
  generalize u.storeRun g zeroLine (fun i => ((s.stalled g).slot g).s (BitVec.ofNat 5 (12 + i))) 20 = r at hrun
  obtain ⟨v, m⟩ := r
  subst hrun
  rfl

/-! The task on its way (R253, R261) -/

/-- The state whose window is saved: the segment abandoned, the CPYS bindings ended. -/
def State.leaving (s : State) (bits : Nat) : State := (s.setOff bits).modMe Slot.endCpys

section
variable (s : State) (bits : Nat)

theorem State.leaving_cur : (s.leaving bits).cur = s.cur := (State.modMe_cur ..).trans (s.setOff_frame bits).1
theorem State.leaving_mem : (s.leaving bits).mem = s.mem := (State.modMe_mem ..).trans (s.setOff_frame bits).2.1

theorem State.leaving_slot : let x := s.me
    (s.leaving bits).slot s.cur = { x with
      q := ((s.setOff bits).me.endCpys).q, buf := [], pc := x.rstpc, await := .none, mode := .none, seg := x.seg + 1 + 1, begun := false,
      stamped := false, sig := none, prevBlock := none, through := false, prest := if x.psince then x.prest else 0, psince := false, sent := 0,
      feat := BitVec.ofNat 32 (s.wantFeat bits) } := by
  intro x
  have h : (s.leaving bits).slot s.cur = (s.setOff bits).me.endCpys := by
    have h := State.me_modMe (s.setOff bits) Slot.endCpys
    rwa [State.me, State.modMe_cur, (s.setOff_frame bits).1] at h
  rw [h]
  show ({ (s.setOff bits).me with q := _ } : Slot) = _
  rw [s.setOff_me bits]
  rfl
end

/-- The task whose window is saved joins the ready list of its cluster, at its restart point, with the mask that it wants. -/
theorem State.rejoin_joins {s u : State} {bits c : Nat} (hu : Saved s.cur (s.leaving bits) u) (hstep : s.me.stepping = false) (hb : bits < 256) :
    ∃ t r, s.rejoin c u = .next t ∧ t.mem = u.mem ∧ t.me.state = .empty ∧ (t.cluster (clusterOf c)).ready = (u.cluster (clusterOf c)).ready ++ [r] ∧
      stPc r.st = s.me.rstpc.toNat ∧ stState r.st = 0 ∧ stFeat r.st = s.wantFeat bits ∧ stCtx r.st = s.me.ctx ∧ stPrio r.st = s.me.prio.toNat ∧
      r.core = c := by
  obtain ⟨hcur, hslot⟩ := hu
  rw [s.leaving_slot bits] at hslot
  have hme : u.slot u.cur = _ := (congrArg u.slot (hcur.trans (s.leaving_cur bits))).trans hslot
  obtain ⟨f1, f2, f3, f4, f5⟩ := u.stitch_fields u.cur u.me.pc
  rw [hme] at f3 f4 f5
  obtain ⟨v1, v2, v3, v4⟩ := State.vacateAt_still (u.ready (clusterOf c) (u.stitch u.cur u.me.pc 0) c u.me.obs u.me.seen u.me.fence) u.cur (s.me.pc + 4)
    (by show (u.slot u.cur).stepping = false; rw [hme]; exact hstep)
  refine ⟨_, ⟨u.stitch u.cur u.me.pc 0, c, u.cycle, u.cycle, u.me.obs, u.me.seen, u.me.fence⟩, rfl, v2, ?_, ?_, ?_, f2, f4.trans (s.wantFeat_toNat hb),
    f5, f3, rfl⟩
  · rw [State.me, v1]
    exact v4
  · refine (congrArg (fun l : Tab Cluster => (l.get Cluster.reset (clusterOf c)).ready) v3).trans ?_
    exact congrArg Cluster.ready (State.cluster_modCluster_self ..)
  · rw [f1, State.me, hme]

end Sys2Proof.Machine
end

section
open Sys2Proof Sys2Proof.Machine Sys2Proof.Claims

/-- The state `w` whose window is saved is the one that the migration makes. A slot that is HELD has no word that runs; the statement admits
it all the same, and there the save may wake the slot, so that `w` is a state whose save waits. -/
theorem featuresMigrate_holds : featuresMigrate := by
  intro s i need hreq hlack hg hm hn hs hc hstep x c cl want able
  have hex : exec i s = _ := (exec_migrates hreq hlack).trans (State.migrate_eq hg hm hn hs hc)
  have hbits := requires_lt hreq
  have hwant : (BitVec.ofNat 32 (s.wantFeat need)).toNat = want := s.wantFeat_toNat hbits
  have hme := s.setOff_me need
  obtain ⟨hcur, hmem, -, -⟩ := s.setOff_frame need
  have hable : (s.setOff need).placeable (fld x.place.toNat 0 3) cl c (rewrite c x.fsp) want = true ↔ able := by
    rw [State.placeable_iff, fld_zero]
    simp only [State.setOff_enabled, State.setOff_coreFeat]
    rfl
  have hfsp : (s.setOff need).me.fsp = x.fsp := by rw [hme]
  have hplace : (s.setOff need).me.place = x.place := by rw [hme]
  have hfeat : (s.setOff need).me.feat.toNat = want := by rw [hme]; exact hwant
  rw [hfsp, hplace, hfeat] at hex
  refine ⟨fun h => ?_, fun h0 ha => ?_⟩
  · rw [if_pos (h.imp_right (mt hable.mp))] at hex
    have hz : BitVec.zeroExtend 64 (s.setOff need).me.feat = w64 want := by
      rw [← hfeat]
      exact (BitVec.ofNat_toNat ..).symm
    rw [hcur, hz] at hex
    refine ⟨_, hex, hmem, ?_⟩
    rw [hme]
    exact ⟨rfl, rfl, hwant, rfl, rfl⟩
  · rw [if_neg (not_or.mpr ⟨h0, not_not.mpr (hable.mpr ha)⟩)] at hex
    have hch := State.setOff_chainsOf (bits := need) hc
    have hslot := s.leaving_slot need
    by_cases hheld : x.state = .held
    · refine ⟨(s.leaving need).stalled s.cur, s.leaving_mem need, ?_⟩
      have hst := State.stalled_saveWindow (s.leaving need) s.cur
      have hsl : ((s.leaving need).stalled s.cur).me = _ := (congrArg _ (s.leaving_cur need)).trans (State.stalled_slot ..)
      rw [hsl, hslot]
      refine ⟨rfl, hwant, rfl, rfl, fun u h => ?_, fun u f h => ?_⟩
      · rw [h] at hst
        cases hst
      · rw [h] at hst
        cases hst
    · have hwme : (s.leaving need).me = _ := (congrArg _ (s.leaving_cur need)).trans hslot
      have hsaved := Saved.saveWindow (g := s.cur) (s := s.leaving need) (by rw [hslot]; exact hheld)
      refine ⟨s.leaving need, s.leaving_mem need, ?_⟩
      rw [hwme]
      refine ⟨rfl, hwant, rfl, rfl, fun u h => ?_, fun u f h he => ?_⟩
      · rw [h] at hsaved
        rw [hex, State.suspendFrom_saved hch (by rw [hcur]; exact h)]
        exact State.rejoin_joins hsaved hstep hbits
      · rw [h] at hsaved
        have hucur := hsaved.1.trans (s.leaving_cur need)
        rw [hex, State.suspendFrom_failed hch (by rw [hcur]; exact h) he, hucur]

/-- Settles O9: the packet's way to the ring, the fates of a target's fault, feature migration, the judging of blocks, and the freeze itself. -/
theorem takingAFault : Obligations.TakingAFault :=
  ⟨packetsSent_holds, targetFates_holds, featuresMigrate_holds, blocksJudged_holds, freeze_takes⟩
end

section
/-! SUPPORT. Fields of numbers, and the bytes and fields of what memory holds (R10). -/
namespace Sys2Proof.Machine

/-- A field within a field. -/
theorem fld_fld {x a b lo w : Nat} (h : lo + w ≤ b) : fld (fld x a b) lo w = fld x (a + lo) w := by
  obtain ⟨c, rfl⟩ := Nat.exists_eq_add_of_le h
  unfold fld
  rw [pow_add 2 a, ← Nat.div_div_eq_div_mul, Nat.add_assoc, pow_add, Nat.mod_mul_right_div_self, pow_add, Nat.mod_mul_right_mod]

/-- Where a number is given by its quotient and remainder, its lower fields are those of the remainder, its higher ones those of the quotient. -/
theorem fld_add_low {a b n lo w : Nat} (h : lo + w ≤ n) : fld (a + b * 2 ^ n) lo w = fld a lo w := by
  obtain ⟨c, rfl⟩ := Nat.exists_eq_add_of_le h
  have e : a + b * 2 ^ (lo + w + c) = a + 2 ^ lo * (2 ^ w * (2 ^ c * b)) := by ring
  unfold fld
  rw [e, Nat.add_mul_div_left _ _ (by positivity), Nat.add_mul_mod_self_left]

theorem fld_add_high {a b n lo w : Nat} (ha : a < 2 ^ n) (h : n ≤ lo) : fld (a + b * 2 ^ n) lo w = fld b (lo - n) w := by
  obtain ⟨c, rfl⟩ := Nat.exists_eq_add_of_le h
  unfold fld
  rw [pow_add, ← Nat.div_div_eq_div_mul, Nat.add_mul_div_right _ _ (by positivity), Nat.div_eq_of_lt ha, Nat.zero_add, Nat.add_sub_cancel_left]

theorem fld_of_lt {x n : Nat} (h : x < 2 ^ n) : fld x 0 n = x := by rw [fld_zero, Nat.mod_eq_of_lt h]
theorem fld_top {x lo n : Nat} (h : x < 2 ^ (lo + n)) : fld x lo n = x / 2 ^ lo :=
  Nat.mod_eq_of_lt (Nat.div_lt_of_lt_mul (by rwa [← pow_add]))
theorem fld_lt (x lo n : Nat) : fld x lo n < 2 ^ n := Nat.mod_lt _ (by positivity)
theorem fld_lt_pow {x lo w n : Nat} (h : w ≤ n) : fld x lo w < 2 ^ n := (fld_lt x lo w).trans_le (Nat.pow_le_pow_right (by norm_num) h)

/-- A byte of what memory holds. -/
theorem memNat_byte : ∀ {n : Nat} (m : Tab Byte) (k : Nat) {j : Nat}, j < n → BitVec.ofNat 8 (memNat m k n / 256 ^ j) = m.get 0 (k + j)
  | n + 1, m, k, 0, _ => by
    apply BitVec.eq_of_toNat_eq
    have := (m.get 0 k).isLt
    rw [BitVec.toNat_ofNat, memNat, pow_zero, Nat.div_one, Nat.add_zero, Nat.add_mul_mod_self_left]
    exact Nat.mod_eq_of_lt this
  | n + 1, m, k, j + 1, h => by
    have hb : ((m.get 0 k).toNat + 256 * memNat m (k + 1) n) / 256 = memNat m (k + 1) n := by
      have := (m.get 0 k).isLt
      omega
    rw [memNat, pow_succ', ← Nat.div_div_eq_div_mul, hb, memNat_byte m (k + 1) (by omega), Nat.add_assoc, Nat.add_comm 1 j]

/-- Bytes within bytes. -/
theorem fld_memNat (m : Tab Byte) (k : Nat) {o n N : Nat} (h : o + n ≤ N) : fld (memNat m k N) (8 * o) (8 * n) = memNat m (k + o) n := by
  have e : ∀ i, 2 ^ (8 * i) = 256 ^ i := fun i => pow_mul 2 8 i
  unfold fld
  rw [e, e]
  refine (memNat_eq n m (k + o) _ fun i hi => ?_).symm
  rw [Nat.div_div_eq_div_mul, ← pow_add, memNat_byte m k (by omega), Nat.add_assoc]

theorem memNat_lt (m : Tab Byte) (k n : Nat) : memNat m k n < 256 ^ n := by
  rw [memNat_eq n m k (memNat m k n) fun i hi => (memNat_byte m k hi).symm]
  exact Nat.mod_lt _ (by positivity)

end Sys2Proof.Machine
end

section
open Sys2Proof Sys2Proof.Machine Sys2Proof.Claims
/-! SUPPORT. Mapping by the loader: the tables are those that the walk and the region homes go by (R63, R70 to R74). -/
namespace Sys2Proof.Machine

/-- The words of a context's descriptor: the page table's root and the root of the region homes (R71, R72). -/
theorem State.fld_desc (s : State) (d : Nat) (ctx : BitVec 16) :
    fld (s.desc d ctx) 72 40 = s.nat (rimKey ((s.die d).ctxtab.toNat + 64 * ctx.toNat + 8)) 8 / 256 % 2 ^ 40 := by
  have h : fld (s.desc d ctx) (8 * 8) (8 * 8) = _ := fld_memNat s.mem (rimKey ((s.die d).ctxtab.toNat + 64 * ctx.toNat)) (by norm_num)
  rw [← fld_fld (show 8 + 40 ≤ 8 * 8 by norm_num) (a := 8 * 8), h]
  rfl

/-- A table that is there is gone through, one that maps a page ends the way. -/
theorem State.tableAtEntry_table {s : State} {at_ size : Nat} (hp : bit (s.nat (rimKey at_) 8) 0 = true) :
    s.tableAtEntry at_ size = if bit (s.nat (rimKey at_) 8) 1 || bit (s.nat (rimKey at_) 8) 7 || fld (s.nat (rimKey at_) 8) 48 16 != 0 then none
      else some (s, fld (s.nat (rimKey at_) 8) 8 40 * 256) := if_pos hp

/-- One level of a walk that finds a page: a leaf of level 1 or 2, or a table from which the walk goes on. -/
theorem walkFrom_found {m : Tab Byte} {bad : Nat → Bool} {va l t : Nat} {r : Nat × Nat × Nat} (h : walkFrom m bad va (l + 1) t = .ok r) :
    let e := memNat m (rimKey (t + 8 * ptIndex (l + 1) va)) 8
    bit e 0 = true ∧ bit e 7 = false ∧ (fld e 48 16 != 0) = false ∧
      (bit e 1 = true ∧ l + 1 ≤ 2 ∨ bit e 1 = false ∧ 1 ≤ l ∧ walkFrom m bad va l (fld e 8 40 * 256) = .ok r) := by
  intro e
  unfold walkFrom at h
  dsimp only at h
  split at h
  · cases h
  split at h
  · cases h
  · next hp =>
    split at h
    · cases h
    · next hm =>
      rw [Bool.not_eq_true, Bool.or_eq_false_iff, Bool.or_eq_false_iff] at hm
      obtain ⟨⟨h7, h48⟩, -⟩ := hm
      refine ⟨not_not.mp hp, h7, h48, ?_⟩
      split at h
      · next hleaf =>
        refine .inl ⟨hleaf, not_lt.mp fun hl => ?_⟩
        rw [decide_eq_true hl, Bool.true_or, if_pos rfl] at h
        cases h
      · next hleaf =>
        split at h
        · cases h
        · next hl =>
          split at h
          · cases h
          · exact .inr ⟨Bool.not_eq_true _ ▸ hleaf, by omega, h⟩

/-- Where the walk finds a page, nothing is mapped (R63). -/
theorem State.mapPage_walked {s : State} {ctx : BitVec 16} {va : Nat} {r : Nat × Nat × Nat} (h : s.walk 0 ctx va = .ok r) (pa flags : Nat) :
    s.mapPage ctx va pa flags = none := by
  unfold State.walk at h
  dsimp only at h
  split at h
  · cases h
  split at h
  · cases h
  · obtain ⟨p4, s4, c4, ⟨-, h4⟩ | ⟨d4, -, h4⟩⟩ := walkFrom_found h
    · omega
    obtain ⟨p3, s3, c3, ⟨-, h3⟩ | ⟨d3, -, h3⟩⟩ := walkFrom_found h4
    · omega
    obtain ⟨p2, s2, c2, h2⟩ := walkFrom_found h3
    unfold State.mapPage
    dsimp only
    rw [State.tableAtEntry_table p4, State.nat, d4, s4, c4, Bool.or_self, Bool.or_self, if_neg Bool.false_ne_true, Option.bind_some]
    dsimp only
    rw [State.tableAtEntry_table p3, State.nat, d3, s3, c3, Bool.or_self, Bool.or_self, if_neg Bool.false_ne_true, Option.bind_some]
    dsimp only
    rw [State.tableAtEntry_table p2, State.nat, s2, c2]
    rcases h2 with ⟨d2, -⟩ | ⟨d2, -, h2⟩
    · rw [d2]
      rfl
    · obtain ⟨p1, -⟩ := walkFrom_found h2
      rw [d2, Bool.or_self, Bool.or_self, if_neg Bool.false_ne_true, Option.bind_some]
      exact if_pos p1

/-- What a page's entry holds once it is mapped (R74). -/
theorem State.mapPage_entry {s t : State} {ctx : BitVec 16} {va pa flags at_ : Nat} (h : s.mapPage ctx va pa flags = some (t, at_))
    (hlt : pa + flags + 3 < 256 ^ 8) : t.nat (rimKey at_) 8 = pa + flags + 3 := by
  unfold State.mapPage at h
  simp only [Option.bind_eq_some_iff] at h
  obtain ⟨-, -, -, -, ⟨u, t1⟩, -, h⟩ := h
  dsimp only at h
  split at h
  · cases h
  · cases h
    rw [State.nat, State.put_mem, memNat_memPut, Nat.mod_eq_of_lt (by omega)]
    omega

/-- A region whose table of homes stands: a home that is set stays, one that is not is set (R72). -/
theorem State.homeRegion_table {s : State} {ctx : BitVec 16} {va : Nat} (cl : Nat) (hva : va < 2 ^ 52) :
    let root := s.nat (rimKey ((s.die 0).ctxtab.toNat + 64 * ctx.toNat + 8)) 8
    let top := s.nat (rimKey (root / 256 % 2 ^ 40 * 256 + 8 * (va / 2 ^ 37))) 8
    let at_ := rimKey (top / 256 % 2 ^ 40 * 256 + 2 * (va / 2 ^ 21 % 2 ^ 16))
    top % 2 = 1 → s.homeRegion ctx va cl = some (if bit (s.nat at_ 2) 15 then s else s.put at_ 2 (cl + 2 ^ 15)) := by
  intro root top at_ h
  have hregion : fld va 37 15 = va / 2 ^ 37 := Nat.mod_eq_of_lt (by omega)
  have hp : bit top 0 = true := beq_iff_eq.mpr ((fld_zero ..).trans h)
  unfold State.homeRegion
  dsimp only
  rw [s.fld_desc, hregion, if_pos hp]
  rfl

theorem bit_top_iff {x n : Nat} (h : x < 2 ^ (n + 1)) : bit x n = true ↔ x / 2 ^ n = 1 := by
  have hq : x / 2 ^ n < 2 := Nat.div_lt_of_lt_mul (by rwa [← pow_succ])
  rw [bit, beq_iff_eq, fld, pow_one, Nat.mod_eq_of_lt hq]

theorem pagesMapped_holds : pagesMapped := by
  rintro s ctx va pa flags cl hva - hpa - hflags -
  refine ⟨fun t at_ h => State.mapPage_entry h (by omega), fun a e lvl h => State.mapPage_walked h pa flags, fun htop => ?_⟩
  have hset := State.homeRegion_table cl hva htop
  refine ⟨fun hhome => ?_, fun hhome => ⟨s.put _ 2 (cl + 2 ^ 15), ?_, fun j => get_memPut ..⟩⟩
  · rw [hset, if_pos ((bit_top_iff (memNat_lt ..)).mpr hhome)]
  · rw [hset, if_neg (mt (bit_top_iff (memNat_lt ..)).mp fun h1 => absurd (h1.symm.trans hhome) one_ne_zero)]

end Sys2Proof.Machine
end

section
open Sys2Proof Sys2Proof.Machine Sys2Proof.Claims
/-! SUPPORT. Stores in order, and the bytes that memory holds after them (R10). -/
namespace Sys2Proof.Machine

/-- Memory after some stores in order: key, bytes and value of each. -/
def storeAll (m : Tab Byte) (l : List (Nat × Nat × Nat)) : Tab Byte := l.foldl (fun m w => memPut m w.1 w.2.1 w.2.2) m

theorem storeAll_append (m : Tab Byte) (l k : List (Nat × Nat × Nat)) : storeAll m (l ++ k) = storeAll (storeAll m l) k := List.foldl_append ..

theorem storeAll_nil (m : Tab Byte) : storeAll m [] = m := rfl

theorem storeAll_cons (m : Tab Byte) (k n v : Nat) (l : List (Nat × Nat × Nat)) : storeAll m ((k, n, v) :: l) = storeAll (memPut m k n v) l := rfl

theorem storedAll_storeAll : ∀ (l : List (Nat × Nat × Nat)) (m : Tab Byte), StoredAll m (storeAll m l) l
  | [], _ => fun _ => rfl
  | w :: l, m => ⟨memPut m w.1 w.2.1 w.2.2, fun _ => get_memPut .., storedAll_storeAll l _⟩

/-- A byte after some stores, where those that meet it agree on it, and one does or it stood there. -/
theorem get_storeAll {j : Nat} {b : Byte} : ∀ {l : List (Nat × Nat × Nat)} {m : Tab Byte},
    (∀ w ∈ l, w.1 ≤ j → j < w.1 + w.2.1 → BitVec.ofNat 8 (w.2.2 / 256 ^ (j - w.1)) = b) →
    (m.get 0 j = b ∨ ∃ w ∈ l, w.1 ≤ j ∧ j < w.1 + w.2.1) → (storeAll m l).get 0 j = b
  | [], _, _, h => h.elim id fun ⟨_, hw, _⟩ => absurd hw List.not_mem_nil
  | w :: l, m, hb, h => by
    obtain ⟨hw, hl⟩ := List.forall_mem_cons.mp hb
    refine get_storeAll (m := memPut m w.1 w.2.1 w.2.2) hl ?_
    rw [get_memPut]
    by_cases hin : w.1 ≤ j ∧ j < w.1 + w.2.1
    · exact .inl ((if_pos hin).trans (hw hin.1 hin.2))
    · rw [if_neg hin]
      refine h.imp_right fun ⟨x, hx, hj⟩ => ⟨x, (List.mem_cons.mp hx).resolve_left ?_, hj⟩
      rintro rfl
      exact hin hj

/-- What one of some stores wrote stands, where every other one lies apart from it. -/
theorem get_storeAll_mem {l : List (Nat × Nat × Nat)} {m : Tab Byte} {k n v j : Nat} (hw : (k, n, v) ∈ l)
    (hoff : ∀ w ∈ l, w = (k, n, v) ∨ w.1 + w.2.1 ≤ k ∨ k + n ≤ w.1 ∨ w.2.1 = 0) (hj : j < n) :
    (storeAll m l).get 0 (k + j) = BitVec.ofNat 8 (v / 256 ^ j) := by
  refine get_storeAll (fun w hm h1 h2 => ?_) (.inr ⟨_, hw, by dsimp only; omega⟩)
  rcases hoff w hm with rfl | h
  · rw [Nat.add_sub_cancel_left]
  · omega

/-- Writes in order store their bytes. -/
theorem foldl_write_mem {α : Type} (k n v : α → Nat) : ∀ (l : List α) (s : State),
    (l.foldl (fun s x => s.write (k x) (n x) (v x)) s).mem = storeAll s.mem (l.map fun x => (k x, n x, v x))
  | [], _ => rfl
  | x :: l, s => by
    rw [List.foldl_cons, foldl_write_mem k n v l, State.write_mem]
    rfl

end Sys2Proof.Machine
end

section
open Sys2Proof Sys2Proof.Machine Sys2Proof.Claims
/-! SUPPORT. The frames that a load takes: each step goes on behind the last, so that no two sections share a byte (R63; log entry 30). -/
namespace Sys2Proof.Machine

/-- Where the loader's frames begin. -/
def framesBase : Nat := Config.loaderStack.val * 2 ^ 36

theorem State.frames_next {s t : State} {n al pa : Nat} (hal : 0 < al) (h : s.frames n al = some (t, pa)) :
    framesBase + s.loaderNext ≤ pa ∧ pa + n = framesBase + t.loaderNext := by
  unfold State.frames at h
  dsimp only at h
  split at h
  · cases h
  · cases h
    have := Nat.div_add_mod (s.loaderNext + al - 1) al
    have hmod := Nat.mod_lt (s.loaderNext + al - 1) hal
    rw [Nat.mul_comm] at this
    unfold framesBase
    dsimp only
    omega

theorem State.tableAtEntry_next {s t : State} {at_ size pa : Nat} (hs : 0 < size) (h : s.tableAtEntry at_ size = some (t, pa)) :
    s.loaderNext ≤ t.loaderNext := by
  unfold State.tableAtEntry at h
  dsimp only at h
  split at h
  · split at h
    · cases h
    · cases h
      exact le_refl _
  · obtain ⟨⟨u, q⟩, hf, hu⟩ := Option.map_eq_some_iff.mp h
    have hn := State.frames_next hs hf
    cases hu
    change s.loaderNext ≤ u.loaderNext
    omega

theorem State.mapPage_next {s t : State} {ctx : BitVec 16} {va pa flags at_ : Nat} (h : s.mapPage ctx va pa flags = some (t, at_)) :
    s.loaderNext ≤ t.loaderNext := by
  unfold State.mapPage at h
  simp only [Option.bind_eq_some_iff] at h
  obtain ⟨⟨u3, t3⟩, h3, ⟨u2, t2⟩, h2, ⟨u1, t1⟩, h1, h⟩ := h
  have n3 := State.tableAtEntry_next (by decide) h3
  have n2 := State.tableAtEntry_next (by decide) h2
  have n1 := State.tableAtEntry_next (by decide) h1
  dsimp only at h
  split at h
  · cases h
  · cases h
    exact n3.trans (n2.trans n1)

theorem State.homeRegion_next {s t : State} {ctx : BitVec 16} {va cl : Nat} (h : s.homeRegion ctx va cl = some t) : s.loaderNext ≤ t.loaderNext := by
  unfold State.homeRegion at h
  obtain ⟨⟨u, leaf⟩, hu, ht⟩ := Option.map_eq_some_iff.mp h
  have hn : s.loaderNext ≤ u.loaderNext := by
    split at hu
    · cases hu
      exact le_refl _
    · obtain ⟨⟨w, q⟩, hf, hw⟩ := Option.map_eq_some_iff.mp hu
      have hn := State.frames_next (by decide) hf
      cases hw
      change s.loaderNext ≤ w.loaderNext
      omega
  dsimp only at ht
  split at ht <;> exact ht ▸ hn

theorem Load.mapRun_keeps (ctx : BitVec 16) (cl flags : Nat) : ∀ (n : Nat) (l : Load) (va pa : Nat),
    (l.mapRun ctx cl va pa flags n).1.names = l.names ∧ l.s.loaderNext ≤ (l.mapRun ctx cl va pa flags n).1.s.loaderNext
  | 0, _, _, _ => ⟨rfl, le_refl _⟩
  | n + 1, l, va, pa => by
    unfold Load.mapRun
    split
    · exact ⟨rfl, le_refl _⟩
    · next t at_ h =>
      obtain ⟨u, hu, ht⟩ := Option.bind_eq_some_iff.mp h
      obtain ⟨hnames, hnext⟩ := mapRun_keeps ctx cl flags n { l with s := t, leaves := at_ :: l.leaves } (va + 2 ^ 16) (pa + 2 ^ 16)
      exact ⟨hnames, ((State.homeRegion_next hu).trans (State.mapPage_next ht)).trans hnext⟩

/-- A section mapped: its frames lie behind those taken before, within those taken then. -/
theorem Load.mapSec_keeps {l m : Load} {ctx : BitVec 16} {cl va size flags : Nat} {r : Option Nat} (h : l.mapSec ctx cl va size flags = (m, r)) :
    m.names = l.names ∧ l.s.loaderNext ≤ m.s.loaderNext ∧
      ∀ p, r = some p → size = 0 ∨ framesBase + l.s.loaderNext ≤ p ∧ p + size ≤ framesBase + m.s.loaderNext := by
  unfold Load.mapSec at h
  split at h
  · next hz =>
    cases h
    exact ⟨rfl, le_refl _, fun _ _ => .inl hz⟩
  split at h
  · cases h
    exact ⟨rfl, le_refl _, fun _ h => nomatch h⟩
  · extract_lets lo pages at h
    have hpages : ∃ n, n = pages ∧ va % 2 ^ 16 + size ≤ n * 2 ^ 16 := ⟨_, rfl, by unfold pages lo; omega⟩
    -- From here on the number of pages is a variable: its value is costly to compute with.
    obtain ⟨n, hn, hsize⟩ := hpages
    rw [← hn] at h
    generalize hf : l.s.frames (n * 2 ^ 16) (2 ^ 16) = o at h
    rcases o with _ | ⟨u, pa⟩
    · cases h
      exact ⟨rfl, le_refl _, fun _ h => nomatch h⟩
    · obtain ⟨hlow, hhigh⟩ := State.frames_next (by decide) hf
      obtain ⟨hnames, hnext⟩ := Load.mapRun_keeps ctx cl flags n { l with s := u } (lo * 2 ^ 16) pa
      dsimp only at h hnext
      cases h
      refine ⟨hnames, by omega, fun p hp => .inr ?_⟩
      split at hp
      · cases hp
        omega
      · cases hp

end Sys2Proof.Machine
end

section
open Sys2Proof Sys2Proof.Machine Sys2Proof.Claims
/-! SUPPORT. Contents in place: the stores of step 3 and 4, none of which meets another section's (R63, R65). -/
namespace Sys2Proof.Machine

/-- The stores of a placement: sections 1 to 3 in their frames, the check table, and `.local` in every core of the set. -/
def Image.contents (f : Image) (pa : Nat → Nat) (table : Nat) : List (Nat × Nat × Nat) :=
  let lc := f.find 4
  ([1, 2, 3].map fun type => (rimKey (pa type), (f.find type).size, f.rd (f.find type).off (f.find type).size)) ++
    (List.range ((f.find 7).size / 16)).map (fun i => (rimKey (table + 32 * i), 32, f.checkEntry (f.item (f.find 7) 16 i))) ++
    f.cores.map fun k => (localKey k lc.addr, lc.size, f.rd lc.off lc.size)

/-- Sections 1 to 3 and the check table lie in rising order, `.local` within the program area. -/
structure Image.Laid (f : Image) (pa : Nat → Nat) (table : Nat) : Prop where
  rising : ∀ a b, 1 ≤ a → a < b → b ≤ 3 → (f.find a).size = 0 ∨ (f.find b).size = 0 ∨ pa a + (f.find a).size ≤ pa b
  behind : ∀ a, 1 ≤ a → a ≤ 3 → (f.find a).size = 0 ∨ (f.find 7).size = 0 ∨ pa a + (f.find a).size ≤ table
  within : (f.find 4).size = 0 ∨ (f.find 4).addr + (f.find 4).size ≤ 0x24000

/-- A placement: the objects' names stand, and where it comes to its end the contents are in place. -/
theorem Load.place_cases {l m : Load} {f : Image} {ctx : BitVec 16} {r : Option (Nat → Nat)} (h : l.place f ctx = (m, r)) :
    m.names = l.names ∧ ∀ pa, r = some pa → ∃ (mem : Tab Byte) (table : Nat), m.s.mem = storeAll mem (f.contents pa table) ∧ f.Laid pa table := by
  unfold Load.place at h
  dsimp only at h
  split at h
  · cases h
    exact ⟨rfl, fun _ h => nomatch h⟩
  split at h
  · next h1 =>
    cases h
    exact ⟨(Load.mapSec_keeps h1).1, fun _ h => nomatch h⟩
  next l1 p1 h1 =>
  obtain ⟨m1, n1, q1⟩ := Load.mapSec_keeps h1
  split at h
  · next h2 =>
    cases h
    exact ⟨(Load.mapSec_keeps h2).1.trans m1, fun _ h => nomatch h⟩
  next l2 p2 h2 =>
  obtain ⟨m2, n2, q2⟩ := Load.mapSec_keeps h2
  split at h
  · next h3 =>
    cases h
    exact ⟨(Load.mapSec_keeps h3).1.trans (m2.trans m1), fun _ h => nomatch h⟩
  next l3 p3 h3 =>
  obtain ⟨m3, n3, q3⟩ := Load.mapSec_keeps h3
  split at h
  · next h4 =>
    cases h
    exact ⟨(Load.mapSec_keeps h4).1.trans (m3.trans (m2.trans m1)), fun _ h => nomatch h⟩
  next l4 p4 h4 =>
  obtain ⟨m4, -, q4⟩ := Load.mapSec_keeps h4
  have hnames := m4.trans (m3.trans (m2.trans m1))
  split at h
  · cases h
    exact ⟨hnames, fun _ h => nomatch h⟩
  next hlocal =>
  cases h
  refine ⟨hnames, fun pa hpa => ⟨l4.s.mem, p4, ?_, ?_⟩⟩
  · cases hpa
    dsimp only
    rw [foldl_write_mem, foldl_write_mem, State.write_mem, State.write_mem, State.write_mem, Image.contents, storeAll_append, storeAll_append]
    simp only [List.map_cons, List.map_nil, storeAll_cons, storeAll_nil, reduceIte, Nat.reduceEqDiff]
  · have q1 := q1 p1 rfl
    have q2 := q2 p2 rfl
    have q3 := q3 p3 rfl
    have q4 := q4 p4 rfl
    cases hpa
    refine ⟨fun a b ha hab hb => ?_, fun a ha hb => ?_, by omega⟩
    · obtain ⟨rfl, rfl⟩ | ⟨rfl, rfl⟩ | ⟨rfl, rfl⟩ : a = 1 ∧ b = 2 ∨ a = 1 ∧ b = 3 ∨ a = 2 ∧ b = 3 := by omega
      all_goals
        simp only [reduceIte, Nat.reduceEqDiff, OfNat.ofNat_ne_one]
        omega
    · obtain rfl | rfl | rfl : a = 1 ∨ a = 2 ∨ a = 3 := by omega
      all_goals
        simp only [reduceIte, Nat.reduceEqDiff, OfNat.ofNat_ne_one]
        omega

theorem Image.mem_contents {f : Image} {pa : Nat → Nat} {table : Nat} {w : Nat × Nat × Nat} : w ∈ f.contents pa table ↔
    (∃ a, (1 ≤ a ∧ a ≤ 3) ∧ w = (rimKey (pa a), (f.find a).size, f.rd (f.find a).off (f.find a).size)) ∨
    (∃ i, i < (f.find 7).size / 16 ∧ w = (rimKey (table + 32 * i), 32, f.checkEntry (f.item (f.find 7) 16 i))) ∨
    ∃ k ∈ f.cores, w = (localKey k (f.find 4).addr, (f.find 4).size, f.rd (f.find 4).off (f.find 4).size) := by
  have h3 : ∀ a, a ∈ [1, 2, 3] ↔ 1 ≤ a ∧ a ≤ 3 := fun a => by simp; omega
  simp only [Image.contents, List.mem_append, List.mem_map, List.mem_range, h3, or_assoc, eq_comm (b := w)]

/-- The clusters of an image in order are clusters, its cores are cores (R61). -/
theorem Image.cores_lt {f : Image} (h : f.ok = true) : ∀ k ∈ f.cores, k < Config.cores := by
  intro k hk
  unfold Image.ok at h
  have hmeta := (Bool.and_eq_true_iff.mp h).2
  have hc : ∀ c ∈ f.clusters, c < Config.clusters := by
    unfold Image.metaOk at hmeta
    split at hmeta
    · cases hmeta
    · simp only [Bool.and_eq_true, List.all_eq_true, decide_eq_true_eq] at hmeta
      exact hmeta.1.2
  obtain ⟨c, hcm, hk⟩ := List.mem_flatMap.mp hk
  obtain ⟨i, hi, rfl⟩ := List.mem_map.mp hk
  have := hc c hcm
  have := List.mem_range.mp hi
  unfold Config.clusters at *
  unfold Config.cores
  omega

section
variable {f : Image} {pa : Nat → Nat} {table : Nat} {m : Tab Byte}

/-- What a section of the file holds stands where it was copied to, where no other store meets it. -/
theorem Image.get_contents {h : Sec} {k j : Nat} (hj : j < h.size) (hmem : (k, h.size, f.rd h.off h.size) ∈ f.contents pa table)
    (hoff : ∀ w ∈ f.contents pa table, w = (k, h.size, f.rd h.off h.size) ∨ w.1 + w.2.1 ≤ k ∨ k + h.size ≤ w.1 ∨ w.2.1 = 0) :
    (storeAll m (f.contents pa table)).get 0 (k + j) = f.mem.get 0 (hostKey (f.at_ + h.off) + j) :=
  (get_storeAll_mem hmem hoff hj).trans (memNat_byte f.mem _ hj)

variable (hlaid : f.Laid pa table) (hcores : ∀ k ∈ f.cores, k < Config.cores)
include hlaid hcores

/-- `.local` lies below every frame. -/
theorem Image.local_below {k : Nat} (hk : k ∈ f.cores) (p : Nat) :
    (f.find 4).size = 0 ∨ localKey k (f.find 4).addr + (f.find 4).size ≤ rimKey p := by
  have hlt := hcores k hk
  have := hlaid.within
  unfold Config.cores at hlt
  unfold localKey rimKey
  omega

/-- Sections 1 to 3 in their frames. -/
theorem Image.get_section {a j : Nat} (h1 : 1 ≤ a) (h3 : a ≤ 3) (hj : j < (f.find a).size) :
    (storeAll m (f.contents pa table)).get 0 (rimKey (pa a) + j) = f.mem.get 0 (hostKey (f.at_ + (f.find a).off) + j) := by
  refine Image.get_contents hj (Image.mem_contents.mpr (.inl ⟨a, ⟨h1, h3⟩, rfl⟩)) fun w hw => ?_
  obtain ⟨b, ⟨hb1, hb3⟩, rfl⟩ | ⟨i, hi, rfl⟩ | ⟨k, hk, rfl⟩ := Image.mem_contents.mp hw
  · rcases lt_trichotomy b a with hlt | rfl | hlt
    · have := hlaid.rising b a hb1 hlt h3
      unfold rimKey
      dsimp only
      omega
    · exact .inl rfl
    · have := hlaid.rising a b h1 hlt hb3
      unfold rimKey
      dsimp only
      omega
  · have := hlaid.behind a h1 h3
    unfold rimKey
    dsimp only
    omega
  · have := Image.local_below hlaid hcores hk (pa a)
    dsimp only
    omega

/-- `.local` in each core's memory. -/
theorem Image.get_local {k j : Nat} (hk : k ∈ f.cores) (hj : j < (f.find 4).size) :
    (storeAll m (f.contents pa table)).get 0 (localKey k (f.find 4).addr + j) = f.mem.get 0 (hostKey (f.at_ + (f.find 4).off) + j) := by
  refine Image.get_contents hj (Image.mem_contents.mpr (.inr (.inr ⟨k, hk, rfl⟩))) fun w hw => ?_
  obtain ⟨b, -, rfl⟩ | ⟨i, -, rfl⟩ | ⟨k', -, rfl⟩ := Image.mem_contents.mp hw
  · have := Image.local_below hlaid hcores hk (pa b)
    dsimp only
    omega
  · have := Image.local_below hlaid hcores hk (table + 32 * i)
    dsimp only
    omega
  · have := hlaid.within
    by_cases he : k' = k
    · exact .inl (by rw [he])
    · unfold localKey
      dsimp only
      omega

end

/-! Steps 2 to 4 (R63, R65) -/

/-- A set of clusters that a load can go into: none is fenced, and some enabled core has the features. -/
def Load.Able (l : Load) (f : Image) : Prop :=
  (∀ c ∈ f.clusters, (l.s.cluster c).fenced = false) ∧ ∃ k ∈ f.cores, l.s.enabled k = true ∧ maskHas (l.s.coreFeat k) (f.rd 20 4) = true

theorem Load.able_iff (l : Load) (f : Image) : l.Able f ↔
    ¬ ((f.clusters.any (fun c => (l.s.cluster c).fenced) || f.cores.all (fun k => ! (l.s.enabled k && maskHas (l.s.coreFeat k) (f.rd 20 4)))) = true) := by
  simp [Load.Able]

section
variable {l m : Load} {f : Image} {ctx : BitVec 16}

theorem Load.run_unable (h : ¬ l.Able f) : l.run f ctx = (l, .fail 2 0 0) := if_pos (not_not.mp (mt (l.able_iff f).mpr h))

theorem Load.run_unplaced (h : l.Able f) (hp : l.place f ctx = (m, none)) : l.run f ctx = (m, .fail 3 0 0) := by
  unfold Load.run
  rw [if_neg ((l.able_iff f).mp h), hp]

end

theorem imagePlaced_holds : imagePlaced := by
  intro s f ctx hok start able
  refine ⟨fun h => Load.run_unable h, fun l ha hp => Load.run_unplaced ha hp, fun l pa hp => ?_⟩
  obtain ⟨mem, table, hmem, hlaid⟩ := (Load.place_cases hp).2 pa rfl
  have hcores := Image.cores_lt hok
  rw [hmem]
  refine ⟨fun type h ht hh j hj => ?_, fun hz => ⟨hlaid.within.resolve_left hz, fun k hk j hj => Image.get_local hlaid hcores hk hj⟩⟩
  subst hh
  exact Image.get_section hlaid hcores (by omega) (by omega) hj

end Sys2Proof.Machine
end

section
open Sys2Proof Sys2Proof.Machine Sys2Proof.Claims
/-! SUPPORT. How the stages of a load end, and what they leave (R63, R65). -/
namespace Sys2Proof.Machine

section
variable {f : Image} {ctx : BitVec 16} {r : Stop}

/-- The objects of a load, in record order: a name for each that is made, up to the first that is refused (R65). -/
theorem Load.objects_cases : ∀ {n i : Nat} {l m : Load}, l.objects f ctx i n = (m, r) →
    (r = .none → ∃ made, made.length = n ∧ m.names = l.names ++ made) ∧
    ∀ cause ix code, r = .fail cause ix code → cause = 4 ∧ i ≤ ix ∧ ix < i + n ∧ code ≠ 0 ∧ ∃ made, made.length = ix - i ∧ m.names = l.names ++ made
  | 0, i, l, m, h => by
    cases h
    exact ⟨fun _ => ⟨[], rfl, (List.append_nil _).symm⟩, fun _ _ _ h => (nomatch h)⟩
  | n + 1, i, l, m, h => by
    have hfirst : ∀ {code}, code ≠ 0 → r = .fail 4 i code → m.names = l.names → (r = .none → ∃ made, made.length = n + 1 ∧ m.names = l.names ++ made) ∧
        ∀ cause ix code, r = .fail cause ix code → cause = 4 ∧ i ≤ ix ∧ ix < i + (n + 1) ∧ code ≠ 0 ∧
          ∃ made, made.length = ix - i ∧ m.names = l.names ++ made := by
      rintro code hcode rfl hm
      refine ⟨fun h => (nomatch h), fun cause ix c h => ?_⟩
      cases h
      exact ⟨rfl, le_refl _, by omega, hcode, [], (Nat.sub_self _).symm, hm.trans (List.append_nil _).symm⟩
    unfold Load.objects at h
    split at h
    · cases h
      exact ⟨fun h => (nomatch h), fun _ _ _ h => (nomatch h)⟩
    · cases h
      exact hfirst (by decide) rfl rfl
    · next s st nm _ =>
      split at h
      · next hst =>
        cases h
        exact hfirst hst rfl rfl
      · obtain ⟨hnone, hfail⟩ := objects_cases h
        refine ⟨fun hr => ?_, fun cause ix code hr => ?_⟩
        · obtain ⟨made, hlen, hm⟩ := hnone hr
          exact ⟨nm :: made, congrArg Nat.succ hlen, hm.trans (List.append_assoc ..)⟩
        · obtain ⟨hcause, hlow, hhigh, hcode, made, hlen, hm⟩ := hfail cause ix code hr
          refine ⟨hcause, by omega, by omega, hcode, nm :: made, ?_, hm.trans (List.append_assoc ..)⟩
          rw [List.length_cons, hlen]
          omega

/-- A stitch as a skein takes it: with the skein's prio, class and place, the context, its frame as named from where it comes (R251, R264). -/
def Skein.stitch (k : Skein) (ctx : BitVec 16) (c : Nat) (st : W512) : W512 :=
  let st := stPut (stPut (stPut st 52 4 (skPrio k.desc)) 176 4 (fld k.desc.toNat 28 4)) 160 16 ctx.toNat
  let st := if stScope st = 0 then stPut st 180 12 (skPlace k.desc) else st
  stPut (stPut st 64 64 (rewrite (if c = outside then 32 * k.cluster + stPcore st else c) (stFrame st)).toNat) 192 64 0

/-- A skein with one more item at its tail. -/
def Skein.given (k : Skein) (q : Queued) : Skein :=
  { k with items := k.items ++ [q], since := if k.items.isEmpty then q.since else k.since, appended := k.appended + 1 }

/-- A stitch is refused, and nothing changes, or the skeins of the name are given it (R264). -/
theorem State.append_cases (s : State) (nm : W128) (ctx : BitVec 16) (c : Nat) (st : W512) (obs pre : List Nat) (rep : Option (BitVec 16 × W64 × Nat)) :
    (∃ code n, code ≠ stOK ∧ s.append nm ctx c st obs pre rep = (s, code, n)) ∨
    ∃ k, s.skeins.find? (fun x => x.name == nm) = some k ∧ s.append nm ctx c st obs pre rep =
      ({ s with skeins := s.skeins.map fun x => if x.name == nm then x.given ⟨k.stitch ctx c st, obs, pre, s.cycle, rep⟩ else x }, stOK, k.appended + 1) := by
  unfold State.append
  cases hk : s.skeins.find? fun x => x.name == nm with
  | none => exact .inl ⟨stGONE, 0, by decide, rfl⟩
  | some k =>
    by_cases hbad : stitchBad st = true
    · exact .inl ⟨stPERM, k.appended, by decide, if_pos hbad⟩
    by_cases hplace : s.placeable (stScope (k.stitch ctx c st)) k.cluster (32 * k.cluster + stPcore (k.stitch ctx c st)) (stFrame (k.stitch ctx c st))
      (stFeat (k.stitch ctx c st)) = true
    · by_cases hroom : s.nseRoom (k.cluster / 32) = true
      · exact .inr ⟨k, rfl, (if_neg hbad).trans ((if_neg (not_not.mpr hplace)).trans (if_neg (not_not.mpr hroom)))⟩
      · exact .inl ⟨stFULL, k.appended, by decide, (if_neg hbad).trans ((if_neg (not_not.mpr hplace)).trans (if_pos hroom))⟩
    · exact .inl ⟨stPERM, k.appended, by decide, (if_neg hbad).trans (if_pos hplace)⟩

theorem State.append_clusters (s : State) (nm : W128) (ctx : BitVec 16) (c : Nat) (st : W512) (obs pre : List Nat) (rep : Option (BitVec 16 × W64 × Nat)) :
    (s.append nm ctx c st obs pre rep).1.clusters = s.clusters := by
  obtain ⟨code, n, -, h⟩ | ⟨k, -, h⟩ := s.append_cases nm ctx c st obs pre rep <;> rw [h]

/-- The stitches of a load: names and clusters stand, and one that is refused ends the load (R65). -/
theorem Load.spawns_keeps : ∀ {n i : Nat} {l m : Load}, Load.spawns l f ctx i n = (m, r) →
    m.names = l.names ∧ m.s.clusters = l.s.clusters ∧ (∀ h, r ≠ .wait h) ∧ ∀ cause ix code, r = .fail cause ix code → cause = 4
  | 0, _, _, _, h => by
    cases h
    exact ⟨rfl, rfl, fun _ h => (nomatch h), fun _ _ _ h => (nomatch h)⟩
  | n + 1, i, l, m, h => by
    have hcl := l.s.append_clusters (l.names.getD ((f.skeinsOf i).headD 0) 0) ctx outside (BitVec.ofNat 512 (f.item (f.find 5) 64 i)) [] [] none
    unfold Load.spawns at h
    dsimp only at h
    split at h
    · cases h
      exact ⟨rfl, hcl, fun _ h => (nomatch h), fun _ _ _ h => by cases h; rfl⟩
    · obtain ⟨hn, hc, hrest⟩ := spawns_keeps h
      exact ⟨hn, hc.trans hcl, hrest⟩

/-- The set's instruction caches emptied. -/
def State.icFlushed (s : State) (cs : List Nat) : State := cs.foldl (fun s c => s.modCluster c fun k => { k with icache := [] }) s

theorem State.icFlushed_icache : ∀ (cs : List Nat) (s : State), (∀ c ∈ cs, ((s.icFlushed cs).cluster c).icache = []) ∧
    ∀ c, (s.cluster c).icache = [] → ((s.icFlushed cs).cluster c).icache = []
  | [], _ => ⟨fun _ h => absurd h List.not_mem_nil, fun _ h => h⟩
  | a :: cs, s => by
    obtain ⟨hin, hstay⟩ := icFlushed_icache cs (s.modCluster a fun k => { k with icache := [] })
    have hfirst : ∀ c, c = a ∨ (s.cluster c).icache = [] → ((s.modCluster a fun k => { k with icache := [] }).cluster c).icache = [] := by
      intro c h
      rw [State.cluster_modCluster]
      split
      · rfl
      · next hne => exact h.resolve_left hne
    refine ⟨fun c hc => ?_, fun c hc => hstay c (hfirst c (.inr hc))⟩
    rcases List.mem_cons.mp hc with rfl | hc
    · exact hstay c (hfirst c (.inl rfl))
    · exact hin c hc

theorem State.sigWindows_clusters (s : State) (f : Image) (ctx : BitVec 16) (table : Nat) : (s.sigWindows f ctx table).clusters = s.clusters := by
  unfold State.sigWindows
  refine foldl_keeps (fun t => t.clusters = s.clusters) _ (fun t d ht => ?_) _ _ rfl
  split
  · exact ht
  · split
    · exact ht
    · exact ht

/-- How a load ends: its set or its placement fails, an object or a stitch ends it, or each step has come to its end. -/
theorem Load.run_cases {l m : Load} (h : l.run f ctx = (m, r)) :
    (∃ cause, r = .fail cause 0 0 ∧ (cause = 2 ∨ cause = 3)) ∨
    ∃ l1 pa l2 r2, l.place f ctx = (l1, some pa) ∧ l1.objects f ctx 0 f.objCount = (l2, r2) ∧
      (r2 ≠ .none ∧ r = r2 ∨
       r2 = .none ∧ ∃ l3, Load.spawns { l2 with s := (Load.patches l2 f pa).icFlushed f.clusters } f ctx 0 f.stitches = (l3, r) ∧
         m.names = l3.names ∧ m.s.clusters = l3.s.clusters) := by
  unfold Load.run at h
  split at h
  · cases h
    exact .inl ⟨2, rfl, .inl rfl⟩
  split at h
  · cases h
    exact .inl ⟨3, rfl, .inr rfl⟩
  next l1 pa hp =>
  refine .inr ⟨l1, pa, ?_⟩
  split at h
  · next l2 ho =>
    refine ⟨l2, .none, hp, ho, .inr ⟨rfl, ?_⟩⟩
    dsimp only at h
    split at h
    · next l3 hs =>
      cases h
      refine ⟨l3, hs, ?_⟩
      split
      · exact ⟨rfl, rfl⟩
      · exact ⟨rfl, State.sigWindows_clusters ..⟩
    · exact ⟨m, h, rfl, rfl⟩
  · next hne =>
    exact ⟨m, r, hp, h, .inl ⟨fun hr => hne m (hr ▸ h), rfl⟩⟩

/-- A load that ends well has a name for each of its records; one that fails does so for one of three causes. -/
theorem Load.run_ends {l m : Load} (h : l.run f ctx = (m, r)) (hl : l.names = []) :
    (r = .none → m.names.length = f.objCount) ∧ ∀ cause ix code, r = .fail cause ix code → cause ∈ [2, 3, 4] := by
  obtain ⟨cause, rfl, hc⟩ | ⟨l1, pa, l2, r2, hp, ho, hend⟩ := Load.run_cases h
  · refine ⟨fun h => (nomatch h), fun _ _ _ h => ?_⟩
    cases h
    rcases hc with rfl | rfl <;> decide
  · obtain ⟨hmade, hfail⟩ := Load.objects_cases ho
    obtain ⟨hne, rfl⟩ | ⟨rfl, l3, hs, hnames, -⟩ := hend
    · exact ⟨fun h => absurd h hne, fun cause ix code h => by rw [(hfail cause ix code h).1]; decide⟩
    · obtain ⟨hkeep, -, -, hcause⟩ := Load.spawns_keeps hs
      refine ⟨fun _ => ?_, fun cause ix code h => by rw [hcause cause ix code h]; decide⟩
      obtain ⟨made, hlen, hm⟩ := hmade rfl
      rw [hnames, hkeep]
      dsimp only
      rw [hm, (Load.place_cases hp).1, hl]
      exact hlen

end

/-! The telling (R65, R358) -/

theorem State.record_only (s : State) (p : Nat) (r : W256) : OnlyPort s (s.record p r) p { s.port p with queue := (s.port p).queue ++ [r] } :=
  ⟨rfl, State.port_modPort_self .., fun _ h => (State.port_modPort ..).trans (if_neg h)⟩

theorem State.ckWant_frame (s : State) (ks : List Nat) : ({ s.ckWant ks with ckWants := s.ckWants } : State) = s := by
  unfold State.ckWant State.wantRanges
  split <;> rfl

theorem imagesLoaded_holds : imagesLoaded := by
  intro s p ctx img len hup hroom f told
  have hexec : exec (.loadImage p ctx img len) s = execLoadImage p ctx img len s := rfl
  have htold : ∀ {u cause ix code}, exec (.loadImage p ctx img len) s = .next (u.record p (hostRecord 1 cause ctx ix 0 code)) → told u cause ix code :=
    fun h => ⟨_, h, State.record_only ..⟩
  unfold execLoadImage at hexec
  rw [if_neg (by rw [hup, hroom]; decide)] at hexec
  refine ⟨fun hb => htold (hexec.trans (if_pos hb)), fun hb hu => ?_, fun hb hu hf => ?_, fun hb hu hf hs => ?_, fun hb hu hf hs => ?_⟩
  all_goals rw [if_neg (not_lt.mpr hb)] at hexec
  · exact htold (hexec.trans (if_pos hu))
  all_goals rw [if_neg (hu ▸ Bool.false_ne_true)] at hexec
  · exact htold (hexec.trans (if_pos (hf ▸ Bool.false_ne_true)))
  all_goals rw [if_neg (not_not.mpr hf)] at hexec
  · exact hexec.trans (if_pos hs)
  rw [if_neg (hs ▸ Bool.false_ne_true)] at hexec
  refine ⟨fun l h hr => ⟨_, ?_, s.ckWant_frame h⟩, fun l hr => ⟨htold ?_, (Load.run_ends hr rfl).1 rfl⟩,
    fun l cause ix code hr => ⟨htold ?_, (Load.run_ends hr rfl).2 cause ix code rfl⟩⟩
  all_goals
    rw [hexec]
    dsimp only
    rw [hr]

end Sys2Proof.Machine
end

section
open Sys2Proof Sys2Proof.Machine Sys2Proof.Claims
/-! SUPPORT. The patches of names and the stitches of a load (R60, R63, R64). -/
namespace Sys2Proof.Machine

/-! Patches (R60) -/

/-- A fold whose every step stores some bytes stores them all, in order. -/
theorem foldl_storeAll {α : Type} {g : State → α → State} {w : α → List (Nat × Nat × Nat)} (h : ∀ s x, (g s x).mem = storeAll s.mem (w x)) :
    ∀ (l : List α) (s : State), (l.foldl g s).mem = storeAll s.mem (l.flatMap w)
  | [], _ => rfl
  | x :: l, s => by rw [List.foldl_cons, foldl_storeAll h l, h, List.flatMap_cons, storeAll_append]

/-- Where a value for a section of a type goes: into the copy in the frames, or into every core's local memory. -/
def Image.copies (f : Image) (pa : Nat → Nat) (type off : Nat) : List Nat :=
  if type = 4 then f.cores.map fun k => localKey k ((f.find 4).addr + off) else [rimKey (pa type + off)]

theorem State.placeAt_mem (s : State) (f : Image) (pa : Nat → Nat) (type off n v : Nat) :
    (s.placeAt f pa type off n v).mem = storeAll s.mem ((f.copies pa type off).map fun k => (k, n, v)) := by
  unfold State.placeAt Image.copies
  split
  · rw [foldl_write_mem, List.map_map]
    rfl
  · exact State.write_mem ..

/-- The stores of patch `i`: the low half of the name, the high half, or all of it. -/
def Load.patchStores (l : Load) (f : Image) (pa : Nat → Nat) (i : Nat) : List (Nat × Nat × Nat) :=
  let p := f.patch i
  let nm := (l.names.getD (p % 2 ^ 32) 0).toNat
  let kind := p / 2 ^ 48 % 2 ^ 8
  let keys := f.copies pa (f.sec (f.rd 12 4) (p / 2 ^ 32 % 2 ^ 16)).type (p / 2 ^ 64 % 2 ^ 32)
  if kind = 1 then keys.map fun k => (k, 8, nm % 2 ^ 64) else if kind = 2 then keys.map fun k => (k, 8, nm / 2 ^ 64)
  else if kind = 3 then keys.map fun k => (k, 16, nm) else []

theorem Load.patches_mem (l : Load) (f : Image) (pa : Nat → Nat) :
    (Load.patches l f pa).mem = storeAll l.s.mem ((List.range f.patchCount).flatMap (l.patchStores f pa)) := by
  unfold Load.patches
  rw [List.foldl_map]
  refine foldl_storeAll (fun s i => ?_) _ _
  have hlow : ∀ x, x % 2 ^ 32 = fld x 0 32 := fun x => (fld_zero x 32).symm
  have hhigh : ∀ nm : W128, nm.toNat / 2 ^ 64 = fld nm.toNat 64 64 := fun nm => (fld_top (nm.isLt.trans_eq (by norm_num))).symm
  have hkind : f.patch i / 2 ^ 48 % 2 ^ 8 = fld (f.patch i) 48 8 := rfl
  unfold Load.patchStores
  dsimp only
  rw [hlow, hhigh, hkind, ← fld_zero _ 64]
  split
  · next h =>
    rw [if_pos h]
    exact State.placeAt_mem ..
  · next h =>
    rw [if_neg (by omega), if_pos h]
    exact State.placeAt_mem ..
  · next h =>
    rw [if_neg (by omega), if_neg (by omega), if_pos h]
    exact State.placeAt_mem ..
  · next h1 h2 h3 =>
    rw [if_neg h1, if_neg h2, if_neg h3]
    rfl

theorem namesPatched_holds : namesPatched := by
  intro l f pa
  generalize hL : (List.range f.patchCount).flatMap _ = L
  have h : (Load.patches l f pa).mem = storeAll l.s.mem L := (Load.patches_mem l f pa).trans (congrArg _ hL)
  rw [h]
  exact storedAll_storeAll L _

/-! Stitches (R63, R64) -/

/-- A number with a field replaced: below it what stood, then the value, and above it what stood. -/
theorem putFld_eq (x lo n v : Nat) : putFld x lo n v = x % 2 ^ lo + (v % 2 ^ n + x / 2 ^ (lo + n) * 2 ^ n) * 2 ^ lo := by
  have h1 := Nat.mod_add_div' x (2 ^ lo)
  have h2 := Nat.mod_add_div' (x / 2 ^ lo) (2 ^ n)
  rw [Nat.div_div_eq_div_mul, ← pow_add] at h2
  have h3 : x = x % 2 ^ lo + (fld x lo n + x / 2 ^ (lo + n) * 2 ^ n) * 2 ^ lo := by
    unfold fld
    rw [h2, h1]
  have h4 : putFld x lo n v = x % 2 ^ lo + x / 2 ^ (lo + n) * 2 ^ n * 2 ^ lo + v % 2 ^ n * 2 ^ lo := by
    unfold putFld
    congr 1
    rw [Nat.sub_eq_iff_eq_add]
    · conv_lhs => rw [h3]
      ring
    · conv_rhs => rw [h3]
      rw [Nat.add_mul]
      omega
  rw [h4]
  ring

theorem fld_mod {x n lo w : Nat} (h : lo + w ≤ n) : fld (x % 2 ^ n) lo w = fld x lo w := by
  conv_rhs => rw [← Nat.mod_add_div' x (2 ^ n)]
  exact (fld_add_low h).symm

theorem fld_putFld_below {x lo n v a w : Nat} (h : a + w ≤ lo) : fld (putFld x lo n v) a w = fld x a w := by
  rw [putFld_eq, fld_add_low h, fld_mod h]

theorem fld_putFld_same (x lo n v : Nat) : fld (putFld x lo n v) lo n = v % 2 ^ n := by
  rw [putFld_eq, fld_add_high (Nat.mod_lt _ (by positivity)) (le_refl _), Nat.sub_self, fld_add_low (by omega), fld_zero, Nat.mod_mod]

theorem fld_putFld_above {x lo n v a w : Nat} (h : lo + n ≤ a) : fld (putFld x lo n v) a w = fld x a w := by
  rw [putFld_eq, fld_add_high (Nat.mod_lt _ (by positivity)) (by omega), fld_add_high (Nat.mod_lt _ (by positivity)) (by omega), fld, fld,
    Nat.div_div_eq_div_mul, ← pow_add, show lo + n + (a - lo - n) = a by omega]

section
variable (st : W512) {lo n v a w : Nat}

theorem stPut_below (hw : a + w ≤ lo) (hn : lo ≤ 512) : fld (stPut st lo n v).toNat a w = fld st.toNat a w := by
  rw [stPut, BitVec.toNat_ofNat, fld_mod (n := 512) (hw.trans hn), fld_putFld_below hw]

theorem stPut_above (hw : lo + n ≤ a) (hn : a + w ≤ 512) : fld (stPut st lo n v).toNat a w = fld st.toNat a w := by
  rw [stPut, BitVec.toNat_ofNat, fld_mod (n := 512) hn, fld_putFld_above hw]

theorem stPut_same (hn : lo + n ≤ 512) : fld (stPut st lo n v).toNat lo n = v % 2 ^ n := by
  rw [stPut, BitVec.toNat_ofNat, fld_mod (n := 512) hn, fld_putFld_same]
end

/-- What a skein makes of a stitch: in the load's context, its pc as it was. -/
theorem Skein.stitch_fields (k : Skein) (ctx : BitVec 16) (c : Nat) (st : W512) :
    stCtx (k.stitch ctx c st) = ctx ∧ (k.stitch ctx c st).toNat % 2 ^ 48 = st.toNat % 2 ^ 48 := by
  have hplace : ∀ st', fld (if stScope st' = 0 then stPut st' 180 12 (skPlace k.desc) else st').toNat 160 16 = fld st'.toNat 160 16 ∧
      fld (if stScope st' = 0 then stPut st' 180 12 (skPlace k.desc) else st').toNat 0 48 = fld st'.toNat 0 48 := fun st' => by
    split
    · exact ⟨stPut_below _ (by norm_num) (by norm_num), stPut_below _ (by norm_num) (by norm_num)⟩
    · exact ⟨rfl, rfl⟩
  unfold Skein.stitch stCtx
  dsimp only
  rw [← fld_zero _ 48, ← fld_zero _ 48]
  constructor
  · rw [stPut_below _ (by norm_num) (by norm_num), stPut_above _ (by norm_num) (by norm_num), (hplace _).1, stPut_same _ (by norm_num),
      Nat.mod_eq_of_lt ctx.isLt]
    exact BitVec.ofNat_toNat ..
  · rw [stPut_below _ (by norm_num) (by norm_num), stPut_below _ (by norm_num) (by norm_num), (hplace _).2,
      stPut_below _ (by norm_num) (by norm_num), stPut_below _ (by norm_num) (by norm_num), stPut_below _ (by norm_num) (by norm_num)]

/-- The skein of a name after a stitch was appended to that of another, or the same. -/
theorem find_given {l : List Skein} {nm nm' : W128} {q : Queued} {k : Skein}
    (h : (l.map fun x => if x.name == nm' then x.given q else x).find? (fun x => x.name == nm) = some k) :
    ∃ k', l.find? (fun x => x.name == nm) = some k' ∧ k.items = k'.items ++ if nm' == nm then [q] else [] := by
  have hname : ((fun x : Skein => x.name == nm) ∘ fun x => if x.name == nm' then x.given q else x) = fun x => x.name == nm := by
    funext x
    dsimp only [Function.comp]
    split <;> rfl
  rw [List.find?_map, hname, Option.map_eq_some_iff] at h
  obtain ⟨k', hk, rfl⟩ := h
  have hnm : k'.name = nm := by simpa using List.find?_some hk
  refine ⟨k', hk, ?_⟩
  rw [hnm, BEq.comm (a := nm')]
  split
  · rfl
  · exact (List.append_nil _).symm

/-- The stitches from `i` on, each behind what its skein had. -/
theorem Load.spawns_items {f : Image} {ctx : BitVec 16} : ∀ {n i : Nat} {l m : Load}, Load.spawns l f ctx i n = (m, .none) →
    ∀ nm k, m.s.skeins.find? (fun x => x.name == nm) = some k → ∃ k' new, l.s.skeins.find? (fun x => x.name == nm) = some k' ∧
      k.items = k'.items ++ new ∧ (∀ q ∈ new, stCtx q.st = ctx) ∧
      new.map (fun q => q.st.toNat % 2 ^ 48) =
        ((List.range' i n).filter fun i => l.names.getD ((f.skeinsOf i).headD 0) 0 == nm).map fun i => f.item (f.find 5) 64 i % 2 ^ 48
  | 0, _, _, _, h, nm, k, hk => by
    cases h
    exact ⟨k, [], hk, (List.append_nil _).symm, fun _ h => absurd h List.not_mem_nil, rfl⟩
  | n + 1, i, l, m, h, nm, k, hk => by
    unfold Load.spawns at h
    dsimp only at h
    obtain ⟨code, c, hcode, happ⟩ | ⟨x, -, happ⟩ := l.s.append_cases (l.names.getD ((f.skeinsOf i).headD 0) 0) ctx outside
      (BitVec.ofNat 512 (f.item (f.find 5) 64 i)) [] [] none
    · rw [happ, if_pos hcode] at h
      cases h
    · rw [happ, if_neg (not_not.mpr rfl)] at h
      obtain ⟨k1, new, hk1, hitems, hctx, hnew⟩ := spawns_items h nm k hk
      obtain ⟨k', hk', hgiven⟩ := find_given hk1
      obtain ⟨hq, hpc⟩ := x.stitch_fields ctx outside (BitVec.ofNat 512 (f.item (f.find 5) 64 i))
      have hitem : (BitVec.ofNat 512 (f.item (f.find 5) 64 i)).toNat % 2 ^ 48 = f.item (f.find 5) 64 i % 2 ^ 48 := by
        rw [BitVec.toNat_ofNat, Nat.mod_mod_of_dvd _ (pow_dvd_pow 2 (by norm_num))]
      refine ⟨k', _, hk', (hitems.trans (congrArg (· ++ new) hgiven)).trans (List.append_assoc ..), fun q hm => ?_, ?_⟩
      · rcases List.mem_append.mp hm with hm | hm
        · split at hm
          · rw [List.mem_singleton.mp hm]
            exact hq
          · exact absurd hm List.not_mem_nil
        · exact hctx q hm
      · rw [List.map_append, hnew, List.range'_succ, List.filter_cons]
        dsimp only
        split
        · exact congrArg (· :: _) (hpc.trans hitem)
        · rfl

theorem stitchesSpawned_holds : stitchesSpawned := by
  refine ⟨fun s f ctx l h c hc => ?_, fun l m f ctx h => ?_⟩
  · obtain ⟨cause, h, -⟩ | ⟨l1, pa, l2, r2, -, -, ⟨hne, hr⟩ | ⟨-, l3, hs, -, hcl⟩⟩ := Load.run_cases h
    · cases h
    · exact absurd hr.symm hne
    · have hkeep := hcl.trans (Load.spawns_keeps hs).2.1
      exact (congrArg (fun t : Tab Cluster => (t.get Cluster.reset c).icache) hkeep).trans ((State.icFlushed_icache ..).1 c hc)
  · rw [List.range_eq_range']
    exact Load.spawns_items h

end Sys2Proof.Machine
end

section
open Sys2Proof Sys2Proof.Machine Sys2Proof.Claims
/-! SUPPORT. What wakes and writes leave of names and objects, and what the death of a name takes (R285, R297). -/
namespace Sys2Proof.Machine

/-- Names, barriers, skeins, tiles and what is on its way to a skein stand. -/
structure ObjectsKept (s t : State) : Prop where
  names : t.names = s.names
  barriers : t.barriers = s.barriers
  skeins : t.skeins = s.skeins
  spawns : t.spawns = s.spawns
  tiles : ∀ c, (t.cluster c).tiles = (s.cluster c).tiles

namespace ObjectsKept
variable {s t u : State}

theorem refl (s : State) : ObjectsKept s s := ⟨rfl, rfl, rfl, rfl, fun _ => rfl⟩

theorem trans (h : ObjectsKept s t) (k : ObjectsKept t u) : ObjectsKept s u :=
  ⟨k.names.trans h.names, k.barriers.trans h.barriers, k.skeins.trans h.skeins, k.spawns.trans h.spawns, fun c => (k.tiles c).trans (h.tiles c)⟩

theorem ready (s : State) (cl : Nat) (st : W512) (core : Nat) (obs : List Nat) (seen fence : List RelInfo) : ObjectsKept s (s.ready cl st core obs seen fence) := by
  refine ⟨rfl, rfl, rfl, rfl, fun c => ?_⟩
  rw [State.ready, State.cluster_modCluster]
  split
  · next h => rw [h]
  · rfl

theorem unpark (s : State) (p : Parked) (v : W64) (obs : List Nat) : ObjectsKept s (s.unpark p v obs) := by
  unfold State.unpark
  refine .trans ?_ (ready ..)
  exact ⟨rfl, rfl, rfl, rfl, fun _ => rfl⟩

theorem again (s : State) (p : Parked) : ObjectsKept s (s.again p) := by
  unfold State.again
  refine .trans ?_ (ready ..)
  exact ⟨rfl, rfl, rfl, rfl, fun _ => rfl⟩

/-- The waiters of a word: slots run, wait lists and parked stitches change. -/
theorem wake (s : State) (k n : Nat) : ObjectsKept s (s.wake k n) := by
  unfold State.wake
  dsimp only
  generalize h1 : List.foldl _ s s.slots = s1
  have H1 : ObjectsKept s s1 := by
    subst h1
    refine foldl_keeps (ObjectsKept s) _ (fun t e ht => ?_) _ _ (refl s)
    split
    · split
      · exact ht.trans ⟨rfl, rfl, rfl, rfl, fun _ => rfl⟩
      · split
        · exact ht.trans ⟨rfl, rfl, rfl, rfl, fun _ => rfl⟩
        · exact ht
    · exact ht
  generalize h2 : List.foldl _ s1 s1.cores = s2
  have H2 : ObjectsKept s s2 := by
    subst h2
    refine foldl_keeps (ObjectsKept s) _ (fun t e ht => ?_) _ _ H1
    split
    · exact ht
    · exact ht.trans ⟨rfl, rfl, rfl, rfl, fun _ => rfl⟩
  generalize h3 : List.foldl _ s2 s2.parked = s3
  have H3 : ObjectsKept s s3 := by
    subst h3
    refine foldl_keeps (ObjectsKept s) _ (fun t p ht => ?_) _ _ H2
    split
    · split
      · exact ht.trans (again ..)
      · split
        · exact ht.trans (unpark ..)
        · exact ht
    · exact ht
  exact H3.trans ⟨rfl, rfl, rfl, rfl, fun _ => rfl⟩

theorem write (s : State) (k n v : Nat) (ri : List RelInfo) : ObjectsKept s (s.write k n v ri) := by
  unfold State.write
  split
  · exact refl s
  · refine .trans ?_ (wake ..)
    exact ⟨rfl, rfl, rfl, rfl, fun _ => rfl⟩

end ObjectsKept

/-! Death (R285) -/

/-- Memory and what is on its way stand; names and objects have only been taken away. -/
structure Shrunk (s t : State) : Prop where
  mem : t.mem = s.mem
  spawns : t.spawns = s.spawns
  names : ∀ x ∈ t.names, x ∈ s.names
  barriers : ∀ x ∈ t.barriers, x ∈ s.barriers
  skeins : ∀ x ∈ t.skeins, x ∈ s.skeins
  tiles : ∀ c, ∀ x ∈ (t.cluster c).tiles, x ∈ (s.cluster c).tiles

theorem Shrunk.refl (s : State) : Shrunk s s := ⟨rfl, rfl, fun _ h => h, fun _ h => h, fun _ h => h, fun _ _ h => h⟩

theorem Shrunk.trans {s t u : State} (h : Shrunk s t) (k : Shrunk t u) : Shrunk s u :=
  ⟨k.mem.trans h.mem, k.spawns.trans h.spawns, fun x hx => h.names x (k.names x hx), fun x hx => h.barriers x (k.barriers x hx),
    fun x hx => h.skeins x (k.skeins x hx), fun c x hx => h.tiles c x (k.tiles c x hx)⟩

theorem ObjectsKept.shrunk {s t : State} (h : ObjectsKept s t) (hm : t.mem = s.mem) : Shrunk s t :=
  ⟨hm, h.spawns, fun _ hx => h.names ▸ hx, fun _ hx => h.barriers ▸ hx, fun _ hx => h.skeins ▸ hx, fun c _ hx => h.tiles c ▸ hx⟩

/-- The tile, barrier or skein of an entry's name is gone. -/
structure ObjectGone (t : State) (e : NameEntry) : Prop where
  tile : e.cls = 1 → ∀ x ∈ (t.cluster (nmCluster e.name)).tiles, x.name ≠ e.name
  barrier : e.cls = 2 → ∀ b ∈ t.barriers, b.name ≠ e.name
  skein : e.cls = 3 → ∀ k ∈ t.skeins, k.name ≠ e.name

theorem ObjectGone.shrunk {t u : State} {e : NameEntry} (h : ObjectGone t e) (k : Shrunk t u) : ObjectGone u e :=
  ⟨fun hc x hx => h.tile hc x (k.tiles _ x hx), fun hc x hx => h.barrier hc x (k.barriers x hx), fun hc x hx => h.skein hc x (k.skeins x hx)⟩

/-- Released parks are all that a fold of releases changes. -/
theorem foldl_unpark_kept {g : State → Parked → State} (hg : ∀ s p, g s p = s ∨ ∃ v obs, g s p = s.unpark p v obs) (l : List Parked) (s : State) :
    ObjectsKept s (l.foldl g s) ∧ (l.foldl g s).mem = s.mem := by
  refine foldl_keeps (fun t => ObjectsKept s t ∧ t.mem = s.mem) g (fun t p ht => ?_) l s ⟨.refl s, rfl⟩
  obtain h | ⟨v, obs, h⟩ := hg t p
  · rw [h]
    exact ht
  · rw [h]
    exact ⟨ht.1.trans (.unpark ..), ht.2⟩

theorem State.freeBarrier_kept (s : State) (serial : W64) (v : W64) (rel : List RelInfo) :
    ObjectsKept s (s.freeBarrier serial v rel) ∧ (s.freeBarrier serial v rel).mem = s.mem := by
  refine foldl_unpark_kept (fun s p => ?_) _ _
  split
  · split
    · exact .inr ⟨_, _, rfl⟩
    · exact .inl rfl
  · exact .inl rfl

theorem mem_filter_name {α : Type} {name : α → W128} {l : List α} {nm : W128} {x : α} : x ∈ l.filter (fun x => name x != nm) ↔ x ∈ l ∧ name x ≠ nm := by
  rw [List.mem_filter, bne_iff_ne]

/-- The object of a name destroyed: it is gone, every name stands (R285). -/
theorem State.destroy_shrunk (s : State) (e : NameEntry) : Shrunk s (s.destroy e) ∧ ObjectGone (s.destroy e) e ∧ (s.destroy e).names = s.names := by
  have hcls : ∀ {n : Nat}, n < 64 → (e.cls = BitVec.ofNat 6 n ↔ e.cls.toNat = n) := fun hn => by
    rw [← BitVec.toNat_inj, BitVec.toNat_ofNat, Nat.mod_eq_of_lt hn]
  have h1 := hcls (n := 1) (by norm_num)
  have h2 := hcls (n := 2) (by norm_num)
  have h3 := hcls (n := 3) (by norm_num)
  unfold State.destroy
  split
  · next hc =>
    refine ⟨⟨rfl, rfl, fun _ h => h, fun _ h => h, fun _ h => h, fun c x hx => ?_⟩, ⟨fun _ x hx => ?_, fun h => ?_, fun h => ?_⟩, rfl⟩
    · rw [State.cluster_modCluster] at hx
      split at hx
      · next hcl => exact hcl ▸ (mem_filter_name.mp hx).1
      · exact hx
    · rw [State.cluster_modCluster_self] at hx
      exact (mem_filter_name.mp hx).2
    · exact absurd (hc.symm.trans (h2.mp h)) (by decide)
    · exact absurd (hc.symm.trans (h3.mp h)) (by decide)
  · next hc =>
    obtain ⟨hkept, hmem⟩ := s.freeBarrier_kept (nmSerial e.name) (w64 (2 ^ 63 + stGONE)) []
    have hs := hkept.shrunk hmem
    refine ⟨⟨hmem, hs.spawns, hs.names, fun x hx => hs.barriers x (mem_filter_name.mp hx).1, hs.skeins, hs.tiles⟩, ⟨fun h => ?_, fun _ x hx => (mem_filter_name.mp hx).2, fun h => ?_⟩, hkept.names⟩
    · exact absurd (hc.symm.trans (h1.mp h)) (by decide)
    · exact absurd (hc.symm.trans (h3.mp h)) (by decide)
  · next hc =>
    refine ⟨⟨rfl, rfl, fun _ h => h, fun _ h => h, fun x hx => (mem_filter_name.mp hx).1, fun _ _ h => h⟩, ⟨fun h => ?_, fun h => ?_, fun _ x hx => (mem_filter_name.mp hx).2⟩, rfl⟩
    · exact absurd (hc.symm.trans (h1.mp h)) (by decide)
    · exact absurd (hc.symm.trans (h2.mp h)) (by decide)
  · next n1 n2 n3 =>
    exact ⟨.refl s, ⟨fun h => absurd (h1.mp h) n1, fun h => absurd (h2.mp h) n2, fun h => absurd (h3.mp h) n3⟩, rfl⟩

/-- A name dies: its entry and its object are gone, the other entries stand as they were (R285). -/
theorem State.nameDies_live {s : State} {serial : W64} {e : NameEntry} (h : s.entry serial = some e) (op : Option Nat) (ri : Option RelInfo) :
    Shrunk s (s.nameDies serial op ri) ∧ ObjectGone (s.nameDies serial op ri) e ∧
      (s.nameDies serial op ri).names = s.names.filter fun x => x.name != e.name := by
  have hdying : ((s.names.map fun x => if x.name == e.name then { x with dying := true } else x).filter fun x => x.name != e.name) =
      s.names.filter fun x => x.name != e.name := by
    have hname : (fun x : NameEntry => x.name != e.name) ∘ (fun x => if x.name == e.name then { x with dying := true } else x) = fun x => x.name != e.name := by
      funext x
      dsimp only [Function.comp]
      split <;> rfl
    rw [List.filter_map, hname]
    refine (List.map_congr_left fun x hx => ?_).trans (List.map_id _)
    exact if_neg fun he => (mem_filter_name.mp hx).2 (beq_iff_eq.mp he)
  unfold State.nameDies
  rw [h]
  dsimp only
  generalize hm : ({ s with names := _, deaths := _ } : State) = m
  obtain ⟨hd, hgone, hnames⟩ := m.destroy_shrunk e
  generalize hf : List.foldl _ (m.destroy e) (m.destroy e).parked = t
  have ht : ObjectsKept (m.destroy e) t ∧ t.mem = (m.destroy e).mem := by
    subst hf
    refine foldl_unpark_kept (fun s p => ?_) _ _
    split
    · split
      · exact .inr ⟨_, _, rfl⟩
      · exact .inl rfl
    · exact .inl rfl
  have hdt := hd.trans (ht.1.shrunk ht.2)
  have htn : t.names.filter (fun x => x.name != e.name) = s.names.filter fun x => x.name != e.name := by
    rw [ht.1.names, hnames, ← hm]
    exact hdying
  have hgt := hgone.shrunk (ht.1.shrunk ht.2)
  subst hm
  exact ⟨⟨hdt.mem, hdt.spawns, fun x hx => (mem_filter_name.mp (htn ▸ hx)).1, hdt.barriers, hdt.skeins, hdt.tiles⟩, ⟨hgt.tile, hgt.barrier, hgt.skein⟩, htn⟩

theorem State.nameDies_none {s : State} {serial : W64} (h : s.entry serial = none) (op : Option Nat) (ri : Option RelInfo) : s.nameDies serial op ri = s := by
  unfold State.nameDies
  rw [h]

/-! A load undone (R65) -/

/-- Each serial is one entry's, and none is dying. -/
structure State.Distinct (s : State) : Prop where
  serial : ∀ a ∈ s.names, ∀ b ∈ s.names, nmSerial a.name = nmSerial b.name → a = b
  live : ∀ e ∈ s.names, e.dying = false

theorem State.Distinct.shrunk {s t : State} (h : s.Distinct) (k : Shrunk s t) : t.Distinct :=
  ⟨fun a ha b hb => h.serial a (k.names a ha) b (k.names b hb), fun e he => h.live e (k.names e he)⟩

theorem State.entry_eq_none {s : State} {serial : W64} (h : ∀ x ∈ s.names, nmSerial x.name ≠ serial) : s.entry serial = none := by
  refine List.find?_eq_none.mpr fun x hx hp => h x hx ?_
  simp only [Bool.and_eq_true, beq_iff_eq] at hp
  exact hp.1

theorem State.entry_some {s : State} {serial : W64} {e : NameEntry} (h : s.entry serial = some e) : e ∈ s.names ∧ nmSerial e.name = serial := by
  have hp := List.find?_some h
  simp only [Bool.and_eq_true, beq_iff_eq] at hp
  exact ⟨List.mem_of_find?_eq_some h, hp.1⟩

/-- In such a state an entry is found by its serial. -/
theorem State.Distinct.entry {s : State} (h : s.Distinct) {e : NameEntry} (he : e ∈ s.names) : s.entry (nmSerial e.name) = some e := by
  cases hx : s.entry (nmSerial e.name) with
  | none =>
    have hp := List.find?_eq_none.mp hx e he
    simp [h.live e he] at hp
  | some x =>
    obtain ⟨hm, hs⟩ := State.entry_some hx
    rw [h.serial x hm e he hs]

/-- Entries of other serials are found as before once those of a name are taken away. -/
theorem State.entry_filter {s t : State} {e : NameEntry} {serial : W64} (h : t.names = s.names.filter fun x => x.name != e.name)
    (hne : serial ≠ nmSerial e.name) : t.entry serial = s.entry serial := by
  unfold State.entry
  rw [h, List.find?_filter]
  congr 1
  funext x
  by_cases hx : nmSerial x.name = serial
  · have : x.name ≠ e.name := fun he => hne (hx.symm.trans (congrArg nmSerial he))
    simp [this, hx]
  · simp [hx]

/-- Names that die in turn: those named are gone with their objects, every other entry stands. -/
theorem foldl_nameDies : ∀ (l : List W128) (s : State), s.Distinct →
    let t := l.foldl (fun s nm => s.nameDies (nmSerial nm) none none) s
    Shrunk s t ∧ (∀ e ∈ s.names, e.name ∈ l → t.entry (nmSerial e.name) = none ∧ ObjectGone t e) ∧ ∀ n, n ∉ l.map nmSerial → t.entry n = s.entry n
  | [], s, _ => ⟨.refl s, fun _ _ h => absurd h List.not_mem_nil, fun _ _ => rfl⟩
  | nm :: l, s, hd => by
    intro t
    cases hx : s.entry (nmSerial nm) with
    | none =>
      have ht : t = l.foldl (fun s nm => s.nameDies (nmSerial nm) none none) s := congrArg (fun s => l.foldl (fun s nm => s.nameDies (nmSerial nm) none none) s) (State.nameDies_none hx none none)
      obtain ⟨hs, hgone, hstay⟩ := foldl_nameDies l s hd
      rw [ht]
      refine ⟨hs, fun e he hm => hgone e he ((List.mem_cons.mp hm).resolve_left ?_), fun n hn => hstay n fun h => hn (List.mem_cons_of_mem _ h)⟩
      rintro rfl
      exact absurd (hx.symm.trans (hd.entry he)) (by simp)
    | some x =>
      obtain ⟨hxm, hxs⟩ := State.entry_some hx
      obtain ⟨hs1, hgone1, hnames⟩ := State.nameDies_live hx none none
      obtain ⟨hs, hgone, hstay⟩ := foldl_nameDies l (s.nameDies (nmSerial nm) none none) (hd.shrunk hs1)
      have hne : ∀ y ∈ t.names, y.name ≠ x.name := fun y hy => (mem_filter_name.mp (hnames ▸ hs.names y hy)).2
      refine ⟨hs1.trans hs, fun e he hm => ?_, fun n hn => ?_⟩
      · by_cases hen : e.name = x.name
        · cases hd.serial e he x hxm (congrArg nmSerial hen)
          refine ⟨State.entry_eq_none fun y hy hser => ?_, hgone1.shrunk hs⟩
          exact hne y hy (congrArg NameEntry.name (hd.serial y (hs1.names y (hs.names y hy)) x hxm hser))
        · refine hgone e (hnames ▸ mem_filter_name.mpr ⟨he, hen⟩) ((List.mem_cons.mp hm).resolve_left ?_)
          rintro rfl
          exact hen (congrArg NameEntry.name (hd.serial e he x hxm hxs.symm))
      · rw [List.map_cons, List.mem_cons, not_or] at hn
        exact (hstay n hn.2).trans (State.entry_filter hnames (hxs ▸ hn.1))

/-- Entries cleared. -/
def State.unmapped (s : State) (leaves : List Nat) : State := leaves.foldl (fun s at_ => s.put (rimKey at_) 8 0) s

theorem State.unmapped_mem (s : State) (leaves : List Nat) : (s.unmapped leaves).mem = storeAll s.mem (leaves.flatMap fun at_ => [(rimKey at_, 8, 0)]) :=
  foldl_storeAll (fun _ _ => rfl) _ _

theorem State.unmapped_kept (s : State) (leaves : List Nat) : ObjectsKept s (s.unmapped leaves) :=
  foldl_keeps (ObjectsKept s) (fun s at_ => s.put (rimKey at_) 8 0) (fun _ _ h => h.trans ⟨rfl, rfl, rfl, rfl, fun _ => rfl⟩) leaves s (.refl s)

theorem State.unmapped_nat (s : State) {leaves : List Nat} {a : Nat} (h : a ∈ leaves) : (s.unmapped leaves).nat (rimKey a) 8 = 0 := by
  refine (memNat_eq 8 _ (rimKey a) 0 fun i hi => ?_).trans (Nat.zero_mod _)
  rw [s.unmapped_mem, Nat.zero_div]
  refine get_storeAll (fun w hw _ _ => ?_) (.inr ⟨(rimKey a, 8, 0), List.mem_flatMap.mpr ⟨a, h, List.mem_singleton.mpr rfl⟩, ?_⟩)
  · obtain ⟨b, -, hb⟩ := List.mem_flatMap.mp hw
    rw [List.mem_singleton.mp hb, Nat.zero_div]
  · dsimp only
    omega

theorem loadsUndone_holds : loadsUndone := by
  intro l hserial hlive t
  have hkept := l.s.unmapped_kept l.leaves
  have hd : (l.s.unmapped l.leaves).Distinct :=
    ⟨fun a ha b hb => hserial a (hkept.names ▸ ha) b (hkept.names ▸ hb), fun e he => hlive e (hkept.names ▸ he)⟩
  obtain ⟨hs, hgone, hstay⟩ := foldl_nameDies l.names _ hd
  refine ⟨fun a ha => ?_, fun e he hm => ?_, fun k hk => hkept.skeins ▸ hs.skeins k hk, hs.spawns.trans hkept.spawns, fun n hn => ?_⟩
  · exact (congrArg (fun m => memNat m (rimKey a) 8) hs.mem).trans (l.s.unmapped_nat ha)
  · obtain ⟨hentry, hobj⟩ := hgone e (hkept.names ▸ he) hm
    exact ⟨hentry, hobj.tile, hobj.barrier, hobj.skein⟩
  · refine (hstay n hn).trans ?_
    unfold State.entry
    rw [hkept.names]

end Sys2Proof.Machine
end

section
open Sys2Proof Sys2Proof.Machine Sys2Proof.Claims
/-! SUPPORT. Names issued and objects made (R242, R281, R282, R287). -/
namespace Sys2Proof.Machine

/-- A live entry of a name, as it is issued (R282). -/
def Issued (t : State) (nm : W128) (cls home : Nat) (ctx : BitVec 16) : Prop :=
  ∃ e ∈ t.names, e.name = nm ∧ e.dying = false ∧ e.ctx = ctx ∧ e.cls.toNat = cls ∧ e.home = home

theorem Issued.of_names {s t : State} {nm : W128} {cls home : Nat} {ctx : BitVec 16} (h : Issued s nm cls home ctx) (ht : t.names = s.names) :
    Issued t nm cls home ctx := by
  obtain ⟨e, he, hrest⟩ := h
  exact ⟨e, ht ▸ he, hrest⟩

theorem State.newName_issued {s t : State} {d cls cluster home : Nat} {ctx : BitVec 16} {value : W64} {nm : W128} (hcls : cls < 64)
    (h : s.newName d cls cluster home ctx value = .ok (t, some nm)) : Issued t nm cls home ctx := by
  unfold State.newName at h
  split at h
  · cases h
  · cases h
  · dsimp only at h
    split at h
    · cases h
    · split at h
      · cases h
      · cases h
        exact ⟨_, List.mem_append_right _ (List.mem_singleton.mpr rfl), rfl, rfl, rfl, (BitVec.toNat_ofNat ..).trans (Nat.mod_eq_of_lt hcls), rfl⟩

/-- A tile that is made stands empty in its unit, under its name; a refusal has a status (R242). -/
theorem State.newTile_cases {s t : State} {cl m n k : Nat} {ctx : BitVec 16} {int : Bool} {r : Except Nat W128}
    (h : s.newTile cl ctx m n k int = .ok (t, r)) : (∃ st, r = .error st ∧ st ≠ 0) ∨
    ∃ nm, r = .ok nm ∧ Issued t nm 1 cl ctx ∧ ⟨nm, ctx, m, n, k, int, [], 0, 0, [], [], []⟩ ∈ (t.cluster cl).tiles := by
  unfold State.newTile at h
  dsimp only at h
  split at h
  · cases h
    exact .inl ⟨stPERM, rfl, by decide⟩
  split at h
  · cases h
  split at h
  · cases h
    exact .inl ⟨stFULL, rfl, by decide⟩
  split at h
  · cases h
  · cases h
    exact .inl ⟨stFULL, rfl, by decide⟩
  · cases h
    exact .inl ⟨stFULL, rfl, by decide⟩
  · next u nm hn =>
    cases h
    refine .inr ⟨nm, rfl, (State.newName_issued (by norm_num) hn).of_names rfl, ?_⟩
    rw [State.cluster_modCluster_self]
    exact List.mem_append_right _ (List.mem_singleton.mpr rfl)

/-- An object that is made from a block whose line is none: it stands under its name, on the die of the block's hint; a refusal has a status (R287). -/
theorem State.make_cases {s t : State} {op : NameOp} {blk : BitVec 1024} {r : Except Nat W128} {hint cls : Nat}
    (hhint : bit blk.toNat 27 = true ∧ fld blk.toNat 16 11 = hint) (hcls : fld blk.toNat 0 6 = cls) (hline : fld blk.toNat 64 64 = 0)
    (h : s.make op blk = .ok (t, r)) : (∃ st, r = .error st ∧ st ≠ 0) ∨
    ∃ nm u, r = .ok nm ∧ nnewOk blk = true ∧ Issued u nm cls hint op.ctx ∧ t = u.makeObject op blk nm hint 0 := by
  unfold State.make at h
  dsimp only at h
  rw [if_pos hhint.1, hhint.2, hcls, hline] at h
  split at h
  · cases h
    exact .inl ⟨stPERM, rfl, by decide⟩
  next hok =>
  rw [show decide (cls ≠ 2 ∨ w64 0 = 0) = true from decide_eq_true (.inr rfl), if_pos rfl] at h
  dsimp only at h
  split at h
  · cases h
  · cases h
    exact .inl ⟨stFULL, rfl, by decide⟩
  · cases h
    exact .inl ⟨stFULL, rfl, by decide⟩
  · next u nm hn =>
    split at h
    · cases h
      exact .inl ⟨stFULL, rfl, by decide⟩
    · cases h
      exact .inr ⟨nm, u, rfl, not_not.mp hok, State.newName_issued (hcls ▸ fld_lt ..) hn, rfl⟩

/-! The creation block of a record (R287) -/

/-- The block that a record of the loader makes: class, hint, the hint's bit, parameters. -/
def loaderBlock (cls hint params : Nat) : BitVec 1024 := BitVec.ofNat 1024 (cls + hint * 2 ^ 16 + 2 ^ 27 + params * 2 ^ 512)

theorem loaderBlock_fields {cls hint params : Nat} (hc : cls < 2 ^ 6) (hh : hint < 2 ^ 11) (hp : params < 2 ^ 512) :
    fld (loaderBlock cls hint params).toNat 0 6 = cls ∧ fld (loaderBlock cls hint params).toNat 16 11 = hint ∧
    bit (loaderBlock cls hint params).toNat 27 = true ∧ fld (loaderBlock cls hint params).toNat 64 64 = 0 ∧
    fld (loaderBlock cls hint params).toNat 512 512 = params := by
  have hlow : cls + hint * 2 ^ 16 + 2 ^ 27 = cls + (hint + 1 * 2 ^ 11) * 2 ^ 16 := by omega
  have hlt : cls + (hint + 1 * 2 ^ 11) * 2 ^ 16 < 2 ^ 64 := by omega
  have hc16 : cls < 2 ^ 16 := by omega
  have hfld : ∀ {lo w}, lo + w ≤ 1024 → fld (loaderBlock cls hint params).toNat lo w =
      fld (cls + (hint + 1 * 2 ^ 11) * 2 ^ 16 + params * 2 ^ 512) lo w := fun h => by
    rw [loaderBlock, BitVec.toNat_ofNat, fld_mod h, hlow]
  refine ⟨?_, ?_, ?_, ?_, ?_⟩
  · rw [hfld (by norm_num), fld_add_low (by norm_num), fld_add_low (by norm_num), fld_of_lt hc]
  · rw [hfld (by norm_num), fld_add_low (by norm_num), fld_add_high hc16 (by norm_num), Nat.sub_self, fld_add_low (by norm_num), fld_of_lt hh]
  · rw [bit, hfld (by norm_num), fld_add_low (by norm_num), fld_add_high hc16 (by norm_num), fld_add_high hh (by norm_num)]
    rfl
  · rw [hfld (by norm_num), fld_add_low (by norm_num), fld, Nat.div_eq_of_lt hlt, Nat.zero_mod]
  · rw [hfld (by norm_num), fld_add_high (hlt.trans (Nat.pow_lt_pow_right (by norm_num) (by norm_num))) (le_refl _), Nat.sub_self, fld_of_lt hp]

section
variable {s t : State} {op : NameOp} {nm : W128} {hint params : Nat} {blk : BitVec 1024}

/-- A barrier put back: it is among the barriers where one of its name was, and the names stand. -/
theorem State.putBarrier_mem {b x : Barrier} (hx : x ∈ s.barriers) (hb : x.name = b.name) : b ∈ (s.putBarrier b).barriers ∧ (s.putBarrier b).names = s.names := by
  unfold State.putBarrier
  dsimp only
  rw [(ObjectsKept.write ..).barriers, (ObjectsKept.write ..).names]
  exact ⟨List.mem_map.mpr ⟨x, hx, if_pos (beq_iff_eq.mpr hb)⟩, rfl⟩

/-- A barrier made from a record: its count and scope, nobody arrived, no line of its own (R299). -/
theorem State.makeObject_barrier (hcls : fld blk.toNat 0 6 = 2) (hline : fld blk.toNat 64 64 = 0) (hparams : fld blk.toNat 512 512 = params)
    (ht : t = s.makeObject op blk nm hint 0) :
    t.names = s.names ∧ ∃ b ∈ t.barriers, b.name = nm ∧ b.count.toNat = params % 2 ^ 32 ∧ b.scope = scopeOf (fld params 32 3) ∧ b.arrived = 0 ∧ b.line = 0 := by
  unfold State.makeObject at ht
  dsimp only at ht
  rw [hcls, hline, hparams] at ht
  obtain ⟨hmem, hnames⟩ := State.putBarrier_mem (s := { s with barriers := s.barriers ++ [_] }) (List.mem_append_right s.barriers (List.mem_singleton.mpr rfl)) rfl
  rw [ht]
  exact ⟨hnames, _, hmem, rfl, BitVec.toNat_ofNat .., rfl, rfl, rfl⟩

/-- A skein made from a record: empty, with the hint as its cluster (R269). -/
theorem State.makeObject_skein (hcls : fld blk.toNat 0 6 = 3) (ht : t = s.makeObject op blk nm hint 0) :
    t.names = s.names ∧ ∃ k ∈ t.skeins, k.name = nm ∧ k.ctx = op.ctx ∧ k.cluster = hint ∧ k.items = [] := by
  unfold State.makeObject at ht
  dsimp only at ht
  rw [hcls] at ht
  rw [ht]
  exact ⟨rfl, _, List.mem_append_right _ (List.mem_singleton.mpr rfl), rfl, rfl, rfl, rfl⟩

/-- The scopes that a barrier may have (R287). -/
theorem nnewOk_scope (hcls : fld blk.toNat 0 6 = 2) (hparams : fld blk.toNat 512 512 = params) (h : nnewOk blk = true) :
    1 ≤ fld params 32 3 ∧ fld params 32 3 ≤ 5 := by
  unfold nnewOk at h
  dsimp only at h
  rw [hcls, hparams] at h
  simp only [Bool.and_eq_true, decide_eq_true_eq] at h
  exact h.2.1.1.2

theorem scopeCode_scopeOf {n : Nat} (h1 : 1 ≤ n) (h5 : n ≤ 5) : scopeCode (scopeOf n) = n := by
  interval_cases n <;> rfl
end

end Sys2Proof.Machine
end

section
open Sys2Proof Sys2Proof.Machine Sys2Proof.Claims
namespace Sys2Proof.Machine
/-! The records (R63 step 5) -/

/-- An object that is made from a record stands under its name; a refusal has a status. -/
theorem State.make_loaderBlock {s t : State} {op : NameOp} {cls hint params : Nat} {r : Except Nat W128} (hc : cls < 2 ^ 6) (hh : hint < 2 ^ 11)
    (hp : params < 2 ^ 512) (h : s.make op (loaderBlock cls hint params) = .ok (t, r)) : (∃ st, r = .error st ∧ st ≠ 0) ∨
    ∃ nm u, r = .ok nm ∧ nnewOk (loaderBlock cls hint params) = true ∧ Issued u nm cls hint op.ctx ∧
      t = u.makeObject op (loaderBlock cls hint params) nm hint 0 := by
  obtain ⟨hcls, hhint, hbit, hline, -⟩ := loaderBlock_fields hc hh hp
  exact State.make_cases ⟨hbit, hhint⟩ hcls hline h

/-- What a record that is made leaves: the tile, the barrier or the skein was made under the name. -/
theorem State.makeRecord_made {s t : State} {ctx : BitVec 16} {cl r : Nat} {nm : W128} (hcl : cl < 2 ^ 11) (h : s.makeRecord ctx cl r = .ok (t, 0, nm)) :
    (fld r 32 8 = 1 ∧ s.newTile (fld r 120 11) ctx (fld r 64 8) (fld r 72 8) (fld r 80 32) (bit r 112) = .ok (t, .ok nm)) ∨
    ∃ op : NameOp, op.ctx = ctx ∧
      (fld r 32 8 = 2 ∧ s.make op (loaderBlock 2 cl (fld r 64 35)) = .ok (t, .ok nm) ∨
       fld r 32 8 ≠ 1 ∧ fld r 32 8 ≠ 2 ∧ s.make op (loaderBlock 3 (fld r 96 11) (fld r 64 32)) = .ok (t, .ok nm)) := by
  unfold State.makeRecord at h
  extract_lets named op blk u v at h
  -- The blocks stay folded: nothing here looks into them, and their numbers are too large to compute with.
  have hblk : ∀ cls hint params, blk cls hint params = loaderBlock cls hint params := fun _ _ _ => rfl
  clear_value blk
  have hnamed : ∀ {res}, named res = .ok (t, 0, nm) → (∀ u st, res = .ok (u, .error st) → st ≠ 0) → res = .ok (t, .ok nm) := by
    rintro (⟨w, st | nm'⟩ | f | ks) hres hst
    · cases hres
      exact absurd rfl (hst _ _ rfl)
    · cases hres
      rfl
    · cases hres
    · cases hres
  have hmade : ∀ {cls hint params}, cls < 2 ^ 6 → hint < 2 ^ 11 → params < 2 ^ 512 → named (s.make (op (32 * hint)) (blk cls hint params)) = .ok (t, 0, nm) →
      s.make (op (32 * hint)) (loaderBlock cls hint params) = .ok (t, .ok nm) := fun hc hh hp h => by
    rw [← hblk]
    refine hnamed h fun w st hres => ?_
    rw [hblk] at hres
    obtain ⟨st', hst, hne⟩ | ⟨_, _, hok, -⟩ := State.make_loaderBlock hc hh hp hres
    · cases hst
      exact hne
    · cases hok
  clear_value named
  split at h
  · next hkind =>
    split at h
    · cases h
    · refine .inl ⟨hkind, hnamed h fun w st hres => ?_⟩
      obtain ⟨st', hst, hne⟩ | ⟨_, hok, -⟩ := State.newTile_cases hres
      · cases hst
        exact hne
      · cases hok
  · next hkind => exact .inr ⟨_, rfl, .inl ⟨hkind, hmade (by norm_num) hcl (fld_lt_pow (by norm_num)) h⟩⟩
  · next h1 h2 => exact .inr ⟨_, rfl, .inr ⟨h1, h2, hmade (by norm_num) (fld_lt ..) (fld_lt_pow (by norm_num)) h⟩⟩

theorem objectsMade_holds : objectsMade := by
  refine ⟨fun s t ctx cl r nm hcl h => ?_, fun l m f ctx i n => ⟨fun h => (Load.objects_cases h).1 rfl, fun cause ix code h => (Load.objects_cases h).2 cause ix code rfl⟩⟩
  intro kind at_
  obtain ⟨h1, hmade⟩ | ⟨op, rfl, ⟨h2, hmade⟩ | ⟨h1, h2, hmade⟩⟩ := State.makeRecord_made hcl h
  · obtain ⟨_, hbad, -⟩ | ⟨_, hok, hissued, htile⟩ := State.newTile_cases hmade
    · cases hbad
    cases hok
    have hk : kind = 1 := h1
    have hat : at_ = fld r 120 11 := if_pos h1
    rw [hk, hat]
    exact ⟨hissued, fun _ => ⟨_, htile, rfl, rfl, rfl, rfl, rfl, rfl, rfl, rfl⟩, fun h => absurd h (by decide), fun h => absurd rfl h⟩
  · obtain ⟨_, hbad, -⟩ | ⟨_, u, hok, hnew, hissued, ht⟩ := State.make_loaderBlock (by norm_num) hcl (fld_lt_pow (by norm_num)) hmade
    · cases hbad
    cases hok
    obtain ⟨hcls, -, -, hline, hparams⟩ := loaderBlock_fields (cls := 2) (params := fld r 64 35) (by norm_num) hcl (fld_lt_pow (by norm_num))
    obtain ⟨hnames, b, hb, hname, hcount, hscope, harrived, hbline⟩ := State.makeObject_barrier hcls hline hparams ht
    obtain ⟨hs1, hs5⟩ := nnewOk_scope hcls hparams hnew
    have hk : kind = 2 := h2
    have hat : at_ = cl := (if_neg (by omega)).trans (if_pos h2)
    have hcnt : fld r 64 35 % 2 ^ 32 = fld r 64 32 := (fld_zero ..).symm.trans (fld_fld (by norm_num))
    rw [hk, hat]
    refine ⟨hissued.of_names hnames, fun h => absurd h (by decide), fun _ => ⟨b, hb, hname, hcount.trans hcnt, ?_, harrived, hbline⟩, fun _ h => absurd rfl h⟩
    rw [hscope, scopeCode_scopeOf hs1 hs5]
    exact fld_fld (by norm_num)
  · obtain ⟨_, hbad, -⟩ | ⟨_, u, hok, -, hissued, ht⟩ := State.make_loaderBlock (by norm_num) (fld_lt ..) (fld_lt_pow (by norm_num)) hmade
    · cases hbad
    cases hok
    obtain ⟨hcls, -⟩ := loaderBlock_fields (cls := 3) (params := fld r 64 32) (by norm_num) (fld_lt r 96 11) (fld_lt_pow (by norm_num))
    obtain ⟨hnames, k, hk, hname, hctx, hcluster, hitems⟩ := State.makeObject_skein hcls ht
    have hat : at_ = fld r 96 11 := (if_neg h1).trans (if_neg h2)
    have hthree : (if kind = 1 ∨ kind = 2 then kind else 3) = 3 := if_neg (not_or.mpr ⟨h1, h2⟩)
    rw [hthree, hat]
    exact ⟨hissued.of_names hnames, fun h => absurd h h1, fun h => absurd h h2, fun _ _ => ⟨k, hk, hname, hctx, hcluster, hitems⟩⟩

end Sys2Proof.Machine
end

section
open Sys2Proof Sys2Proof.Machine Sys2Proof.Claims

/-- Settles O56: how a load is told, its pages, its placement, its objects, patches and stitches, and its undoing, one lemma each. -/
theorem imagesLoaded : Obligations.ImagesLoaded :=
  ⟨imagesLoaded_holds, pagesMapped_holds, imagePlaced_holds, objectsMade_holds, namesPatched_holds, stitchesSpawned_holds, loadsUndone_holds⟩
end
